-- ==== Sys2Proof/Word.lean ====
section
/-! DEFINITION. The word types of the block (R12: byte 0 lowest, bit 0 least significant). -/

namespace Sys2Proof

/-- One byte. -/
abbrev Byte := BitVec 8

/-- One 64-bit register or descriptor word. -/
abbrev Word := BitVec 64

/-- A run of bytes, lowest address first. -/
abbrev Bytes := List Byte

end Sys2Proof
end

