-- ==== Sys2Proof/Syntax.lean ====
section
/-! DEFINITION. The commands of the block: one constructor for each row of the spec's table of operations
and events, with the row's operands. Indices are finite types, so that no command names a part that the
build F48 does not have. -/

namespace Sys2Proof

/-- A byte offset in the 16 MiB target window (R269). -/
abbrev Offset := BitVec 24
/-- A device address (R237). -/
abbrev DevAddr := BitVec 52
/-- A submission ring, a class 0 stream, a projection set or a doorbell slot: 0 to 63. -/
abbrev RingId := Fin 64
/-- A doorbell page (R279). -/
abbrev PageId := Fin 2048
/-- A mover channel (R244). -/
abbrev ChanId := Fin 32
/-- A firmware channel, 28 + i (R257). -/
abbrev FwChanId := Fin 4
/-- A peer connection or window number (R299). -/
abbrev ConnId := Fin 256
/-- A Porter core (R347). -/
abbrev PorterId := Fin 12
/-- The number of a piece of work: a ring task, a class 0 request or an operation that a Porter launched. -/
abbrev WorkId := Nat
/-- A scatter slot (R190). -/
abbrev ScatterSlot := Fin 2
/-- An engine position (R15). -/
abbrev PosId := Fin 48
/-- A scoring array. -/
abbrev ArrayId := Fin 8
/-- A semaphore pair (R172). -/
abbrev PairId := Fin 1024
/-- A Porter ticket (R366). -/
abbrev TicketId := Fin 16
/-- A fault table entry (R264). -/
abbrev FaultId := Fin 32
/-- A translation copy table entry (R259). -/
abbrev TcId := Fin 1024
/-- A frame of the promotion pool (R232). -/
abbrev FrameId := Fin 512
/-- A Host Port initiator channel (R273). -/
abbrev HiChanId := Fin 4
/-- A request identifier on an initiator channel, hi_c_req_id (R273). -/
abbrev ReqId := BitVec 10
/-- A Peer Port (R296). -/
abbrev PortId := Fin 2
/-- A memory agent and its link (R314). -/
abbrev AgentId := Fin 16
/-- A stack (R226). -/
abbrev StackId := Fin 24
/-- A physical lane (R316). -/
abbrev LaneId := Fin 52
/-- A virtual channel (R332). -/
abbrev VcId := Fin 4
/-- An observation identifier (R429). -/
abbrev ObsId := Fin 128

/-- The two directions of a link: outbound is toward the agent (R316). -/
inductive Dir where
  | out
  | inb
  deriving DecidableEq, Repr, Inhabited

/-- hi_c_rresp and hi_c_bresp (R273). -/
inductive Resp where
  | ok
  | denied
  | poison
  deriving DecidableEq, Repr, Inhabited

/-- How the read of a STAGE ended (R390). -/
inductive StageRead where
  | image (bytes : Bytes)
  | noAccess
  deriving DecidableEq, Repr, Inhabited

/-- The agent whose commit engine starts, and how many residue checks of the Crate's new rows fail (R199, R402). -/
structure CommitStart where
  agent : AgentId
  residues : Nat
  deriving DecidableEq, Repr

/-- A mapping that a walk found (R260, R265): page size, package page address, rights. -/
structure PageMapping where
  big : Bool            -- a 16 GiB page
  pa : Nat              -- package physical address of the page
  r : Bool
  w : Bool
  a : Bool
  deriving DecidableEq, Repr, Inhabited

/-- The scope of an invalidation message (R262). -/
inductive InvScope where
  | range (pasid : BitVec 20) (space : Nat) (va : Nat) (len : Nat)
  | pasid (pasid : BitVec 20)
  | all
  deriving DecidableEq, Repr, Inhabited

/-- A received peer datagram (R296): its sideband and its UDP payload. -/
structure PeerRx where
  srcIp : Nat
  ipv6 : Bool
  srcPort : Nat
  dstPort : Nat         -- pp_p_rx_dport; no rule reads it
  err : Bool            -- pp_p_rx_err
  payload : Bytes
  deriving DecidableEq, Repr, Inhabited

/-- What a management message of virtual channel 3 carries (R333). -/
inductive MgmtMsg where
  /-- a stack's thermal notice: the throttle level its thermal state maps to (R234) -/
  | thermal (level : BitVec 2)
  /-- a touch report of one entry of the agent's touch table, by its row address (R221) -/
  | touch (addr : DevAddr)
  /-- a corrected stack error in a unit (R342, F10) -/
  | corrected (unit : Nat)
  /-- an uncorrectable stack error of an address (F11) -/
  | uncorrectable (addr : DevAddr)
  /-- an IEEE 1500 access that the Storekeeper sends: what the port's pins shall be driven with (R344) -/
  | ieee1500 (wr : Bytes)
  /-- what an agent read on WSO in that access, for the Storekeeper (R344) -/
  | wso (bits : Bytes)
  deriving DecidableEq, Repr, Inhabited

/-- A supply domain with a voltage monitor (R430). -/
inductive SupplyDom where
  | aon
  | engine
  /-- the engine domain's supply fails for good (R423) -/
  | engineFails
  | phy
  | agent (n : AgentId)
  deriving DecidableEq, Repr, Inhabited

/-- A clock with a loss detector (R424). -/
inductive Clk where
  | eclk
  | hclk
  | pclk
  | sclk
  | mclk (n : AgentId)
  | lclk (n : AgentId)
  deriving DecidableEq, Repr, Inhabited

/-- An error that hits a result packet before it commits (R401): of one of its words (F3), or of an operation of a unit
(F5). -/
inductive UseErr where
  | none
  | word
  | residue (unit : ObsId)
  deriving DecidableEq, Repr, Inhabited

/-- A storage word that a read of scrub, or a read at use, finds good or not (R401, R405). -/
inductive ScrubStore where
  /-- Larder data word of a position's slice -/
  | larder (pos : PosId) (block : Nat)
  | sideArray (pos : PosId) (block : Nat)
  | reuse (pos : PosId) (entry : Nat)
  | merge (pos : PosId) (line : Nat)
  | resultQueue (pos : PosId)
  | tc (e : TcId)
  | faultTable (e : FaultId)
  | porterMem (m : PorterId)
  | porterCache (m : PorterId) (line : Nat)
  | journal (n : AgentId) (area : Fin 4)
  | copyDir (n : AgentId) (addr : DevAddr)
  | touch (n : AgentId)
  | remap (n : AgentId)
  | skSram
  /-- the register file and pipeline latches of a Porter, which carry parity (R404) -/
  | porterRegs (m : PorterId)
  /-- the ALU and FP units of a Porter, with their residue checks (R402); an adder's operation stands for a word's read -/
  | porterAlu (m : PorterId)
  /-- the adder of a position's merge cache (R187, R402) -/
  | mergeAdder (pos : PosId)
  /-- the adder of an agent that merges gradient records into a Crate area (R192, R402) -/
  | gradAdder (n : AgentId) (area : Fin 4)
  /-- a gradient record on its way to an agent (R401, F4) -/
  | gradRecord (n : AgentId)
  /-- a word of a dual-clock queue (R402) -/
  | dualQueue
  /-- a word of an array's selector and semaphore memory -/
  | selector (a : ArrayId)
  /-- a word of the dispatcher's queues -/
  | dispatchQueue
  /-- a word of a unit's Tally FIFO -/
  | tallyFifo (unit : ObsId)
  deriving DecidableEq, Repr, Inhabited

/-- The integration record (R470). Its byte layout is not given, so its fields stand by themselves; the two maps are
the integrator's bytes. -/
structure IntegrationRecord where
  /-- STACK_BASE[n], n = 0 to 23; zero for an absent stack -/
  stackBase : List DevAddr
  /-- stack thermal states to throttle levels -/
  thermalMap : Bytes
  /-- stack offset to channel, bank and memory row -/
  addressMap : Bytes
  /-- eye thresholds, by link and direction, in 1/64 unit interval -/
  eyes : List Nat
  /-- AGENT_NOMINAL[n], n = 0 to 15, in mV -/
  nominal : List Nat
  deriving DecidableEq, Repr, Inhabited

/-- What a scrub read finds (R401). -/
inductive ScrubRes where
  | good
  | corrected
  | uncorrectable
  deriving DecidableEq, Repr, Inhabited

/-- The commands. Each docstring is the row's summary in the spec's table. -/
inductive Instr where
  /-- REGISTER_WRITE (R455). A target write to a register field that has no row of its own sets its RW fields, or has no effect on RO fields and on offsets that hold no register; a malformed access or a write during activation is a host error. -/
  | registerWrite (off : Offset) (size : Nat) (data : Word)
  /-- W1C_CLEAR (R456). A write of 1 to a W1C notice bit clears it unless a hardware set falls in the same hclk cycle, and fn_irq and PENDING follow. -/
  | w1cClear (off : Offset) (size : Nat) (data : Word) (hwSet : Word)
  /-- SQ_PROD (R279). A write to a ring doorbell page's SQ_PROD sets the ring's producer position; it is ignored with DB_IGNORED when the page is unassigned, the ring is disabled or READY is 0. -/
  | sqProd (page : PageId) (size : Nat) (data : Word)
  /-- CQ_CONS (R279). A write to a ring doorbell page's CQ_CONS sets the ring's consumer position and frees completion ring space. -/
  | cqCons (page : PageId) (size : Nat) (data : Word)
  /-- CLASS0_POOL (R94). A 64-byte class 0 doorbell write with SCORE = 0 is accepted as one bag, takes a stream token or waits in the overflow queue, and is steered into the tree on reserved capacity. -/
  | class0Pool (page : PageId) (slot : RingId) (bytes : Bytes)
  /-- CLASS0_SCORE (R154). A 64-byte class 0 doorbell write with SCORE = 1 is accepted as a candidate-scoring request against the current version of its query slot. -/
  | class0Score (page : PageId) (slot : RingId) (bytes : Bytes)
  /-- RG_CTL_EN_SET (R277). Setting RG_CTL.EN from 0 to 1 zeroes PROD, CONS, CPL and the fetch position, ends the ring's phase memory and clears EPOCH_STOP. -/
  | rgCtlEnSet (r : RingId)
  /-- RG_CTL_EN_CLEAR (R281). Clearing RG_CTL.EN stops fetching and admission and discards fetched but unadmitted descriptors while outstanding tasks complete. -/
  | rgCtlEnClear (r : RingId)
  /-- RG_ABORT (R282). A write to RG_ABORT aborts the outstanding task in SLOT, or every outstanding task of the ring when ALL = 1. -/
  | rgAbort (r : RingId) (slot : BitVec 16) (all : Bool)
  /-- ABORT_ALL (R462). A write of 1 to FN_CTL.ABORT_ALL aborts every outstanding ring task of every ring. -/
  | abortAll
  /-- MV_CH_HEAD (R255). A write to MV_CH_HEAD of a software channel queues a list head, clears CODE and MV_CH_FAULT.VALID, and starts the list when the channel is idle. -/
  | mvChHead (ch : ChanId) (addr : DevAddr)
  /-- MV_CH_ABORT (R256). A write of 1 to MV_CH_CTL.ABORT of a non-idle software channel stops issue at the next burst boundary, leaves the fault table and discards queued heads. -/
  | mvChAbort (ch : ChanId)
  /-- CHANNEL_STOPPED (R256). Once every issued burst of a stopping channel has completed and every write is acknowledged, the channel becomes IDLE with its stop code and sets MV_NOTICE.CH. -/
  | channelStopped (ch : ChanId)
  /-- STAGE (R390). CF_CMD STAGE checks the address, then firmware walks and reads the image from host memory into the staged slot under the PASID of CF_STAGE_CTL. -/
  | stage
  /-- STAGE_READ_DONE (R389). When the staged image has been read, firmware runs the checks of MAGIC, target, size, digest and signature and sets the slot READY or BAD. -/
  | stageReadDone (res : StageRead)
  /-- ACTIVATE (R391). CF_CMD ACTIVATE starts the activation of the READY staged image by draining the block. -/
  | activate
  /-- ROLLBACK (R394). CF_CMD ROLLBACK starts an activation that exchanges the current and Attic slots, or ends with NO_IMAGE when the Attic is empty. -/
  | rollback
  /-- ACTIVATE_DIGEST (R395). CF_CMD ACTIVATE_DIGEST activates the current, Attic or READY staged slot whose digest matches CF_REQ_DIGEST, or ends with NO_MATCH. -/
  | activateDigest
  /-- DISCARD (R390). CF_CMD DISCARD empties the staged slot. -/
  | discard
  /-- TEARDOWN (R396). CF_CMD TEARDOWN drains and clears the block, moves the current image to the Attic and starts the class 3 scrub of the Larder and SCRUB ranges. -/
  | teardown
  /-- ACTIVATION_DRAIN_END (R391). When the drain of an activation or teardown completes, Farnum runs CLEAR, SWAP, LOAD, CHECK and RESUME, clears ACTIVATING and sets LAST_STATUS and DONE. -/
  | activationDrainEnd
  /-- SCRUB_DONE (R396). When the teardown scrub finishes, Farnum clears SCRUBBING, sets CF_NOTICE.SCRUB_DONE and logs a TEARDOWN record. -/
  | scrubDone
  /-- FIRE (R447). A write of 1 to OB_SNAP_TRIG.FIRE triggers an Inventory, or counts a missed trigger when one is in progress or SNAP_BASE is 0. -/
  | fire (release : Bool)
  /-- SNAP_RELEASE (R451). A write of 1 to OB_SNAP_TRIG.RELEASE returns a DONE Inventory to IDLE. -/
  | snapRelease
  /-- OB_SINK_PTR (R446). A write to OB_SINK_PTR sets the sink ring consumer position and frees ring space for Tally packets. -/
  | obSinkPtr (size : Nat) (data : Word)
  /-- SK_MB_LOG_READ (R439). Mailbox command LOG_READ returns up to COUNT log records from FIRST_SEQ in SK_MB_DATA. -/
  | skMbLogRead
  /-- SK_MB_SENSORS (R439). Mailbox command SENSORS returns every temperature, supply voltage and smallest eye margin. -/
  | skMbSensors
  /-- SK_MB_FW_INFO (R439). Mailbox command FW_INFO returns the active firmware copy, the SVNs and the provisioned key slots. -/
  | skMbFwInfo
  /-- SK_MB_REPORTS (R439). Mailbox command REPORTS returns the bodies of every unacknowledged board retire report. -/
  | skMbReports
  /-- PW_CN_VALID_SET (R299). Setting PW_CN[c].VALID from 0 to 1 enables connection c and zeroes both of its sequence spaces. -/
  | pwCnValidSet (c : ConnId) (ctl : Word)
  /-- DESCRIPTOR_FETCH (R71). The dispatcher fetches a burst of up to 16 ring slots below PROD, admitting unreadable slots as tasks that complete with ACCESS_VIOLATION. -/
  | descriptorFetch (r : RingId)
  /-- GATHER (R79). A GATHER task is admitted under the outstanding limit and phase drain, and its bags are routed down the tree to be pooled. -/
  | gather (r : RingId)
  /-- SCATTER (R182). A SCATTER task is admitted into a free scatter slot after its update rights are checked, and its gradients are expanded and merged. -/
  | scatter (r : RingId)
  /-- SCORE_CANDIDATE (R160). A SCORE task in CANDIDATE mode is admitted, and each bag's surviving candidates are scored against its query and reduced to the top k. -/
  | scoreCandidate (r : RingId)
  /-- INTERACT (R165). A SCORE task in INTERACT mode is admitted, and its samples are dealt to the arrays in passes for pairwise dot products. -/
  | interact (r : RingId)
  /-- PROJECT (R168). A SCORE task in PROJECT mode is admitted, and its samples are dealt in batches of 64 to the arrays of a projection set. -/
  | project (r : RingId)
  /-- QLOAD (R154). A SCORE task in QLOAD mode writes a shadow copy of a query slot and switches the slot to it before completion. -/
  | qload (r : RingId)
  /-- FENCE (R290). A FENCE task is admitted after a drain and, with the fence option, flushes every initiator channel and agent before its completion record. -/
  | fence (r : RingId)
  /-- PORTER (R348). A PORTER task is admitted and placed in the mailbox of each Porter that it names. -/
  | porter (r : RingId)
  /-- MAILBOX_PLACE (R347). The dispatcher places a PORTER task or preparation share in a Porter mailbox once that mailbox has a free entry. -/
  | mailboxPlace (m : PorterId) (w : WorkId)
  /-- PORTER_PROGRAM_START (R349). An idle Porter starts its oldest mailbox entry, setting G1, G2 and the other registers and entering the program entry. -/
  | porterProgramStart (m : PorterId)
  /-- COMPLETION_RECORD_WRITE (R278). Once a task's packets are issued, its writes acknowledged as required and completion ring space is free, the dispatcher writes its completion record, advances CPL and sets RG_NOTICE.CPL. -/
  | completionRecordWrite (w : WorkId)
  /-- STATISTICS_WRITE (R147). After a task's last result packet is issued, Farnum writes its statistics record once. -/
  | statisticsWrite (w : WorkId)
  /-- CLASS0_TRAILER_WRITE (R96). After a class 0 result's data is issued, or acknowledged where required, Farnum issues its 16-byte trailer. -/
  | class0TrailerWrite (w : WorkId)
  /-- TOKEN_REFILL (R384). Every INTERVAL eclk cycles a class 0 stream's token bucket gains one token, up to BURST. -/
  | tokenRefill (stream : RingId)
  /-- OVERFLOW_RELEASE (R108). A class 0 request waiting in the steering overflow queue leaves it when its stream has a token, freeing an entry and write credits. -/
  | overflowRelease (stream : RingId)
  /-- END (R85). Stream instruction END ends the stream program. -/
  | endProg (w : WorkId)
  /-- SETA (R85). Stream instruction SETA loads an address register from a source. -/
  | seta (w : WorkId)
  /-- ADDA (R85). Stream instruction ADDA adds STEP to an address register. -/
  | adda (w : WorkId)
  /-- LOOP (R87). Stream instruction LOOP opens a loop level with its trip count. -/
  | loop (w : WorkId)
  /-- NEXT (R85). Stream instruction NEXT decrements a loop count and repeats the body while it is non-zero. -/
  | next (w : WorkId)
  /-- IDX (R85). Stream instruction IDX reads and emits one index into the open bag and steps its address register. -/
  | idx (w : WorkId)
  /-- WGT (R87). Stream instruction WGT reads the weight of the most recent index and steps its address register. -/
  | wgt (w : WorkId)
  /-- LEN (R85). Stream instruction LEN reads a 32-bit value into LEN, optionally as a difference from PREV. -/
  | len (w : WorkId)
  /-- BAG (R85). Stream instruction BAG closes the open bag. -/
  | bag (w : WorkId)
  /-- ROW_FETCH_ISSUE (R214). An engine resolves an index by the hash unit and serves the row from the reuse buffer, placed Larder, row cache, owning agent, promoted frame or cold-fetch queue. -/
  | rowFetchIssue (w : WorkId) (bag : Nat) (i : Nat)
  /-- ROW_RETURN (R410). A returned row whose tag names the current placement epoch and a waiting fetch slot is dequantised and pooled; other returns are discarded and counted. -/
  | rowReturn (tag : BitVec 23)
  /-- RESULT_PACKET_COMMIT (R100). A bag's result packet commits when its last word enters the result queue free of uncorrectable error, or is rewound and replayed otherwise. -/
  | resultPacketCommit (w : WorkId) (bag : Nat) (err : UseErr)
  /-- ENGINE_EPOCH_REPORT (R195). At a cut an engine finishes its epoch positions, emits its merge cache rows and reports its record counts, and the dispatcher sends COMMIT once all counts are in. -/
  | engineEpochReport (slot : ScatterSlot) (pos : PosId)
  /-- EPOCH_CUT (R194). On an HWM report, the epoch limit or the last issued position, the dispatcher fixes the next epoch's first position when the previous epoch is acknowledged. -/
  | epochCut (slot : ScatterSlot)
  /-- ARRAY_PASS (R176). A scoring array runs one pass of dot products for its inputs and the top-k selector inserts the scores. -/
  | arrayPass (w : WorkId) (bag : Nat) (arr : ArrayId)
  /-- MULTICAST_PACKET (R170). A 256-byte query packet is multicast to every receiving array once the shared buffer has room. -/
  | multicastPacket (w : WorkId) (bag : Nat)
  /-- ROTATION_STEP (R168). Each array of a projection set computes with its current tile and passes it to the next array. -/
  | rotationStep (set : RingId)
  /-- SEMAPHORE_STALL (R174). A waited-on pair whose counts have not changed for SA_STALL_LIMIT × 1,024 eclk cycles is marked STALLED and SA_NOTICE.STALL is set. -/
  | semaphoreStall (pair : PairId)
  /-- ADD (R357). Porter ALU instruction ADD. -/
  | add (m : PorterId)
  /-- SUB (R357). Porter ALU instruction SUB. -/
  | sub (m : PorterId)
  /-- AND (R357). Porter ALU instruction AND. -/
  | and (m : PorterId)
  /-- OR (R357). Porter ALU instruction OR. -/
  | or (m : PorterId)
  /-- XOR (R357). Porter ALU instruction XOR. -/
  | xor (m : PorterId)
  /-- SLL (R357). Porter ALU instruction SLL. -/
  | sll (m : PorterId)
  /-- SRL (R357). Porter ALU instruction SRL. -/
  | srl (m : PorterId)
  /-- SRA (R357). Porter ALU instruction SRA. -/
  | sra (m : PorterId)
  /-- MUL (R357). Porter ALU instruction MUL. -/
  | mul (m : PorterId)
  /-- MULHU (R357). Porter ALU instruction MULHU. -/
  | mulhu (m : PorterId)
  /-- DIVU (R358). Porter ALU instruction DIVU; division by zero gives all ones. -/
  | divu (m : PorterId)
  /-- REMU (R358). Porter ALU instruction REMU; remainder by zero gives A. -/
  | remu (m : PorterId)
  /-- SLT (R357). Porter ALU instruction SLT. -/
  | slt (m : PorterId)
  /-- SLTU (R357). Porter ALU instruction SLTU. -/
  | sltu (m : PorterId)
  /-- ADDI (R357). Porter instruction ADDI adds a sign-extended immediate. -/
  | addi (m : PorterId)
  /-- ANDI (R357). Porter instruction ANDI. -/
  | andi (m : PorterId)
  /-- ORI (R357). Porter instruction ORI. -/
  | ori (m : PorterId)
  /-- XORI (R357). Porter instruction XORI. -/
  | xori (m : PorterId)
  /-- SHI (R357). Porter instruction SHI shifts by an immediate. -/
  | shi (m : PorterId)
  /-- LUI (R357). Porter instruction LUI loads an upper immediate. -/
  | lui (m : PorterId)
  /-- LD_B (R361). Porter load of 1 byte, through the data cache, Larder port or local map. -/
  | ldB (m : PorterId)
  /-- LD_H (R361). Porter load of 2 bytes. -/
  | ldH (m : PorterId)
  /-- LD_W (R361). Porter load of 4 bytes. -/
  | ldW (m : PorterId)
  /-- LD_D (R361). Porter load of 8 bytes. -/
  | ldD (m : PorterId)
  /-- ST_B (R370). Porter store of 1 byte, through the write-back cache or write-through past a run of 8 sequential store misses. -/
  | stB (m : PorterId)
  /-- ST_H (R370). Porter store of 2 bytes. -/
  | stH (m : PorterId)
  /-- ST_W (R370). Porter store of 4 bytes. -/
  | stW (m : PorterId)
  /-- ST_D (R370). Porter store of 8 bytes. -/
  | stD (m : PorterId)
  /-- BEQ (R357). Porter branch when equal. -/
  | beq (m : PorterId)
  /-- BNE (R357). Porter branch when not equal. -/
  | bne (m : PorterId)
  /-- BLT (R357). Porter branch when less, signed. -/
  | blt (m : PorterId)
  /-- BGE (R357). Porter branch when greater or equal, signed. -/
  | bge (m : PorterId)
  /-- BLTU (R357). Porter branch when less, unsigned. -/
  | bltu (m : PorterId)
  /-- BGEU (R357). Porter branch when greater or equal, unsigned. -/
  | bgeu (m : PorterId)
  /-- JAL (R357). Porter jump and link. -/
  | jal (m : PorterId)
  /-- JALR (R357). Porter jump and link through a register. -/
  | jalr (m : PorterId)
  /-- FADD (R358). Porter floating-point add. -/
  | fadd (m : PorterId)
  /-- FSUB (R358). Porter floating-point subtract. -/
  | fsub (m : PorterId)
  /-- FMUL (R358). Porter floating-point multiply. -/
  | fmul (m : PorterId)
  /-- FDIV (R358). Porter floating-point divide. -/
  | fdiv (m : PorterId)
  /-- FSQRT (R358). Porter floating-point square root. -/
  | fsqrt (m : PorterId)
  /-- FMIN (R358). Porter floating-point minimum that ignores a not-a-number operand. -/
  | fmin (m : PorterId)
  /-- FMAX (R358). Porter floating-point maximum that ignores a not-a-number operand. -/
  | fmax (m : PorterId)
  /-- FLE (R358). Porter floating-point less-or-equal compare. -/
  | fle (m : PorterId)
  /-- FLT (R358). Porter floating-point less-than compare. -/
  | flt (m : PorterId)
  /-- FEQ (R358). Porter floating-point equality compare. -/
  | feq (m : PorterId)
  /-- FCVT_D (R357). Porter conversion from FP32 to FP64. -/
  | fcvtD (m : PorterId)
  /-- FCVT_S (R357). Porter conversion from FP64 to FP32. -/
  | fcvtS (m : PorterId)
  /-- FCVT_I (R357). Porter conversion from float to saturating signed 64-bit integer. -/
  | fcvtI (m : PorterId)
  /-- ICVT (R357). Porter conversion from signed 64-bit integer to float. -/
  | icvt (m : PorterId)
  /-- FPK (R358). Porter conversion of FP32 to a row format code under the requantiser rules. -/
  | fpk (m : PorterId)
  /-- CSRR (R355). Porter read of a control register. -/
  | csrr (m : PorterId)
  /-- CSRW (R373). Porter write of a control register, such as CACHE_EN. -/
  | csrw (m : PorterId)
  /-- CCLEAN (R374). Porter cache operation that writes back dirty lines in a range. -/
  | cclean (m : PorterId)
  /-- CINV (R374). Porter cache operation that discards lines in a range. -/
  | cinv (m : PorterId)
  /-- CFLUSH (R374). Porter cache operation that cleans and discards lines in a range. -/
  | cflush (m : PorterId)
  /-- CINV_ALL (R374). Porter cache operation that discards the whole cache. -/
  | cinvAll (m : PorterId)
  /-- CFLUSH_ALL (R374). Porter cache operation that cleans and discards the whole cache. -/
  | cflushAll (m : PorterId)
  /-- SYS_FENCE (R367). Porter SYS FENCE waits for acknowledgement of earlier stores and cache write-backs. -/
  | sysFence (m : PorterId)
  /-- WAITT (R366). Porter WAITT waits until the operation of a ticket completes and then frees the ticket. -/
  | waitt (m : PorterId)
  /-- TICKET_COMPLETE (R366). An operation launched by a Porter completes, freeing or readying its ticket and resuming a waiting WAITT. -/
  | ticketComplete (m : PorterId) (t : TicketId)
  /-- HALT (R376). Porter HALT flushes the data cache and ends the program, completing the Porter's part of its task. -/
  | halt (m : PorterId)
  /-- DATA_CACHE_FILL (R371). The Porter data cache's outstanding miss fills and waiting accesses proceed. -/
  | dataCacheFill (m : PorterId)
  /-- ENGINE_RELEASE (R354). Wide instruction ENGINE RELEASE hands a rewritten share descriptor to the dispatcher, which sends it into the tree at the root. -/
  | engineRelease (m : PorterId)
  /-- ENGINE_GATHER (R365). Wide instruction ENGINE GATHER launches a gather in the task's class, optionally writing its results into a semaphore link. -/
  | engineGather (m : PorterId)
  /-- ARRAY_SCORE (R365). Wide instruction ARRAY SCORE launches a scoring operation in the task's class, optionally into a semaphore link. -/
  | arrayScore (m : PorterId)
  /-- MOVER_LIST (R363). Wide instruction MOVER LIST queues a descriptor list on a Porter-owned channel. -/
  | moverList (m : PorterId)
  /-- MOVER_COPY (R364). Wide instruction MOVER COPY issues one built COPY descriptor on a Porter-owned channel. -/
  | moverCopy (m : PorterId)
  /-- MOVER_ABORT (R363). Wide instruction MOVER ABORT aborts a Porter-owned channel. -/
  | moverAbort (m : PorterId)
  /-- WAIT_SPACE (R368). Wide instruction WAIT_SPACE stops the Porter until a pair's SPACE reaches the count. -/
  | waitSpace (m : PorterId)
  /-- POST_FILL (R368). Wide instruction POST_FILL increments a pair's FILL without waiting. -/
  | postFill (m : PorterId)
  /-- WAIT_FILL (R368). Wide instruction WAIT_FILL stops the Porter until a pair's FILL reaches the count. -/
  | waitFill (m : PorterId)
  /-- POST_SPACE (R368). Wide instruction POST_SPACE increments a pair's SPACE without waiting. -/
  | postSpace (m : PorterId)
  /-- SEM_WAIT_SATISFIED (R368). A count that a Porter waits on reaches the needed value, and the Porter decrements it and continues. -/
  | semWaitSatisfied (m : PorterId)
  /-- MOVER_DESCRIPTOR_READ (R255). The mover reads a list descriptor up to two ahead of the one issuing. -/
  | moverDescriptorRead (ch : ChanId)
  /-- COPY (R251). A mover COPY descriptor starts and its loops issue reads and writes of elements with the swap mode. -/
  | copy (ch : ChanId)
  /-- FILL (R251). A mover FILL descriptor starts and writes its pattern over its destination loops. -/
  | fill (ch : ChanId)
  /-- NOP (R249). A mover NOP descriptor starts and moves no data. -/
  | nop (ch : ChanId)
  /-- MOVER_BURST_GRANT (R245). The mover grants one burst per eclk cycle, alternating between the cold-fetch queue and the channels by the weighted slot cycle. -/
  | moverBurstGrant
  /-- MOVER_DESCRIPTOR_COMPLETE (R254). A descriptor completes after its last burst, or after its barrier wait, reporting LAST_TAG when IRQ = 1 and starting the next descriptor or head. -/
  | moverDescriptorComplete (ch : ChanId)
  /-- FIRMWARE_CHANNEL_START (R257). The Storekeeper starts one descriptor on channel 28 to 31 through its own registers, optionally with physical addresses. -/
  | firmwareChannelStart (ch : FwChanId) (desc : Bytes) (phys : Bool)
  /-- COLD_FETCH_RETURN (R229). The mover returns a cold-fetched Cellar row to its engine by tag. -/
  | coldFetchReturn (tag : BitVec 23)
  /-- FAULT_TAKE (R265). The Storekeeper takes a waiting fault table entry and starts its walk on channel 28. -/
  | faultTake (e : FaultId)
  /-- WALK_DONE (R265). A walk ends, and the entry walks again when stale, installs the translation and readies its waiters, or ends them with ACCESS_VIOLATION. -/
  | walkDone (e : FaultId) (res : Option PageMapping)
  /-- TRANSLATION_INVALIDATE (R262). An invalidation message from the package translation unit invalidates entries in scope and marks fault entries stale. -/
  | translationInvalidate (scope : InvScope)
  /-- INVALIDATION_DONE (R262). When every access made with an invalidated entry has completed, Farnum sends the completion message. -/
  | invalidationDone
  /-- INITIATOR_ISSUE (R109). An initiator channel holding credits issues the next request granted by deadline arbitration. -/
  | initiatorIssue (c : HiChanId)
  /-- REQUEST_CREDIT (R275). A pulse on hi_c_req_credit returns one request credit. -/
  | requestCredit (c : HiChanId)
  /-- WRITE_BEAT_CREDIT (R275). A pulse on hi_c_wcredit returns one write beat credit. -/
  | writeBeatCredit (c : HiChanId)
  /-- READ_DATA (R275). Read data arrives on an initiator channel, ending the access with ACCESS_VIOLATION on DENIED or POISON. -/
  | readData (c : HiChanId) (id : ReqId) (resp : Resp) (data : Bytes)
  /-- WRITE_RESPONSE (R286). A write response arrives on an initiator channel and acknowledges a WRITE, WRITE_PC or FLUSH. -/
  | writeResponse (c : HiChanId) (id : ReqId) (resp : Resp)
  /-- TARGET_CREDIT_START (R270). 64 hclk cycles after the engine domain leaves reset, the target begins granting its write and read credits. -/
  | targetCreditStart
  /-- HOST_EPOCH_RISE (R292). A fall of hp_host_rst_n or hp_link_up raises the host epoch, stops initiator issue and ends or discards work with host destinations. -/
  | hostEpochRise (rstN : Bool) (linkUp : Bool)
  /-- HOST_PORT_RESUME (R294). When hp_host_rst_n and hp_link_up are both high, initiator issue resumes as credits arrive and PORT_UP is set. -/
  | hostPortResume
  /-- WRITE (R301). A peer WRITE packet is checked against its inbound window and domain and written locally, or refused by NAK. -/
  | write (p : PortId) (pkt : PeerRx)
  /-- READ_REQ (R305). A peer READ_REQ packet is checked and applied by sending one READ_RESP. -/
  | readReq (p : PortId) (pkt : PeerRx)
  /-- READ_RESP (R304). A peer READ_RESP packet delivers the data of a READ_REQ to its mover channel. -/
  | readResp (p : PortId) (pkt : PeerRx)
  /-- ACK (R307). A peer ACK advances the sender's acknowledged position and SACK record, with fast retransmit of a missing PSN. -/
  | ack (p : PortId) (pkt : PeerRx)
  /-- NAK (R309). A peer NAK ends the mover channel that sent the refused packet with ACCESS_VIOLATION. -/
  | nak (p : PortId) (pkt : PeerRx)
  /-- MGMT (R310). A peer MGMT packet is checked by CRC, HMAC tag and SEQ and delivered to the Storekeeper, or dropped with MGMT_AUTH. -/
  | mgmt (p : PortId) (pkt : PeerRx)
  /-- PEER_ACK_TIMER (R306). 2 µs after the earliest unacknowledged application, the receiver sends an ACK. -/
  | peerAckTimer (c : ConnId)
  /-- PEER_RTO_EXPIRE (R307). A connection's retransmission interval expires, every unacknowledged packet is sent again and the interval doubles, entering LOST after 8 expiries. -/
  | peerRtoExpire (c : ConnId)
  /-- LINK_TRAIN_START (R319). At reset, or every 1 ms while a powered link is DOWN, both sides start the training sequence at DETECT. -/
  | linkTrainStart (n : AgentId)
  /-- TRAINING_STEP_TIMEOUT (R319). A training step that exceeds its time restarts the sequence at DETECT, or sends a retraining link DOWN. -/
  | trainingStepTimeout (n : AgentId)
  /-- EXCHANGE (R320). The agent's capability message reports agent, stack, capacity and version, and Farnum acknowledges or holds a mismatched agent at EXCHANGE. -/
  | exchange (n : AgentId) (agentNo : Nat) (stackNo : Nat) (capGib : Nat) (version : BitVec 32)
  /-- TRAINING_COMPLETE (R327). Training completes and the link enters ACTIVE, or DEGRADED with a retire recommendation, with sequence numbers and credits at zero. -/
  | trainingComplete (n : AgentId) (badOut : BitVec 52) (badIn : BitVec 52)
  /-- FLIT_SLOT (R324). Each flit slot sends a CONTROL flit every 32nd slot, otherwise a DATA or IDLE flit, or a pending RETRY. -/
  | flitSlot (n : AgentId) (dir : Dir)
  /-- IDLE_FLIT (R323). A received IDLE flit carries only ACK and credits. -/
  | idleFlit (n : AgentId) (dir : Dir) (err : Bytes)
  /-- DATA_FLIT (R325). A received DATA flit is checked by CRC and SEQ and its messages delivered in order, or it is dropped with a RETRY request. -/
  | dataFlit (n : AgentId) (dir : Dir) (err : Bytes)
  /-- CONTROL_FLIT (R323). A received CONTROL flit returns the credits of all four virtual channels and carries management messages. -/
  | controlFlit (n : AgentId) (dir : Dir) (err : Bytes)
  /-- RETRY_FLIT (R325). A received RETRY makes the sender resend every buffered flit from the named SEQ. -/
  | retryFlit (n : AgentId) (dir : Dir) (err : Bytes)
  /-- RETRY_TIMEOUT (R325). 200 ns after a RETRY without the expected flit, the receiver may send another RETRY. -/
  | retryTimeout (n : AgentId) (dir : Dir)
  /-- RETRAIN_ON_REPLAYS (R326). A direction reaching 8 replays in 10 µs, or a failed second replay, sends the link to RETRAIN. -/
  | retrainOnReplays (n : AgentId) (dir : Dir)
  /-- EYE_MARGIN_LOW (R326). A lane whose eye margin stays below its threshold for 1 ms sends the link to RETRAIN. -/
  | eyeMarginLow (n : AgentId) (dir : Dir) (lane : LaneId)
  /-- NO_FLIT_TIMEOUT (R326). No good flit for 1 µs on a direction not in RETRAIN sends the link DOWN, parking work at its agent. -/
  | noFlitTimeout (n : AgentId) (dir : Dir)
  /-- RETRAIN_COMPLETE (R328). A field retrain completes, the link returns ACTIVE or DEGRADED and resends from its retry buffers. -/
  | retrainComplete (n : AgentId) (badOut : BitVec 52) (badIn : BitVec 52)
  /-- LINK_MESSAGE_SEND (R332). A message starts on its virtual channel once the sender holds credits for the whole message. -/
  | linkMessageSend (n : AgentId) (dir : Dir) (vc : VcId) (pack : Nat)
  /-- RD (R314). An agent serves an RD by reading one whole row version, marking it not cacheable when the copy directory is full. -/
  | rd (n : AgentId) (vc : VcId)
  /-- RD_PACK (R335). An agent serves a pack of 2 to 8 narrow rows in one RD_PACK_RSP. -/
  | rdPack (n : AgentId)
  /-- WR (R315). An agent writes a body of at most 4 KiB and acknowledges it, at controller acceptance when FENCE is set. -/
  | wr (n : AgentId) (vc : VcId)
  /-- FLUSH (R290). An agent acknowledges a FLUSH once every earlier write of the link is ordered. -/
  | flush (n : AgentId)
  /-- GRAD (R192). An agent merges a gradient record into the Crate of its slot and epoch, reporting HWM or FULL as the area fills. -/
  | grad (n : AgentId)
  /-- COMMIT (R195). An agent stores a COMMIT's count and parameters and reports SEALED once that many records have merged. -/
  | commit (n : AgentId)
  /-- ABORT (R197). An agent discards the Crate of the named slot and epoch unless it has begun LOGGING. -/
  | abort (n : AgentId)
  /-- GO (R197). An agent queues a SEALED Crate for the commit engine on GO. -/
  | go (n : AgentId)
  /-- EVICT (R204). An agent removes a tile from the copy directory entry of an evicted cached row. -/
  | evict (n : AgentId)
  /-- REFRESH_ACK (R204). An agent records a tile's acknowledgement of a refresh or ENABLE. -/
  | refreshAck (n : AgentId)
  /-- CRATE_COMMIT_START (R199). When the commit engine is free, the first SEALED Crate with GO computes its new rows and writes the commit log and seal. -/
  | crateCommitStart (c : CommitStart)
  /-- CRATE_APPLY_DONE (R203). Once every entry is written in place with its new version, the Crate sends REFRESH to every recorded tile. -/
  | crateApplyDone (n : AgentId)
  /-- RD_RSP (R334). A read response returns a row to its engine, cacheable unless NOCACHE, or with ERR set carries no usable data. -/
  | rdRsp (n : AgentId) (vc : VcId)
  /-- RD_PACK_RSP (R335). A packed response returns each row of an RD_PACK by tag. -/
  | rdPackRsp (n : AgentId)
  /-- WR_ACK (R253). An agent's write acknowledgement satisfies the waits of the write's issuer. -/
  | wrAck (n : AgentId) (vc : VcId)
  /-- FLUSH_ACK (R290). An agent's flush acknowledgement satisfies the wait of a FENCE task. -/
  | flushAck (n : AgentId)
  /-- HWM (R194). An HWM report is a cut condition for the Crate's epoch at the dispatcher. -/
  | hwm (n : AgentId)
  /-- FULL (R196). A FULL report aborts the epoch at every agent, halves the task's epoch limit, sets SPLIT and replays from the epoch start. -/
  | full (n : AgentId)
  /-- SEALED (R195). A SEALED report is recorded, and when every due agent has sealed the dispatcher sends GO. -/
  | sealed (n : AgentId)
  /-- CRATE_ACK (R198). A Crate acknowledgement records the agent's committed epoch and may release a waiting cut or completion. -/
  | crateAck (n : AgentId)
  /-- REFRESH (R204). A tile writes a new row image over its copy, or a pending copy, and acknowledges. -/
  | refresh (n : AgentId)
  /-- ENABLE (R222). A tile makes a migrated placement valid, acknowledges and serves later fetches from it. -/
  | enable (n : AgentId)
  /-- LINK_MGMT (R333). A management message between an agent and the Storekeeper carries thermal notices, touch reports, migration steps, remap, IEEE 1500 access or stack error reports. -/
  | linkMgmt (n : AgentId) (msg : MgmtMsg)
  /-- CONTROLLER_BUSY (R338). A busy response from the controller places the refused request in the agent's hold queue. -/
  | controllerBusy (n : AgentId) (vc : VcId)
  /-- HOLD_REISSUE (R338). Every 100 ns an agent issues each held request again until it is accepted. -/
  | holdReissue (n : AgentId) (accepted : List Bool)
  /-- HOLD_TIMEOUT (R339). A request held for 1 ms fails as an uncorrectable stack error and the channel is reported. -/
  | holdTimeout (n : AgentId) (i : Nat)
  /-- REMAP_INSTALL (R342). After clustered corrected errors in a unit, the Storekeeper holds the unit, copies it to a remap frame and installs the entry in both agents. -/
  | remapInstall (n : AgentId) (unit : Nat)
  /-- ROW_RECOVERY (R422). After a persistent uncorrectable stack error, the Storekeeper restores the row from a Larder copy by remap, or parks its work and sends ROW_LOST. -/
  | rowRecovery (n : AgentId) (addr : DevAddr)
  /-- STACK_REPAIR (R345). After an agent's link is up at reset, the Storekeeper reinstalls the remap list and repairs units permanently, then raises ma_repair_done. -/
  | stackRepair (n : AgentId) (repaired : List Nat)
  /-- TOUCH_PERIOD (R221). At each touch period an agent reports entries at the threshold to the Storekeeper and halves every count. -/
  | touchPeriod (n : AgentId)
  /-- MIGRATION_START (R222). Firmware reserves placed blocks, the agent reads the row noting V0, and the mover writes a pending copy. -/
  | migrationStart (n : AgentId) (table : BitVec 12) (row : BitVec 40) (pos : PosId) (block : Nat)
  /-- MIGRATION_COPY_ACK (R222). When the tile acknowledges the pending copy, the agent compares VERSION and sends ENABLE, recopies, or abandons after four attempts or 100 µs. -/
  | migrationCopyAck (n : AgentId) (late : Bool)
  /-- MIGRATION_REMOVE (R225). Firmware removes a migrated placement by invalidating the tile entry and then the copy directory entry. -/
  | migrationRemove (pos : PosId) (addr : DevAddr)
  /-- PROMOTION_START (R231). Firmware promotes a Cellar page on a migrate-on-touch fetch or touch threshold, copying it on a class 3 channel into a free frame. -/
  | promotionStart (tc : TcId) (frame : FrameId) (recentlyHit : List FrameId)
  /-- PROMOTION_COPY_DONE (R232). When a page copy is acknowledged, firmware makes its promoted page table entry valid. -/
  | promotionCopyDone
  /-- DEMOTION (R232). Firmware invalidates a promoted page entry, demoting the page. -/
  | demotion (frame : FrameId)
  /-- FRAME_FREE (R232). After every fetch issued to a demoted frame has returned, firmware frees the frame. -/
  | frameFree (frame : FrameId)
  /-- THERMAL_SAMPLE (R234). Every 20 µs the Storekeeper takes the hottest sensor and raises the block level at once or lowers it by one step. -/
  | thermalSample (temps : List (BitVec 16))
  /-- RAMP_STEP (R29). Every 250 ns an issue ramp advances one step toward its target rate. -/
  | rampStep (pos : PosId)
  /-- SUPPLY_EXCURSION (R425). A voltage monitor firing stops issue in its domain within 1 µs and rewinds uncommitted packets, sending SUPPLY on the third firing in 1 s. -/
  | supplyExcursion (dom : SupplyDom) (thirdInSecond : Bool)
  /-- SUPPLY_RECOVERED (R425). After the supply has been in range for 100 µs, issue resumes through the ramp and rewound bags replay. -/
  | supplyRecovered (dom : SupplyDom)
  /-- CLOCK_LOSS (R424). A clock-loss detector fires and Farnum stops the engine domain, downs an agent or link, or sets SK_LOST, by the clock lost. -/
  | clockLoss (clk : Clk)
  /-- LOCKSTEP_MISMATCH (R426). A Storekeeper lockstep mismatch restarts both cores from a firmware copy and sends SK_RESTART. -/
  | lockstepMismatch (withinSecond : Bool)
  /-- FW_START_TIMEOUT (R437). A new firmware copy that does not complete its start within 1 s is reverted to the previous copy. -/
  | fwStartTimeout
  /-- KNOWN_ANSWER_CHECK (R403). Every 250 µs each engine and array runs its known-answer set, repeating a failing bag at once and reporting a suspect window. -/
  | knownAnswerCheck (unit : ObsId) (pass : Bool) (repeatPass : Bool)
  /-- PORTER_KNOWN_ANSWER (R404). A Porter runs its known-answer program between mailbox entries and every 250 µs in a long program. -/
  | porterKnownAnswer (m : PorterId) (pass : Bool)
  /-- WATCHDOG_FIRE (R406). A unit's progress watchdog fires after 1 ms without issue while able, making a permanent fault of the unit. -/
  | watchdogFire (unit : ObsId)
  /-- SCRUB_READ (R405). Scrub reads the next word of a storage on an idle cycle or after 128 cycles without one, and corrects or reacts. -/
  | scrubRead (st : ScrubStore) (res : ScrubRes)
  /-- SPARE_RELEASE (R409). After the spare's pinned placements are loaded, held work is released and the position's bags and scatter tasks replay. -/
  | spareRelease (pos : PosId)
  /-- AGENT_FAILOVER (R419). When one link of a stack has been DOWN 5 ms with the other up, ownership moves to the partner agent and parked work is replayed. -/
  | agentFailover (n : AgentId)
  /-- STACK_LOST (R420). When no link of a stack returns within 100 ms of the first DOWN, Farnum sends STACK_LOST. -/
  | stackLost (st : StackId)
  /-- PARKED_RELEASE (R416). When a parking cause clears, the parked task or request is released and replayed from its last committed point. -/
  | parkedRelease (w : WorkId)
  /-- REPORT_RESEND (R400). Every 60 s the Storekeeper resends each unacknowledged board retire report unchanged. -/
  | reportResend
  /-- INVENTORY_SWEEP (R451). Once every unit has latched its record, the Inventory moves to SWEEPING and writes records and copies. -/
  | inventorySweep
  /-- INVENTORY_DONE (R451). When every Inventory write is acknowledged, the state becomes DONE and SNAP_DONE is set. -/
  | inventoryDone
  /-- TALLY_PACKET_FORM (R446). A unit forms a Tally packet when it holds 15 items or its oldest item has waited FLUSH_US. -/
  | tallyPacketForm (unit : ObsId)
  /-- TALLY_PACKET_WRITTEN (R446). A Tally packet written to a free sink slot with the fence option is acknowledged, PROD advances and TALLY is set. -/
  | tallyPacketWritten (unit : ObsId)
  /-- AON_RESET_RELEASE (R471). Release of fn_aon_rst_n starts the Storekeeper, which verifies firmware, checks the integration record and loads TC_STACK_BASE. -/
  | aonResetRelease (fwA : Bool) (fwB : Bool) (rec : Option IntegrationRecord)
  /-- CORE_RESET_RELEASE (R471). Node management releases fn_core_rst_n. -/
  | coreResetRelease
  /-- ENGINE_DOMAIN_RESET_EXIT (R471). When the core reset is released, the Storekeeper is up and the clocks have run 100 µs, the engine and PHY domains leave reset and run self-test. -/
  | engineDomainResetExit (badTiles : BitVec 50)
  /-- CORE_RESET_ASSERT (R472). fn_core_rst_n going low stops the engine domain, and the agents see their links go DOWN. -/
  | coreResetAssert
  /-- AGENT_RESET_RELEASE (R471). The package releases ma_rst_n and the agent's domain leaves reset. -/
  | agentResetRelease (n : AgentId)
  /-- TRAINING_AT_RESET_END (R473). Training at reset ends for a link position 10 ms after the engine domain leaves reset if the link has not trained. -/
  | trainingAtResetEnd (n : AgentId)
  /-- REPORT_ACK (R400). The MCTP REPORT_ACK from node management acknowledges a report SEQ and stops its repetition. -/
  | reportAck (seq : BitVec 32)
  /-- SENSORS (R435). The MCTP SENSORS request returns every sensor reading. -/
  | sensors
  /-- LOG_READ (R435). The MCTP LOG_READ request returns up to 64 log records. -/
  | logRead (first : Nat) (count : Nat)
  /-- COUNTERS (R435). The MCTP COUNTERS request returns up to 496 counter values. -/
  | counters (first : Nat) (count : Nat)
  /-- CONFIG (R435). The MCTP CONFIG request runs a configuration command of R390 and responds with its final status. -/
  | config (op : BitVec 3) (digest : Bytes)
  /-- SNAPSHOT (R435). The MCTP SNAPSHOT request triggers an Inventory and returns SNAP_SEQ or a missed status. -/
  | snapshot
  /-- KEY_SET (R438). The MCTP KEY_SET request writes a signing or HMAC key slot after its signature checks, or is refused. -/
  | keySet (body : Bytes) (overI3c : Bool)
  /-- FW_INFO (R435). The MCTP FW_INFO request returns the firmware and key slot information. -/
  | fwInfo
  /-- REQUEST_UPDATE (R437). PLDM RequestUpdate opens a firmware update. -/
  | requestUpdate
  /-- PASS_COMPONENT_TABLE (R437). PLDM PassComponentTable names the components of an update. -/
  | passComponentTable (ids : List Nat)
  /-- UPDATE_COMPONENT (R437). PLDM UpdateComponent starts the transfer of the Storekeeper firmware or a configuration image. -/
  | updateComponent (id : Nat) (size : Nat)
  /-- REQUEST_FIRMWARE_DATA (R437). A response to the Storekeeper's RequestFirmwareData delivers component data, ending with verification of the component. -/
  | requestFirmwareData (offset : Nat) (data : Bytes) (signer : BitVec 2) (svn : BitVec 32) (sigOk : Bool)
  /-- ACTIVATE_FIRMWARE (R437). PLDM ActivateFirmware marks the new firmware copy active and restarts the Storekeeper within 50 ms. -/
  | activateFirmware
  /-- GET_STATUS (R437). PLDM GetStatus returns the update state. -/
  | getStatus
  /-- CANCEL_UPDATE (R437). PLDM CancelUpdate abandons an update. -/
  | cancelUpdate
  /-- QUERY_DEVICE_IDENTIFIERS (R437). PLDM QueryDeviceIdentifiers returns the device identifiers. -/
  | queryDeviceIdentifiers
  /-- GET_FIRMWARE_PARAMETERS (R437). PLDM GetFirmwareParameters returns the firmware parameters. -/
  | getFirmwareParameters
  /-- AGENT_RESET_ASSERT (R327). An agent's die resets (ma_rst_n low or agent die loss): its open Crates are lost and its link goes DOWN at once, and it restarts later with its log check. -/
  | agentResetAssert (n : AgentId)
  /-- AON_RESET_ASSERT (R387). A reset or power loss of the always-on domain empties every slot, clears the Storekeeper's marker values and stops the Storekeeper. -/
  | aonResetAssert
  /-- CLOCK_RETURN (R424). A lost clock starts again: an agent whose mclk returns restarts with its log check, and a returning sclk lets the Storekeeper resume and clears FN_HEALTH.SK_LOST. -/
  | clockReturn (clk : Clk)
  /-- PEER_PACKET_START (R312). When a Peer Port can start a packet, it chooses among queued ACK and NAK, management and data packets, giving management at least one of every 16 starts and ACK and NAK priority. -/
  | peerPacketStart (p : PortId)
  /-- PEER_PACKET_DROP (R298). A received peer payload with pp_p_rx_err, a bad CRC-32C, a reserved TYPE or VER, or no room in its buffer is dropped and counted. -/
  | peerPacketDrop (p : PortId) (pkt : PeerRx)
  deriving DecidableEq, Repr

end Sys2Proof
end

