-- ==== Sys2Proof/Decode.lean ====
section
/-! DEFINITION. The commands that words of the spec's table spell: the table gives no row any bits, so no
word spells one. -/

namespace Sys2Proof

/-- The command that a word spells by the table's bits: no row of the table gives bits. -/
def decodeTableWord (_nbits _w : Nat) : Option Instr := none

end Sys2Proof
end

