-- ==== Sys2Proof/Machine/Bits.lean ====
section
/-! DEFINITION. Bit fields, sign extension and byte order (R12), shared by every part. -/

namespace Sys2Proof.Machine

open Sys2Proof

/-- Field [hi:lo] of a number. -/
def fld (w hi lo : Nat) : Nat := (w >>> lo) % 2 ^ (hi + 1 - lo)

/-- Bit i of a number. -/
def bitOf (w i : Nat) : Bool := (w >>> i) % 2 == 1

/-- A Boolean as one bit at position i. -/
def bitAt (b : Bool) (i : Nat) : Nat := if b then 2 ^ i else 0

/-- A number cut to n bits and put at position lo. -/
def put (v n lo : Nat) : Nat := (v % 2 ^ n) <<< lo

/-- The two's-complement value of the low n bits of w. -/
def sext (n w : Nat) : Int :=
  let v := w % 2 ^ n
  if v < 2 ^ (n - 1) then (v : Int) else (v : Int) - (2 ^ n : Nat)

/-- The n-bit two's-complement code of an integer. -/
def wrapInt (n : Nat) (i : Int) : Nat := (i % (2 ^ n : Nat)).toNat

/-- The number that little-endian bytes spell (R12). -/
def leNat : Bytes → Nat
  | [] => 0
  | b :: bs => b.toNat + 256 * leNat bs

/-- The n little-endian bytes of a number (R12). -/
def leBytes : Nat → Nat → Bytes
  | 0, _ => []
  | n + 1, v => BitVec.ofNat 8 v :: leBytes n (v / 256)

/-- n zero bytes. -/
def zeros (n : Nat) : Bytes := List.replicate n 0#8

/-- Exactly n bytes: cut, or filled with zero bytes at the end. -/
def fit (n : Nat) (bs : Bytes) : Bytes := bs.take n ++ zeros (n - bs.length)

/-- n bytes at offset off; bytes past the end read 0. -/
def slice (bs : Bytes) (off n : Nat) : Bytes := fit n ((bs.drop off).take n)

/-- The little-endian number of n bytes at offset off. -/
def leAt (bs : Bytes) (off n : Nat) : Nat := leNat (slice bs off n)

/-- The smallest multiple of m that is at least n. -/
def roundUp (n m : Nat) : Nat := (n + m - 1) / m * m

/-- ⌈n ÷ m⌉. -/
def ceilDiv (n m : Nat) : Nat := (n + m - 1) / m

/-- Bytes padded with zeros to a multiple of m. -/
def padTo (m : Nat) (bs : Bytes) : Bytes := fit (roundUp bs.length m) bs

/-- Bytes cut into runs of n, by fuel. -/
def chunksGo : Nat → Nat → Bytes → List Bytes
  | 0, _, _ => []
  | _, _, [] => []
  | f + 1, n, bs => bs.take n :: chunksGo f n (bs.drop n)

/-- Bytes cut into runs of n bytes, the last maybe shorter. -/
def chunks (n : Nat) (bs : Bytes) : List Bytes := chunksGo bs.length n bs

/-- The positions of the set bits of a mask below n, lowest first. -/
def setBits (n mask : Nat) : List Nat := (List.range n).filter (bitOf mask)

/-- How many of the low n bits of a mask are set. -/
def popcount (n mask : Nat) : Nat := (setBits n mask).length

/-- nth_set_bit of R65 and R383: 0 selects the lowest set bit. -/
def nthSetBit (n mask k : Nat) : Nat := (setBits n mask).getD k 0

/-- A count that stays at its largest value (R63, R102). -/
def satAdd (limit a b : Nat) : Nat := min limit (a + b)

/-- The XOR of two byte lists, the second filled with zeros: bit errors on a lane. -/
def xorBytes (bs err : Bytes) : Bytes :=
  (bs.zip (fit bs.length err)).map fun p => p.1 ^^^ p.2

/-- The distance from one position to another, modulo 2^32 (R277). -/
def posDiff (a b : Nat) : Nat := (a + 2 ^ 32 - b) % 2 ^ 32

/-- Bits hi down to lo. -/
def bitsMask (hi lo : Nat) : Nat := 2 ^ (hi + 1) - 2 ^ lo

end Sys2Proof.Machine
end

