-- ==== Sys2Proof/Machine/Crypto.lean ====
section
/-! DEFINITION. The published standards the block uses on bytes: CRC-32C (peer packets, commit log),
CRC-64 with the ECMA-182 polynomial (R322), SHA-256 and HMAC (R310), SHA-384 (R379), and ECDSA
verification on curve P-384 (R379, R438). -/

namespace Sys2Proof.Machine

open Sys2Proof

/-! ### CRC -/

/-- One bit of a reflected CRC-32C. -/
def crc32cBit (c : BitVec 32) : BitVec 32 :=
  if c.getLsbD 0 then (c >>> 1) ^^^ 0x82F63B78#32 else c >>> 1

/-- f applied n times. -/
def iter {α : Type} (f : α → α) : Nat → α → α
  | 0, a => a
  | n + 1, a => iter f n (f a)

/-- CRC-32C (Castagnoli) of some bytes: reflected, initial value and final inversion all ones. -/
def crc32c (bs : Bytes) : BitVec 32 :=
  ~~~ (bs.foldl (fun c b => iter crc32cBit 8 (c ^^^ b.setWidth 32)) 0xFFFFFFFF#32)

/-- One bit of the CRC-64 of R322. -/
def crc64Bit (c : BitVec 64) : BitVec 64 :=
  if c.getLsbD 63 then (c <<< 1) ^^^ 0x42F0E1EBA9EA3693#64 else c <<< 1

/-- CRC-64 of R322: initial value zero, no reflection, no final inversion. -/
def crc64 (bs : Bytes) : BitVec 64 :=
  bs.foldl (fun (c : BitVec 64) (b : Byte) => iter crc64Bit 8 (c ^^^ (BitVec.setWidth 64 b).shiftLeft 56)) 0#64

/-! ### SHA-2 -/

/-- The big-endian number that bytes spell. -/
def beNat (bs : Bytes) : Nat := bs.foldl (fun a b => 256 * a + b.toNat) 0

/-- The n big-endian bytes of a number. -/
def beBytes (n v : Nat) : Bytes := (leBytes n v).reverse

/-- The greatest n-bit addition to r whose k-th power does not pass v, found from the highest bit down. -/
def rootFrom (k v r : Nat) : Nat → Nat
  | 0 => r
  | b + 1 => rootFrom k v (if (r + 2 ^ b) ^ k ≤ v then r + 2 ^ b else r) b

/-- The first n fraction bits of the k-th root of p, for p below 2^10. -/
def rootFrac (k n p : Nat) : Nat := rootFrom k (p * 2 ^ (k * n)) 0 (n + 5) % 2 ^ n

/-- The primes below 410, of which there are 80. -/
def shaPrimes : List Nat :=
  (List.range 410).filter fun p => 2 ≤ p && (List.range 21).all fun d => d < 2 || p ≤ d || p % d != 0

/-- The round constants of SHA-384 as its standard derives them: the first 64 fraction bits of the cube roots of the
first 80 primes. The first 64, cut to their high halves, are those of SHA-256. -/
def shaK : List Nat := shaPrimes.map (rootFrac 3 64)

/-- The parameters of a SHA-2 function: word bytes, rounds, rotations, initial hash. -/
structure ShaSpec where
  wb : Nat
  rounds : Nat
  bigA : Nat × Nat × Nat
  bigE : Nat × Nat × Nat
  small0 : Nat × Nat × Nat
  small1 : Nat × Nat × Nat
  init : List Nat

/-- SHA-384; its initial hash comes from the square roots of the 9th to the 16th prime. -/
def sha384Spec : ShaSpec :=
  { wb := 8, rounds := 80, bigA := (28, 34, 39), bigE := (14, 18, 41), small0 := (1, 8, 7),
    small1 := (19, 61, 6)
    init := ((shaPrimes.drop 8).take 8).map (rootFrac 2 64) }

/-- SHA-256; its initial hash comes from the square roots of the first eight primes. -/
def sha256Spec : ShaSpec :=
  { wb := 4, rounds := 64, bigA := (2, 13, 22), bigE := (6, 11, 25), small0 := (7, 18, 3),
    small1 := (17, 19, 10)
    init := (shaPrimes.take 8).map (rootFrac 2 32) }

/-- Right rotation of an n-bit word. -/
def rotr (n x k : Nat) : Nat := (x >>> k) ||| ((x <<< (n - k)) % 2 ^ n)

/-- Three rotations combined (the Σ functions). -/
def sha3Rot (n : Nat) (r : Nat × Nat × Nat) (x : Nat) : Nat :=
  rotr n x r.1 ^^^ rotr n x r.2.1 ^^^ rotr n x r.2.2

/-- Two rotations and a shift combined (the σ functions). -/
def sha2Rot (n : Nat) (r : Nat × Nat × Nat) (x : Nat) : Nat :=
  rotr n x r.1 ^^^ rotr n x r.2.1 ^^^ (x >>> r.2.2)

/-- The message schedule, newest word first. -/
def shaSchedule (p : ShaSpec) : Nat → List Nat → List Nat
  | 0, w => w
  | k + 1, w =>
    let n := 8 * p.wb
    let x := (sha2Rot n p.small1 (w.getD 1 0) + w.getD 6 0 + sha2Rot n p.small0 (w.getD 14 0) +
      w.getD 15 0) % 2 ^ n
    shaSchedule p k (x :: w)

/-- One round on the eight working words. -/
def shaRound (p : ShaSpec) (v : List Nat) (kw : Nat × Nat) : List Nat :=
  let n := 8 * p.wb
  match v with
  | [a, b, c, d, e, f, g, h] =>
    let ch := (e &&& f) ^^^ ((2 ^ n - 1 - e) &&& g)
    let maj := (a &&& b) ^^^ (a &&& c) ^^^ (b &&& c)
    let t1 := h + sha3Rot n p.bigE e + ch + kw.1 + kw.2
    let t2 := sha3Rot n p.bigA a + maj
    [(t1 + t2) % 2 ^ n, a, b, c, (d + t1) % 2 ^ n, e, f, g]
  | v => v

/-- One block compressed into the hash. -/
def shaBlock (p : ShaSpec) (h : List Nat) (blk : Bytes) : List Nat :=
  let n := 8 * p.wb
  let w := (shaSchedule p (p.rounds - 16) ((chunks p.wb blk).map beNat).reverse).reverse
  let ks := shaK.map fun k => k >>> (64 - n)
  let v := (ks.zip w).foldl (shaRound p) h
  (h.zip v).map fun x => (x.1 + x.2) % 2 ^ n

/-- The padded message of a SHA-2 function. -/
def shaPad (p : ShaSpec) (m : Bytes) : Bytes :=
  let blk := 16 * p.wb
  let z := (2 * blk - 1 - 2 * p.wb - m.length % blk) % blk
  m ++ [0x80#8] ++ zeros z ++ beBytes (2 * p.wb) (8 * m.length)

/-- The full output of a SHA-2 function. -/
def sha2 (p : ShaSpec) (m : Bytes) : Bytes :=
  ((chunks (16 * p.wb) (shaPad p m)).foldl (shaBlock p) p.init).flatMap (beBytes p.wb)

/-- SHA-384: 48 bytes. -/
def sha384 (m : Bytes) : Bytes := (sha2 sha384Spec m).take 48

/-- SHA-256: 32 bytes. -/
def sha256 (m : Bytes) : Bytes := sha2 sha256Spec m

/-- HMAC-SHA-256 of a message under a key of at most 64 bytes (R310). -/
def hmacSha256 (key m : Bytes) : Bytes :=
  let k := fit 64 key
  sha256 ((k.map fun b => b ^^^ 0x5C#8) ++ sha256 ((k.map fun b => b ^^^ 0x36#8) ++ m))

/-! ### ECDSA on curve P-384 -/

/-- The field prime of P-384. -/
def p384p : Nat := 2 ^ 384 - 2 ^ 128 - 2 ^ 96 + 2 ^ 32 - 1

/-- The group order of P-384. -/
def p384n : Nat :=
  0xffffffffffffffffffffffffffffffffffffffffffffffffc7634d81f4372ddf581a0db248b0a77aecec196accc52973

/-- The coefficient b of P-384; the coefficient a is −3. -/
def p384b : Nat :=
  0xb3312fa7e23ee7e4988e056be3f82d19181d9c6efe8141120314088f5013875ac656398d8a2ed19d2a85c8edd3ec2aef

/-- The base point of P-384. -/
def p384g : Nat × Nat :=
  (0xaa87ca22be8b05378eb1c71ef320ad746e1d3b628ba79b9859f741e082542a385502f25dbf55296c3a545e3872760ab7,
   0x3617de4a96262c6f5d9e98bf9292dc29f8f41dbd289a147ce9da3113b5f0b8c00a60b1ce1d7e819d7a431d7c90ea0e5f)

/-- b^e mod m, bit by bit from the top; fuel is the bit count of e. -/
def powModGo (b e m : Nat) : Nat → Nat → Nat
  | 0, a => a
  | k + 1, a =>
    let a := a * a % m
    powModGo b e m k (if bitOf e k then a * b % m else a)

/-- The inverse modulo a prime of at most 384 bits. -/
def invMod (a m : Nat) : Nat := powModGo (a % m) (m - 2) m 384 1

/-- Subtraction modulo m. -/
def subMod (a b m : Nat) : Nat := (a + (m - b % m)) % m

/-- Point addition; none is the point at infinity. -/
def ecAdd (p : Nat) : Option (Nat × Nat) → Option (Nat × Nat) → Option (Nat × Nat)
  | none, q => q
  | q, none => q
  | some (x1, y1), some (x2, y2) =>
    if x1 = x2 ∧ (y1 + y2) % p = 0 then none
    else
      let l := if x1 = x2 then subMod (3 * x1 * x1) 3 p * invMod (2 * y1) p % p
        else subMod y2 y1 p * invMod (subMod x2 x1 p) p % p
      let x3 := subMod (l * l) (x1 + x2) p
      some (x3, subMod (l * subMod x1 x3 p) y1 p)

/-- Scalar multiplication, from the top bit. -/
def ecMulGo (p : Nat) (k : Nat) (q : Option (Nat × Nat)) : Nat → Option (Nat × Nat) → Option (Nat × Nat)
  | 0, a => a
  | i + 1, a =>
    let a := ecAdd p a a
    ecMulGo p k q i (if bitOf k i then ecAdd p a q else a)

/-- k × Q on P-384. -/
def ecMul (k : Nat) (q : Nat × Nat) : Option (Nat × Nat) := ecMulGo p384p k (some q) 384 none

/-- A point of the curve. -/
def onP384 (q : Nat × Nat) : Bool :=
  q.1 < p384p && q.2 < p384p && (q.2 * q.2) % p384p == (subMod (q.1 * q.1 * q.1) (3 * q.1) p384p + p384b) % p384p

/-- ECDSA verification on P-384 of the 48-byte hash under public point q (R379). -/
def ecdsaVerify (q : Nat × Nat) (hash : Bytes) (r s : Nat) : Bool :=
  if onP384 q && 0 < r && r < p384n && 0 < s && s < p384n then
    let w := invMod s p384n
    let u1 := beNat hash * w % p384n
    let u2 := r * w % p384n
    match ecAdd p384p (ecMul u1 p384g) (ecMul u2 q) with
    | some (x, _) => x % p384n == r
    | none => false
  else false

end Sys2Proof.Machine
end

