-- ==== Sys2Proof/Config.lean ====
section
/-! DEFINITION. What an implementation fixes and the spec leaves open: the free values. -/

namespace Sys2Proof

/-- Free values (DESIGN CHOICE, log entry 2): the n-th value that the spec leaves open. It has no body, so
no proof knows it. A step that draws one advances State.fresh. -/
opaque Config.freeValue : Nat → BitVec 64

/-- What a byte reads as that a host error has left open (R8; DESIGN CHOICE, log entry 7): by the count of free values
drawn so far and the byte's address. It has no body. -/
opaque Config.freeByte : Nat → Nat → BitVec 8

end Sys2Proof
end

