-- ==== Sys2Proof/Machine/Flt.lean ====
section
/-! DEFINITION. Exact values of the binary floating-point formats (R113), and their one rounding
(round to nearest, ties to even, or toward an infinity for R146). -/

namespace Sys2Proof.Machine

/-- A value: not-a-number, an infinity, or ±man × 2^exp (man = 0 is a signed zero). -/
inductive FV where
  | nan
  | inf (neg : Bool)
  | fin (neg : Bool) (man : Nat) (exp : Int)
  deriving DecidableEq, Repr

/-- A binary format of R113: exponent bits, fraction bits, and whether it is FP8 E4M3, which has no
infinity and one not-a-number fraction. -/
structure FFmt where
  eb : Nat
  mb : Nat
  e4m3 : Bool := false
  deriving DecidableEq, Repr, Inhabited

namespace FFmt
def fp64 : FFmt := { eb := 11, mb := 52 }
def fp32 : FFmt := { eb := 8, mb := 23 }
def bf16 : FFmt := { eb := 8, mb := 7 }
def fp16 : FFmt := { eb := 5, mb := 10 }
def fp8e4m3 : FFmt := { eb := 4, mb := 3, e4m3 := true }
def fp8e5m2 : FFmt := { eb := 5, mb := 2 }
end FFmt

/-- The exponent bias (R113). -/
def FFmt.bias (f : FFmt) : Nat := 2 ^ (f.eb - 1) - 1

/-- The exponent of the smallest subnormal. -/
def FFmt.emin (f : FFmt) : Int := 1 - (f.bias : Int) - f.mb

/-- The largest finite magnitude as man × 2^exp (R113). -/
def FFmt.maxFin (f : FFmt) : Nat × Int :=
  if f.e4m3 then (14, 5)
  else (2 ^ (f.mb + 1) - 1, (f.bias : Int) - f.mb)

/-- The number of bits of a code. -/
def FFmt.bits (f : FFmt) : Nat := 1 + f.eb + f.mb

/-- The canonical not-a-number code (R114, R138). -/
def FFmt.nanCode (f : FFmt) : Nat :=
  if f.e4m3 then 0x7F else (2 ^ f.eb - 1) * 2 ^ f.mb + 2 ^ (f.mb - 1)

/-- The code of an infinity; E4M3 has none and gives its largest finite value (R138). -/
def FFmt.infCode (f : FFmt) (neg : Bool) : Nat :=
  bitAt neg (f.eb + f.mb) + (if f.e4m3 then 0x7E else (2 ^ f.eb - 1) * 2 ^ f.mb)

/-- The value of a code (R113); every not-a-number is quiet, subnormals are honoured (R114). -/
def FFmt.decode (f : FFmt) (c : Nat) : FV :=
  let neg := bitOf c (f.eb + f.mb)
  let e := fld c (f.eb + f.mb - 1) f.mb
  let m := c % 2 ^ f.mb
  if e = 0 then .fin neg m f.emin
  else if e = 2 ^ f.eb - 1 ∧ (f.e4m3 = false ∨ m = 2 ^ f.mb - 1) then
    if f.e4m3 ∨ m ≠ 0 then .nan else .inf neg
  else .fin neg (2 ^ f.mb + m) ((e : Int) - f.bias - f.mb)

/-- The rounding directions used by the block: to nearest with ties to even everywhere, and toward
an infinity for the bounds of R146. -/
inductive Rnd where
  | nearest
  | towardPos
  | towardNeg
  deriving DecidableEq, Repr

/-- 2^e as a factor: 2^e for e ≥ 0, else 1. -/
def pow2Pos (e : Int) : Nat := 2 ^ e.toNat

/-- ⌊log2 (num ÷ den × 2^exp)⌋ for num, den > 0. -/
def floorLog2 (num den : Nat) (exp : Int) : Int :=
  let a : Int := (Nat.log2 num : Int) - (Nat.log2 den : Int)
  -- num ÷ den ≥ 2^a ?
  if num * pow2Pos (-a) ≥ den * pow2Pos a then a + exp else a - 1 + exp

/-- num ÷ den rounded to an integer in the given direction; neg is the sign of the value, sticky says
that the value lies strictly above num ÷ den and below the next multiple of 1 ÷ den. -/
def roundDiv (r : Rnd) (neg : Bool) (num den : Nat) (sticky : Bool) : Nat :=
  let q := num / den
  let rem := num % den
  let exact := rem = 0 ∧ sticky = false
  match r with
  | .nearest =>
    if 2 * rem > den ∨ (2 * rem = den ∧ sticky) then q + 1
    else if 2 * rem = den then q + q % 2
    else q
  | .towardPos => if exact ∨ neg then q else q + 1
  | .towardNeg => if exact ∨ neg = false then q else q + 1

/-- A positive value num ÷ den × 2^exp (a little more when sticky) rounded to the format, with no
upper limit on the exponent: the pair (man, exp). -/
def FFmt.roundPos (f : FFmt) (r : Rnd) (neg : Bool) (num den : Nat) (exp : Int) (sticky : Bool) :
    Nat × Int :=
  let q := max f.emin (floorLog2 num den exp - f.mb)
  let sh := exp - q
  (roundDiv r neg (num * pow2Pos sh) (den * pow2Pos (-sh)) sticky, q)

/-- a × 2^ea ≤ b × 2^eb. -/
def dyLe (a : Nat) (ea : Int) (b : Nat) (eb : Int) : Bool :=
  a * pow2Pos (ea - eb) ≤ b * pow2Pos (eb - ea)

/-- a × 2^ea < b × 2^eb. -/
def dyLt (a : Nat) (ea : Int) (b : Nat) (eb : Int) : Bool := !dyLe b eb a ea

/-- The code of ±man × 2^exp, which the format holds exactly. -/
def FFmt.encodeFin (f : FFmt) (neg : Bool) (man : Nat) (exp : Int) : Nat :=
  let s := bitAt neg (f.eb + f.mb)
  if man = 0 then s
  else
    let l : Int := (Nat.log2 man : Int) + exp
    let e := l + f.bias
    if e ≤ 0 then s + man * pow2Pos (exp - f.emin) / pow2Pos (f.emin - exp)
    else
      let sh := l - f.mb
      s + e.toNat * 2 ^ f.mb + (man * pow2Pos (exp - sh) / pow2Pos (sh - exp)) % 2 ^ f.mb

/-- The exact value ±num ÷ den × 2^exp rounded once to the format; beyond the largest finite value
the result is an infinity of the sign (R127, R201). num = 0 gives a zero of the sign. -/
def FFmt.roundCode (f : FFmt) (r : Rnd) (neg : Bool) (num den : Nat) (exp : Int)
    (sticky : Bool := false) : Nat :=
  if num = 0 then bitAt neg (f.eb + f.mb)
  else
    let (m, e) := f.roundPos r neg num den exp sticky
    let (mm, me) := f.maxFin
    if dyLt mm me m e then
      -- beyond the largest finite value: a directed rounding toward zero stays finite
      if (r = .towardNeg ∧ neg = false) ∨ (r = .towardPos ∧ neg) then f.encodeFin neg mm me
      else f.infCode neg
    else f.encodeFin neg m e

/-- A value rounded to nearest, ties to even, as a code of the format. -/
def FFmt.encode (f : FFmt) (r : Rnd := .nearest) : FV → Nat
  | .nan => f.nanCode
  | .inf n => f.infCode n
  | .fin n m e => f.roundCode r n m 1 e

/-- The exact sum of two dyadic values as (negative, magnitude, exponent); the sign of an exact zero
sum is negative only when both operands are negative zeros (round to nearest). -/
def dyAdd (na : Bool) (ma : Nat) (ea : Int) (nb : Bool) (mb : Nat) (eb : Int) : Bool × Nat × Int :=
  let e := min ea eb
  let a : Int := (ma * pow2Pos (ea - e) : Nat)
  let b : Int := (mb * pow2Pos (eb - e) : Nat)
  let s : Int := (if na then -a else a) + (if nb then -b else b)
  if s = 0 then (na && nb && ma == 0 && mb == 0, 0, e) else (decide (s < 0), s.natAbs, e)

/-- The exact sum, with IEEE 754 rules for infinities and not-a-numbers. -/
def FV.add : FV → FV → FV
  | .nan, _ => .nan
  | _, .nan => .nan
  | .inf a, .inf b => if a = b then .inf a else .nan
  | .inf a, .fin .. => .inf a
  | .fin .., .inf b => .inf b
  | .fin na ma ea, .fin nb mb eb =>
    let (n, m, e) := dyAdd na ma ea nb mb eb
    .fin n m e

/-- The value with its sign changed. -/
def FV.neg : FV → FV
  | .nan => .nan
  | .inf a => .inf (!a)
  | .fin n m e => .fin (!n) m e

/-- The exact product, special values as R123 states. -/
def FV.mul : FV → FV → FV
  | .nan, _ => .nan
  | _, .nan => .nan
  | .inf a, .inf b => .inf (a != b)
  | .inf a, .fin n m _ => if m = 0 then .nan else .inf (a != n)
  | .fin n m _, .inf b => if m = 0 then .nan else .inf (n != b)
  | .fin na ma ea, .fin nb mb eb => .fin (na != nb) (ma * mb) (ea + eb)

/-- Is the value a not-a-number? -/
def FV.isNan : FV → Bool
  | .nan => true
  | _ => false

/-- Is the value an infinity? -/
def FV.isInf : FV → Bool
  | .inf _ => true
  | _ => false

/-- Is the value a zero of either sign? -/
def FV.isZero : FV → Bool
  | .fin _ m _ => m == 0
  | _ => false

/-- The sign of a value; a not-a-number counts as positive. -/
def FV.sign : FV → Bool
  | .nan => false
  | .inf n => n
  | .fin n _ _ => n

/-- The order of the reals with the infinities; the two zeros are equal. Not-a-numbers compare to
nothing. -/
def FV.lt : FV → FV → Bool
  | .nan, _ => false
  | _, .nan => false
  | .inf a, .inf b => a && !b
  | .inf a, .fin .. => a
  | .fin .., .inf b => !b
  | .fin na ma ea, .fin nb mb eb =>
    match na, nb with
    | false, false => dyLt ma ea mb eb
    | true, true => dyLt mb eb ma ea
    | true, false => !(ma == 0 && mb == 0)
    | false, true => false

/-- Equality of values; +0 equals −0, not-a-numbers equal nothing. -/
def FV.eq (a b : FV) : Bool := !a.isNan && !b.isNan && !a.lt b && !b.lt a

/-- One operation in a format: addition rounded to nearest, ties to even. -/
def FFmt.add (f : FFmt) (a b : Nat) : Nat := f.encode .nearest ((f.decode a).add (f.decode b))

/-- Subtraction rounded to nearest, ties to even. -/
def FFmt.sub (f : FFmt) (a b : Nat) : Nat := f.encode .nearest ((f.decode a).add (f.decode b).neg)

/-- Multiplication rounded to nearest, ties to even. -/
def FFmt.mul (f : FFmt) (a b : Nat) : Nat := f.encode .nearest ((f.decode a).mul (f.decode b))

/-- A value divided by a value, rounded once (IEEE 754 division). -/
def FFmt.divV (f : FFmt) (a b : FV) : Nat :=
  match a, b with
  | .nan, _ => f.nanCode
  | _, .nan => f.nanCode
  | .inf _, .inf _ => f.nanCode
  | .inf s, .fin n _ _ => f.infCode (s != n)
  | .fin n _ _, .inf s => bitAt (n != s) (f.eb + f.mb)
  | .fin na ma ea, .fin nb mb eb =>
    if mb = 0 then (if ma = 0 then f.nanCode else f.infCode (na != nb))
    else f.roundCode .nearest (na != nb) ma mb (ea - eb)

/-- Division of two codes. -/
def FFmt.div (f : FFmt) (a b : Nat) : Nat := f.divV (f.decode a) (f.decode b)

/-- ⌊√n⌋ bit by bit: fuel k decides bits k−1 to 0 of the root. -/
def isqrtGo (n : Nat) : Nat → Nat → Nat
  | 0, r => r
  | k + 1, r => isqrtGo n k (if (r + 2 ^ k) * (r + 2 ^ k) ≤ n then r + 2 ^ k else r)

/-- ⌊√n⌋. -/
def isqrt (n : Nat) : Nat := isqrtGo n (Nat.log2 n / 2 + 1) 0

/-- √(num ÷ den × 2^exp) for a positive value, rounded once: the root of a scaled integer quotient
with 2 × (mb + 4) extra bits, and a sticky bit for everything below. -/
def FFmt.sqrtQ (f : FFmt) (num den : Nat) (exp : Int) : Nat :=
  let l := floorLog2 num den exp
  let want : Int := 2 * (f.mb + 4) - l                 -- bits to scale the value by
  let sh := want + want % 2                            -- an even scale
  let t := exp + sh
  let n := num * pow2Pos t / (den * pow2Pos (-t))
  let rest := num * pow2Pos t % (den * pow2Pos (-t)) != 0
  let r := isqrt n
  f.roundCode .nearest false r 1 (-(sh / 2)) (rest || r * r != n)

/-- The IEEE 754 square root of a code. -/
def FFmt.sqrt (f : FFmt) (a : Nat) : Nat :=
  match f.decode a with
  | .nan => f.nanCode
  | .inf n => if n then f.nanCode else f.infCode false
  | .fin n m e =>
    if m = 0 then a % 2 ^ f.bits else if n then f.nanCode else f.sqrtQ m 1 e

/-- ±m × 2^e ÷ √(n × 2^ne) for n > 0, rounded once (R129, R202): the square is taken so that one root
of a quotient decides the result. -/
def FFmt.divSqrt (f : FFmt) (neg : Bool) (m : Nat) (e : Int) (n : Nat) (ne : Int := 0) : Nat :=
  if m = 0 then bitAt neg (f.eb + f.mb)
  else
    let num := m * m
    let exp := 2 * e - ne
    let l := floorLog2 num n exp
    let want : Int := 2 * (f.mb + 60) - l
    let sh := want + want % 2
    let t := exp + sh
    let q := num * pow2Pos t / (n * pow2Pos (-t))
    let rest := num * pow2Pos t % (n * pow2Pos (-t)) != 0
    let r := isqrt q
    f.roundCode .nearest neg r 1 (-(sh / 2)) (rest || r * r != q)

/-- The nearest integer of ±num ÷ den × 2^exp, ties to even. -/
def nearestInt (neg : Bool) (num den : Nat) (exp : Int) : Int :=
  let q := roundDiv .nearest neg (num * pow2Pos exp) (den * pow2Pos (-exp)) false
  if neg then -(q : Int) else q

end Sys2Proof.Machine
end

