-- ==== Sys2Proof/Machine/Formats.lean ====
section
/-! DEFINITION. The element formats of rows, weights and results (R34, R113 to R119): their sizes,
and the value that each code stands for. -/

namespace Sys2Proof.Machine

/-- ROW_FMT, WFMT and OUT_FMT formats (R34). -/
inductive Fmt where
  | fp32 | fp64 | bf16 | fp16 | fp8e4m3 | fp8e5m2 | int8 | int4 | lns16 | lns8
  deriving DecidableEq, Repr, Inhabited

/-- The encoding of R34; values 0xA to 0xF are reserved. -/
def Fmt.ofCode : Nat → Option Fmt
  | 0 => some .fp32 | 1 => some .fp64 | 2 => some .bf16 | 3 => some .fp16
  | 4 => some .fp8e4m3 | 5 => some .fp8e5m2 | 6 => some .int8 | 7 => some .int4
  | 8 => some .lns16 | 9 => some .lns8 | _ => none

/-- The value that encodes a format in R34. -/
def Fmt.code : Fmt → Nat
  | .fp32 => 0 | .fp64 => 1 | .bf16 => 2 | .fp16 => 3 | .fp8e4m3 => 4
  | .fp8e5m2 => 5 | .int8 => 6 | .int4 => 7 | .lns16 => 8 | .lns8 => 9

/-- Element size in bits (R34). -/
def Fmt.bits : Fmt → Nat
  | .fp32 => 32 | .fp64 => 64 | .bf16 => 16 | .fp16 => 16 | .fp8e4m3 => 8
  | .fp8e5m2 => 8 | .int8 => 8 | .int4 => 4 | .lns16 => 16 | .lns8 => 8

/-- The weight formats of TK_CTL.WFMT (R76). -/
def wfmtOf : Nat → Fmt
  | 0 => .fp32 | 1 => .bf16 | 2 => .fp16 | _ => .lns16

/-- The binary format behind a floating-point element format. -/
def Fmt.ffmt : Fmt → Option FFmt
  | .fp32 => some .fp32 | .fp64 => some .fp64 | .bf16 => some .bf16 | .fp16 => some .fp16
  | .fp8e4m3 => some .fp8e4m3 | .fp8e5m2 => some .fp8e5m2 | _ => none

/-- Bytes that n elements take, INT4 packed two to a byte (R44). -/
def Fmt.dataBytes (f : Fmt) (n : Nat) : Nat := (n * f.bits + 7) / 8

/-- The code of element j of row data: element 2i of INT4 is bits [3:0] and element 2i + 1 bits [7:4]
of byte i (R44). -/
def Fmt.codeAt (f : Fmt) (data : Bytes) (j : Nat) : Nat :=
  match f with
  | .int4 => let b := leAt data (j / 2) 1; if j % 2 = 0 then b % 16 else b / 16
  | _ => leAt data (j * (f.bits / 8)) (f.bits / 8)

/-- The codes of the first n elements. -/
def Fmt.codes (f : Fmt) (data : Bytes) (n : Nat) : List Nat := (List.range n).map (f.codeAt data)

/-- Pairs of 4-bit codes packed into bytes, low nibble first (R44). -/
def packNibbles : List Nat → Bytes
  | [] => []
  | [a] => [BitVec.ofNat 8 (a % 16)]
  | a :: b :: r => BitVec.ofNat 8 (a % 16 + 16 * (b % 16)) :: packNibbles r

/-- The bytes of element codes laid end to end (R44). -/
def Fmt.pack (f : Fmt) (cs : List Nat) : Bytes :=
  match f with
  | .int4 => packNibbles cs
  | _ => cs.flatMap (leBytes (f.bits / 8))

/-! ### Logarithmic codes -/

/-- Binary search for T[f] of R119: the 24-bit t with (2t − 1)^1024 < 2^(24 × 1024 + f) < (2t + 1)^1024,
as the largest t with (2t − 1)^1024 ≤ 2^(24 × 1024 + f). Fuel k decides bit k − 1. -/
def lnsTableGo (target : Nat) : Nat → Nat → Nat
  | 0, t => t
  | k + 1, t =>
    let t' := t + 2 ^ k
    lnsTableGo target k (if (2 * t' - 1) ^ 1024 ≤ target then t' else t)

/-- Entry T[f] of the conversion table (R119): 2^(f ÷ 1,024) correctly rounded to a 24-bit
significand with its leading one at bit 23. -/
def lnsTable (f : Nat) : Nat := lnsTableGo (2 ^ (24 * 1024 + f)) 24 0

/-- lns_value of R119 for a log code in 10 fraction bits. -/
def lnsValue (neg : Bool) (l10 : Int) : FV :=
  let e := l10 / 1024
  let f := (l10 % 1024).toNat
  .fin neg (lnsTable f) (e - 23)

/-- A logarithmic code (R116 to R118): one of the special codes, or ordinary with its log code in 10
fraction bits. -/
inductive LnsCode where
  | zero
  | nan
  | inf (neg : Bool)
  | ord (neg : Bool) (l10 : Int)
  deriving DecidableEq, Repr

/-- The reading of an LNS16 or LNS8 code; the width is 16 or 8 bits, with 10 or 3 fraction bits. -/
def lnsDecode (width code : Nat) : LnsCode :=
  let lb := width - 1
  let neg := bitOf code lb
  let l := sext lb code
  let top : Int := (2 ^ (lb - 1) : Nat)
  if l = -top then (if neg then .nan else .zero)
  else if l = top - 1 then .inf neg
  else .ord neg (if width = 16 then l else l * 128)

/-- The value of a logarithmic code (R119). -/
def LnsCode.value : LnsCode → FV
  | .zero => .fin false 0 0
  | .nan => .nan
  | .inf n => .inf n
  | .ord n l => lnsValue n l

/-- The product of two logarithmic codes, formed in the log domain and converted once (R124). -/
def LnsCode.mul : LnsCode → LnsCode → FV
  | .nan, _ => .nan
  | _, .nan => .nan
  | .zero, .inf _ => .nan
  | .inf _, .zero => .nan
  | .zero, .zero => .fin false 0 0
  | .zero, .ord n _ => .fin n 0 0
  | .ord n _, .zero => .fin n 0 0
  | .inf a, .inf b => .inf (a != b)
  | .inf a, .ord b _ => .inf (a != b)
  | .ord a _, .inf b => .inf (a != b)
  | .ord a la, .ord b lb => lnsValue (a != b) (la + lb)

/-- The largest L with 2^L ≤ x^frac × √2 and so on: log2|x| in frac fraction bits rounded to the
nearest integer (R138), for |x| = m × 2^e with m > 0: ⌊(⌊2 × frac × log2|x|⌋ + 1) ÷ 2⌋. -/
def lnsRoundLog (frac : Nat) (m : Nat) (e : Int) : Int :=
  ((Nat.log2 (m ^ (2 * frac)) : Int) + e * (2 * frac : Nat) + 1) / 2

/-- The value that a float or logarithmic code stands for (R113, R119); integer formats need a scale
and give the plain integer code here (R115). -/
def Fmt.value (f : Fmt) (code : Nat) : FV :=
  match f with
  | .int8 => let q := sext 8 code; .fin (decide (q < 0)) q.natAbs 0
  | .int4 => let q := sext 4 code; .fin (decide (q < 0)) q.natAbs 0
  | .lns16 => (lnsDecode 16 code).value
  | .lns8 => (lnsDecode 8 code).value
  | .fp32 => FFmt.fp32.decode code
  | .fp64 => FFmt.fp64.decode code
  | .bf16 => FFmt.bf16.decode code
  | .fp16 => FFmt.fp16.decode code
  | .fp8e4m3 => FFmt.fp8e4m3.decode code
  | .fp8e5m2 => FFmt.fp8e5m2.decode code

end Sys2Proof.Machine
end

