-- ==== Sys2Proof/Machine/Numeric.lean ====
section
/-! DEFINITION. Dequantisation, weights, products, group sums and the pooling modes (R89, R115 to R136). -/

namespace Sys2Proof.Machine

open Sys2Proof

/-! ### Row images and headers -/

/-- A row header (R45). -/
structure RowHdr where
  scale : Nat          -- FP32 code
  zeroPoint : Nat      -- byte
  flags : Nat          -- byte: [0] ZERO_ROW, [1] FROZEN (R46)
  version : Nat        -- 16 bits
  rowSum : Nat         -- INT32 code
  optAcc : Nat         -- FP32 code
  deriving DecidableEq, Repr, Inhabited

/-- The header in the first 16 bytes of a row (R45). -/
def RowHdr.ofBytes (b : Bytes) : RowHdr :=
  { scale := leAt b 0 4, zeroPoint := leAt b 4 1, flags := leAt b 5 1, version := leAt b 6 2,
    rowSum := leAt b 8 4, optAcc := leAt b 12 4 }

/-- The 16 bytes of a header (R45). -/
def RowHdr.bytes (h : RowHdr) : Bytes :=
  leBytes 4 h.scale ++ leBytes 1 h.zeroPoint ++ leBytes 1 h.flags ++ leBytes 2 h.version ++
    leBytes 4 h.rowSum ++ leBytes 4 h.optAcc

/-- ZERO_ROW (R46). -/
def RowHdr.zeroRow (h : RowHdr) : Bool := bitOf h.flags 0

/-- FROZEN (R46). -/
def RowHdr.frozen (h : RowHdr) : Bool := bitOf h.flags 1

/-- A row as read: its format, element count, header (all zero when the table has none) and codes. -/
structure RowVal where
  fmt : Fmt
  hdr : RowHdr
  codes : List Nat
  deriving DecidableEq, Repr, Inhabited

/-- The row in an image: header when hdr = 1, then data (R44). -/
def RowVal.ofBytes (fmt : Fmt) (hdr : Bool) (elements : Nat) (img : Bytes) : RowVal :=
  { fmt := fmt
    hdr := if hdr then RowHdr.ofBytes img else default
    codes := fmt.codes (if hdr then img.drop 16 else img) elements }

/-! ### Dequantisation and weights -/

/-- The zero point of an INT8 or INT4 row as a signed number (R45, R115). -/
def RowHdr.zp (h : RowHdr) : Int := sext 8 h.zeroPoint

/-- The dequantised value of one code, rounded to the pooling format where R121 rounds, as a code of
the pooling format. -/
def dequantCode (pf : FFmt) (r : RowVal) (c : Nat) : Nat :=
  if r.hdr.zeroRow then 0
  else match r.fmt with
  | .int8 | .int4 =>
    let d := sext r.fmt.bits c - r.hdr.zp
    pf.encode .nearest ((FFmt.fp32.decode r.hdr.scale).mul (.fin (decide (d < 0)) d.natAbs 0))
  | f => pf.encode .nearest (f.value c)

/-- The row's vector in the pooling format (R121). -/
def dequant (pf : FFmt) (r : RowVal) : List Nat := r.codes.map (dequantCode pf r)

/-- The row's stored vector, to which ZERO_ROW makes no difference: what a scatter multiplies a gradient with (R47, R59). -/
def RowVal.stored (r : RowVal) : RowVal := { r with hdr := { r.hdr with flags := r.hdr.flags - r.hdr.flags % 2 } }

/-- The width of the window of a group sum (R126). -/
def windowOf (pf : FFmt) : Nat := if pf = FFmt.fp64 then 106 else 48

/-- The pooling format of a table's row format (R120). -/
def poolFmt (f : Fmt) : FFmt := if f = .fp64 then FFmt.fp64 else FFmt.fp32

/-- A weight: none is the weight 1.0 (R122). -/
structure Weight where
  fmt : Fmt
  code : Nat
  deriving DecidableEq, Repr, Inhabited

/-- The value of a weight (R122). -/
def weightValue : Option Weight → FV
  | none => .fin false 1 0
  | some w => w.fmt.value w.code

/-- One exact product w × v of a code of a row (R123), in the log domain when both are logarithmic
(R124). -/
def productCode (pf : FFmt) (w : Option Weight) (r : RowVal) (c : Nat) : FV :=
  let plain := (weightValue w).mul (pf.decode (dequantCode pf r c))
  match w, r.fmt, r.hdr.zeroRow with
  | some ⟨.lns16, wc⟩, .lns16, false => (lnsDecode 16 wc).mul (lnsDecode 16 c)
  | some ⟨.lns16, wc⟩, .lns8, false => (lnsDecode 16 wc).mul (lnsDecode 8 c)
  | _, _, _ => plain

/-- The products of a row with a weight, one per element. -/
def products (pf : FFmt) (w : Option Weight) (r : RowVal) : List FV := r.codes.map (productCode pf w r)

/-- Element-wise operation on two vectors. -/
def zipCodes (g : Nat → Nat → Nat) (a b : List Nat) : List Nat := (a.zip b).map fun p => g p.1 p.2

/-- The combined vector of a composed index (R58, R125). -/
def combineVec (pf : FFmt) (addOp : Bool) (q p : List Nat) : List Nat :=
  zipCodes (if addOp then pf.add else pf.mul) q p

/-! ### Group summation -/

/-- group_sum of R127: the contributions of one group to one element; w is the window width. -/
def groupSum (pf : FFmt) (w : Nat) (g : List FV) : Nat :=
  if g.any FV.isNan ∨ (g.contains (.inf false) ∧ g.contains (.inf true)) then pf.nanCode
  else if g.contains (.inf false) then pf.infCode false
  else if g.contains (.inf true) then pf.infCode true
  else
    let nz := g.filter fun x => !x.isZero
    if nz = [] then bitAt (g.all FV.sign) (pf.eb + pf.mb)
    else
      let lead := nz.filterMap fun x => match x with
        | .fin _ m e => some ((Nat.log2 m : Int) + e)
        | _ => none
      let e := lead.foldl max (lead.headD 0)
      let unit := e - w
      let acc : Int := nz.foldl (fun acc x => match x with
        | .fin n m ex =>
          let num := m * pow2Pos (ex - unit)
          let den := pow2Pos (unit - ex)
          let a := 2 * (num / den) + (if num % den = 0 then 0 else 1)
          if n then acc - (a : Int) else acc + (a : Int)
        | _ => acc) 0
      if acc = 0 then 0
      else pf.roundCode .nearest (decide (acc < 0)) acc.natAbs 1 (unit - 1)

/-- A pair (hi, lo) of R128, as codes. -/
structure Pair where
  hi : Nat
  lo : Nat
  deriving DecidableEq, Repr, Inhabited

/-- Is a code a finite value of the format? -/
def FFmt.isFin (f : FFmt) (c : Nat) : Bool :=
  match f.decode c with
  | .fin .. => true
  | _ => false

/-- pair_start of R128. -/
def pairStart (g : Nat) : Pair := ⟨g, 0⟩

/-- pair_add of R128; a sum beyond the largest finite value is an infinity of its sign. -/
def pairAdd (f : FFmt) (a : Pair) (g : Nat) : Pair :=
  let s := f.add a.hi g
  if !f.isFin a.hi || !f.isFin g || !f.isFin s then ⟨s, 0⟩
  else
    let bb := f.sub s a.hi
    let t := f.add (f.sub a.hi (f.sub s bb)) (f.sub g bb)
    let lo := f.add a.lo t
    let hi := f.add s lo
    if !f.isFin hi then ⟨hi, 0⟩ else ⟨hi, f.sub lo (f.sub hi s)⟩

/-- A list cut into groups of n, by fuel. -/
def groupsGo {α : Type} : Nat → Nat → List α → List (List α)
  | 0, _, _ => []
  | _, _, [] => []
  | f + 1, n, l => l.take n :: groupsGo f n (l.drop n)

/-- Groups of at most 32 consecutive contributions in the order of arrival (R126). -/
def groups32 {α : Type} (l : List α) : List (List α) := groupsGo l.length 32 l

/-- Groups combined in order by pair accumulation (R128). -/
def combineGroups (f : FFmt) (gs : List Nat) : Pair :=
  match gs with
  | [] => ⟨0, 0⟩
  | g :: r => r.foldl (pairAdd f) (pairStart g)

/-- The pair of an element from its contributions in arrival order. -/
def poolPair (pf : FFmt) (xs : List FV) : Pair :=
  combineGroups pf ((groups32 xs).map (groupSum pf (windowOf pf)))

/-- hi + lo of a pair, exactly (R128); a pair whose hi is a zero keeps hi's sign. -/
def pairValue (f : FFmt) (p : Pair) : FV :=
  match f.decode p.hi, f.decode p.lo with
  | .fin n 0 e, _ => .fin n 0 e
  | h, l => h.add l

/-- S ÷ n rounded once (R129). -/
def meanOf (pf : FFmt) (s : FV) (n : Nat) : Nat := pf.divV s (.fin false n 0)

/-- S ÷ √n rounded once (R129). -/
def sqrtnOf (pf : FFmt) (s : FV) (n : Nat) : Nat :=
  match s with
  | .nan => pf.nanCode
  | .inf b => pf.infCode b
  | .fin b m e => pf.divSqrt b m e n

/-! ### Pooling modes -/

/-- TK_CTL.POOL and DB_CTL.POOL (R89). -/
inductive PoolMode where
  | sum | mean | wsum | max | sqrtn | concat
  deriving DecidableEq, Repr, Inhabited

/-- The encoding of R89; 6 to 15 are reserved. -/
def PoolMode.ofCode : Nat → Option PoolMode
  | 0 => some .sum | 1 => some .mean | 2 => some .wsum | 3 => some .max | 4 => some .sqrtn
  | 5 => some .concat | _ => none

/-- How an index of a table turns into rows (R54): one row, two rows that are added, or two rows that
are combined. -/
inductive IdxShape where
  | one
  | two
  | composed (addOp : Bool)
  deriving DecidableEq, Repr, Inhabited

/-- A row that has arrived for an index position: which of the index's rows it is (0 or 1; 2 when one
fetch serves both rows, R56), its weight, and its contents. -/
structure Arrival where
  pos : Nat
  which : Nat
  weight : Option Weight
  row : RowVal
  deriving DecidableEq, Repr, Inhabited

/-- The vectors of the rows of position p among the arrivals before k, for row w. -/
def arrivedRow (as : List Arrival) (p w : Nat) : Option Arrival :=
  as.find? fun a => a.pos == p && (a.which == w || a.which == 2)

/-- The combined vector of a composed position, once both rows have arrived (R58). -/
def composedVec (pf : FFmt) (addOp : Bool) (as : List Arrival) (p : Nat) : Option (List Nat) :=
  match arrivedRow as p 0, arrivedRow as p 1 with
  | some q, some r => some (combineVec pf addOp (dequant pf q.row) (dequant pf r.row))
  | _, _ => none

/-- The vector of a position for MAX and CONCAT and for IEEE mode (R125, R133): the row, the sum of
the two rows, or the combined vector. -/
def vectorOf (pf : FFmt) (sh : IdxShape) (as : List Arrival) (p : Nat) : Option (List Nat) :=
  match sh with
  | .one => (arrivedRow as p 0).map fun a => dequant pf a.row
  | .two => match arrivedRow as p 0, arrivedRow as p 1 with
    | some a, some b => some (zipCodes pf.add (dequant pf a.row) (dequant pf b.row))
    | _, _ => none
  | .composed op => composedVec pf op as p

/-- Does the arrival at the head complete its position, given the arrivals before it? -/
def completes (sh : IdxShape) (before : List Arrival) (a : Arrival) : Bool :=
  match sh with
  | .one => true
  | _ => a.which == 2 || (before.any fun b => b.pos == a.pos)

/-- The positions in the order in which their last row arrived. -/
def completedGo (sh : IdxShape) : List Arrival → List Arrival → List Nat
  | _, [] => []
  | before, a :: r =>
    if completes sh before a then a.pos :: completedGo sh (before ++ [a]) r
    else completedGo sh (before ++ [a]) r

/-- The completed positions of a bag in arrival order. -/
def completedPositions (sh : IdxShape) (as : List Arrival) : List Nat := completedGo sh [] as

/-- The contributions of one arrival, one vector of exact products per contribution (R125, R126). -/
def contributionsOf (pf : FFmt) (sh : IdxShape) (before : List Arrival) (a : Arrival) : List (List FV) :=
  match sh with
  | .one => [products pf a.weight a.row]
  | .two =>
    let p := products pf a.weight a.row
    if a.which == 2 then [p, p] else [p]
  | .composed op =>
    if completes sh before a then
      match composedVec pf op (before ++ [a]) a.pos with
      | some v => [v.map fun c => (weightValue a.weight).mul (pf.decode c)]
      | none => []
    else []

/-- All contributions of a bag in arrival order. -/
def contributionsGo (pf : FFmt) (sh : IdxShape) : List Arrival → List Arrival → List (List FV)
  | _, [] => []
  | before, a :: r => contributionsOf pf sh before a ++ contributionsGo pf sh (before ++ [a]) r

/-- Column j of a list of vectors. -/
def columnOf {α : Type} (d : α) (vs : List (List α)) (j : Nat) : List α := vs.map fun v => v.getD j d

/-- The largest of some values as R130 orders them: +0 above −0, not-a-number wins. -/
def maxCode (pf : FFmt) (xs : List Nat) : Nat :=
  if xs.any fun c => (pf.decode c).isNan then pf.nanCode
  else xs.foldl (fun m c =>
    let a := pf.decode m
    let b := pf.decode c
    if a.lt b || (a.eq b && a.sign && !b.sign) then c else m) (xs.headD 0)

/-- One element pooled in default mode from its contributions (R127 to R129); n is the count of
surviving indices. -/
def poolElem (pf : FFmt) (mode : PoolMode) (n : Nat) (xs : List FV) : Nat :=
  let p := poolPair pf xs
  match mode with
  | .mean => meanOf pf (pairValue pf p) n
  | .sqrtn => sqrtnOf pf (pairValue pf p) n
  | _ => p.hi

/-- One element pooled in IEEE mode from its products in arrival order (R133). -/
def poolElemIeee (pf : FFmt) (mode : PoolMode) (n : Nat) (xs : List Nat) : Nat :=
  let a := match xs with
    | [] => 0
    | x :: r => r.foldl pf.add x
  match mode with
  | .mean => pf.div a (pf.encode .nearest (.fin false n 0))
  | .sqrtn => pf.div a (pf.sqrt (pf.encode .nearest (.fin false n 0)))
  | _ => a

/-- What decides how a bag is pooled. -/
structure PoolSpec where
  pf : FFmt
  mode : PoolMode
  ieee : Bool
  shape : IdxShape
  elements : Nat
  concatN : Nat
  deriving DecidableEq, Repr, Inhabited

/-- The count of result elements (R90). -/
def PoolSpec.width (c : PoolSpec) : Nat := c.elements * (if c.mode = .concat then c.concatN else 1)

/-- The pooled vector of a bag (R89 to R92, R126 to R133): its surviving positions in stream order,
and the rows in the order in which they arrived. -/
def poolBag (c : PoolSpec) (survivors : List Nat) (as : List Arrival) : List Nat :=
  let n := survivors.length
  let cols := List.range c.elements
  if n = 0 then List.replicate c.width 0
  else match c.mode with
  | .concat =>
    let vs := (survivors.take c.concatN).map fun p => (vectorOf c.pf c.shape as p).getD []
    let flat := vs.flatMap fun v => cols.map fun j => v.getD j 0
    flat ++ List.replicate (c.width - flat.length) 0
  | .max =>
    let vs := survivors.map fun p => (vectorOf c.pf c.shape as p).getD []
    cols.map fun j => maxCode c.pf (columnOf 0 vs j)
  | m =>
    if c.ieee then
      let ps := (completedPositions c.shape as).map fun p =>
        let w := ((arrivedRow as p 0).map Arrival.weight).getD none
        let v := (vectorOf c.pf c.shape as p).getD []
        if m = .wsum then v.map fun x => c.pf.encode .nearest ((weightValue w).mul (c.pf.decode x)) else v
      cols.map fun j => poolElemIeee c.pf m n (columnOf 0 ps j)
    else
      let cs := contributionsGo c.pf c.shape [] as
      cols.map fun j => poolElem c.pf m n (columnOf (.fin false 0 0) cs j)

/-! ### Dot products of the scoring arrays -/

/-- dot of R157 over two lists of exact products: groups of 32 in element order, window 48. -/
def dotProducts (xs : List FV) : Nat :=
  (combineGroups .fp32 ((groups32 xs).map (groupSum .fp32 48))).hi

/-- D of R136: a and q are codes, za and z zero points, asum and rowSum the stored sums. -/
def dotInt (a q : List Int) (za z asum rowSum : Int) : Int :=
  ((a.zip q).foldl (fun t p => t + p.1 * p.2) 0) - za * rowSum - z * asum + (q.length : Int) * za * z

/-- s_a × s × D formed exactly and rounded once to FP32 (R136). -/
def scaledInt (sa s : Nat) (d : Int) : Nat :=
  FFmt.fp32.encode .nearest
    (((FFmt.fp32.decode sa).mul (FFmt.fp32.decode s)).mul (.fin (decide (d < 0)) d.natAbs 0))

end Sys2Proof.Machine
end

