-- ==== Sys2Proof/Machine/Requant.lean ====
section
/-! DEFINITION. The output requantiser and the statistics record (R138 to R147). -/

namespace Sys2Proof.Machine

open Sys2Proof

/-- OUT_FMT (R90): a format of R34, or NATIVE. -/
inductive OutFmt where
  | fmt (f : Fmt)
  | native
  deriving DecidableEq, Repr, Inhabited

/-- The encoding of OUT_FMT (R90); 0xA to 0xE are reserved. -/
def OutFmt.ofCode (c : Nat) : Option OutFmt :=
  if c = 0xF then some .native else (Fmt.ofCode c).map .fmt

/-- The code of OUT_FMT (R90). -/
def OutFmt.code : OutFmt → Nat
  | .fmt f => f.code
  | .native => 0xF

/-- The element format that a pooling format is written in. -/
def pfFmt (pf : FFmt) : Fmt := if pf = FFmt.fp64 then .fp64 else .fp32

/-- The element format of the result bytes. -/
def OutFmt.elem (o : OutFmt) (pf : FFmt) : Fmt :=
  match o with
  | .fmt f => f
  | .native => pfFmt pf

/-- The channel parameters of an integer output format (R140, R141). -/
structure ChParam where
  oscale : Nat      -- FP32 code
  ozero : Nat       -- FP32 code
  degenerate : Bool
  deriving DecidableEq, Repr, Inhabited

/-- The largest code of an integer output (R140). -/
def qMax (f : Fmt) : Nat := if f = .int4 then 7 else 127

/-- OSCALE and OZERO of a channel from its input range LO to HI, FP32 codes (R140, R141). -/
def chParam (f : Fmt) (lo hi : Nat) : ChParam :=
  let l := FFmt.fp32.decode lo
  let h := FFmt.fp32.decode hi
  let sc := FFmt.fp32.divV (h.add l.neg) (.fin false (2 * qMax f) 0)
  if h.eq l || (FFmt.fp32.decode sc).isZero then ⟨0x3F800000, lo, true⟩
  else ⟨sc, FFmt.fp32.divV (h.add l) (.fin false 2 0), false⟩

/-- An element written in an integer format (R140): the code as an integer, and whether it clips. -/
def requantInt (f : Fmt) (p : ChParam) (x : FV) : Int × Bool :=
  let q : Int := (qMax f : Nat)
  match x with
  | .nan => (0, false)
  | .inf n => (if n then -q else q, true)
  | .fin .. =>
    match x.add (FFmt.fp32.decode p.ozero).neg, FFmt.fp32.decode p.oscale with
    | .fin na ma ea, .fin _ mb eb =>
      let r := nearestInt na ma mb (ea - eb)
      if r > q then (q, true) else if r < -q then (-q, true) else (r, false)
    | _, _ => (0, false)

/-- An element written in a logarithmic format (R138): the code, and whether it clips. -/
def requantLns (width : Nat) (x : FV) : Nat × Bool :=
  let lb := width - 1
  let top : Int := (2 ^ (lb - 1) : Nat)
  let frac := if width = 16 then 1024 else 8
  let mk (neg : Bool) (l : Int) := bitAt neg lb + wrapInt lb l
  match x with
  | .nan => (mk true (-top), false)
  | .inf n => (mk n (top - 1), false)
  | .fin n m e =>
    if m = 0 then (mk false (-top), false)
    else
      let l := lnsRoundLog frac m e
      if l < -top + 1 then (mk false (-top), false)
      else if l > top - 2 then (mk n (top - 2), true)
      else (mk n l, false)

/-- An element written in a binary format by R138: the code, and whether it clips. -/
def requantFloat (f : FFmt) (x : FV) : Nat × Bool :=
  match x with
  | .nan => (f.nanCode, false)
  | .inf n => (f.infCode n, f.e4m3)
  | .fin n m e =>
    if m = 0 then (bitAt n (f.eb + f.mb), false)
    else
      let (rm, re) := f.roundPos .nearest n m 1 e false
      let (mm, me) := f.maxFin
      if dyLt mm me rm re then (f.encodeFin n mm me, true) else (f.encodeFin n rm re, false)

/-- FPK and R138 for one value: the code of a format, and whether it clips; integer formats take
their channel parameters (R140). -/
def requantCode (f : Fmt) (p : ChParam) (x : FV) : Nat × Bool :=
  match f with
  | .int8 => let (q, c) := requantInt .int8 p x; (wrapInt 8 q, c)
  | .int4 => let (q, c) := requantInt .int4 p x; (wrapInt 4 q, c)
  | .lns16 => requantLns 16 x
  | .lns8 => requantLns 8 x
  | f => match f.ffmt with
    | some ff => requantFloat ff x
    | none => (0, false)

/-- One pooled element written in OUT_FMT (R138): a code of the pooling format is unchanged in NATIVE
and in its own format. -/
def requant (o : OutFmt) (pf : FFmt) (p : ChParam) (c : Nat) : Nat × Bool :=
  match o with
  | .native => (c, false)
  | .fmt f => if f = pfFmt pf then (c, false) else requantCode f p (pf.decode c)

/-- A pooled vector requantised: the codes and the clip of each channel. -/
def requantVec (o : OutFmt) (pf : FFmt) (ps : List ChParam) (v : List Nat) : List (Nat × Bool) :=
  v.zipIdx.map fun (c, j) => requant o pf (ps.getD j default) c

/-- The result size of a bag: the data rounded up to a multiple of 16 bytes (R90). -/
def resultSize (o : OutFmt) (pf : FFmt) (n : Nat) : Nat := roundUp ((o.elem pf).dataBytes n) 16

/-- The bytes of a bag's result, padding zero (R90). -/
def resultBytes (o : OutFmt) (pf : FFmt) (codes : List Nat) : Bytes :=
  padTo 16 ((o.elem pf).pack codes)

/-- A pooled vector holds an infinity or a not-a-number (R143). -/
def nonFinite (pf : FFmt) (v : List Nat) : Bool := v.any fun c => !pf.isFin c

/-! ### Statistics -/

/-- The running statistics of one channel (R145, R146): FP32 codes for the bounds. -/
structure ChStat where
  maxabs : Nat
  minv : Nat
  maxv : Nat
  clips : Nat
  deriving DecidableEq, Repr

/-- A channel that has counted no value (R146). -/
def ChStat.empty : ChStat := ⟨0, 0x7F800000, 0xFF800000, 0⟩

/-- Is a below b, with −0 below +0 (R146)? -/
def ltZ (a b : FV) : Bool := a.lt b || (a.eq b && a.sign && !b.sign)

/-- The magnitude of a value. -/
def FV.abs : FV → FV
  | .nan => .nan
  | .inf _ => .inf false
  | .fin _ m e => .fin false m e

/-- One pooled value counted in a channel (R146): bounds in FP32, rounded outward from FP64. -/
def ChStat.add (s : ChStat) (x : FV) (clip : Bool) : ChStat :=
  let s := { s with clips := if clip then satAdd 0x7FFFFFFF s.clips 1 else s.clips }
  match x with
  | .nan => s
  | _ =>
    let up := FFmt.fp32.encode .towardPos x
    let dn := FFmt.fp32.encode .towardNeg x
    let ab := FFmt.fp32.encode .towardPos x.abs
    let d := FFmt.fp32.decode
    { s with
      maxabs := if ltZ (d s.maxabs) (d ab) then ab else s.maxabs
      minv := if ltZ (d dn) (d s.minv) then dn else s.minv
      maxv := if ltZ (d s.maxv) (d up) then up else s.maxv }

/-- The statistics of a task (R144, R145). -/
structure Stats where
  bags : Nat
  nonFiniteBags : Nat
  clipped : Nat
  chans : List ChStat
  deriving DecidableEq, Repr, Inhabited

/-- A committed bag counted (R146). -/
def Stats.addBag (s : Stats) (pf : FFmt) (v : List Nat) (clips : List Bool) : Stats :=
  { bags := satAdd 0xFFFFFFFF s.bags 1
    nonFiniteBags := if nonFinite pf v then satAdd 0xFFFFFFFF s.nonFiniteBags 1 else s.nonFiniteBags
    clipped := satAdd 0xFFFFFFFFFFFFFFFF s.clipped (clips.countP id)
    chans := v.zipIdx.map fun (c, j) =>
      (s.chans.getD j ChStat.empty).add (pf.decode c) (clips.getD j false) }

/-- The bytes of a channel entry after LO and HI (R145): OSCALE, OZERO, MAXABS, MINV, MAXV, CLIPW. -/
def ChStat.tail (s : ChStat) (p : ChParam) (isInt : Bool) : Bytes :=
  (if isInt then leBytes 4 p.oscale ++ leBytes 4 p.ozero else zeros 8) ++
    leBytes 4 s.maxabs ++ leBytes 4 s.minv ++ leBytes 4 s.maxv ++
    leBytes 4 (s.clips + bitAt (isInt && p.degenerate) 31)

/-- The 64-byte header of the statistics record (R144). -/
def Stats.header (s : Stats) (o : OutFmt) (isInt : Bool) (channels : Nat) (ps : List ChParam) : Bytes :=
  let all := s.chans.foldl (fun m c =>
    if ltZ (FFmt.fp32.decode m) (FFmt.fp32.decode c.maxabs) then c.maxabs else m) 0
  fit 64 (leBytes 4 channels ++ leBytes 1 o.code ++ zeros 3 ++ leBytes 4 s.bags ++
    leBytes 4 (if isInt then ps.countP ChParam.degenerate else 0) ++ leBytes 8 s.clipped ++
    leBytes 4 s.nonFiniteBags ++ leBytes 4 all)

end Sys2Proof.Machine
end

