-- ==== Sys2Proof/Machine/Descr.lean ====
section
/-! DEFINITION. The descriptors of the spec as records: table (R32 to R42), task (R75 to R77, R151, R179),
mover (R248, R249) and class 0 doorbell (R94), each read from its little-endian bytes. -/

namespace Sys2Proof.Machine

open Sys2Proof

/-- A table descriptor (R32). -/
structure TableDesc where
  id : Nat
  fmtCode : Nat
  hdr : Bool
  hashMode : Nat
  hash2 : Bool
  composeAdd : Bool
  hint : Nat
  replicated : Bool
  sentinelEn : Bool
  atomic : Bool
  migrateEn : Bool
  elements : Nat
  rowCount : Nat        -- ROW_COUNT_M1 + 1
  stride : Nat          -- bytes
  base : Nat
  stackMask : Nat
  splitLog2 : Nat
  placeMode : Nat
  replM1 : Nat
  replNode : Nat
  seed0 : Nat
  seed1 : Nat
  divisor : Nat
  compQ : Nat
  compR : Nat
  sentinel : Nat
  spare : Bool          -- a reserved bit of the descriptor is not zero
  deriving DecidableEq, Repr, Inhabited

/-- Word i of a run of 64-bit words. -/
def wordAt (b : Bytes) (i : Nat) : Nat := leAt b (8 * i) 8

/-- A table descriptor from its 64 bytes (R33 to R42). A table goes by its TABLE_ID, wherever it stands in its section
(DESIGN CHOICE, log entry 71). -/
def TableDesc.ofBytes (b : Bytes) : TableDesc :=
  let c := wordAt b 0
  let r := wordAt b 1
  let p := wordAt b 3
  let m := wordAt b 6
  { id := fld c 11 0, fmtCode := fld c 15 12, hdr := bitOf c 16, hashMode := fld c 18 17
    hash2 := bitOf c 19, composeAdd := bitOf c 20, hint := fld c 22 21, replicated := bitOf c 23
    sentinelEn := bitOf c 24, atomic := bitOf c 25, migrateEn := bitOf c 26, elements := fld c 45 32
    rowCount := fld r 39 0 + 1, stride := 16 * fld r 52 40, base := fld (wordAt b 2) 51 0
    stackMask := fld p 23 0, splitLog2 := fld p 29 24, placeMode := fld p 31 30, replM1 := fld p 35 32
    replNode := fld p 47 36, seed0 := wordAt b 4, seed1 := wordAt b 5, divisor := fld m 39 0
    compQ := fld m 51 40, compR := fld m 63 52, sentinel := wordAt b 7
    spare := fld c 31 27 + fld c 63 46 + fld r 63 53 + fld (wordAt b 2) 63 52 + fld p 63 48 != 0 }

/-- The row format of a table (R34). -/
def TableDesc.fmt (t : TableDesc) : Fmt := (Fmt.ofCode t.fmtCode).getD .fp32

/-- Bytes of row data (R44). -/
def TableDesc.dataBytes (t : TableDesc) : Nat := t.fmt.dataBytes t.elements

/-- Bytes of a row with its header (R44). -/
def TableDesc.rowBytes (t : TableDesc) : Nat := (if t.hdr then 16 else 0) + t.dataBytes

/-- Larder blocks of 256 bytes that a row's data takes (07, R222). -/
def TableDesc.blocks (t : TableDesc) : Nat := ceilDiv t.dataBytes 256

/-- A row of the table from its bytes. -/
def TableDesc.row (t : TableDesc) (img : Bytes) : RowVal := RowVal.ofBytes t.fmt t.hdr t.elements img

/-- The task kinds (R69). -/
inductive Kind where
  | gather | scatter | score | fence | porter
  deriving DecidableEq, Repr, Inhabited

/-- The encoding of R69; 5 to 15 are reserved. -/
def Kind.ofCode : Nat → Option Kind
  | 0 => some .gather | 1 => some .scatter | 2 => some .score | 3 => some .fence | 4 => some .porter
  | _ => none

/-- A task descriptor (R75). -/
structure TaskDesc where
  kindCode : Nat
  cls : Nat
  prep : Bool
  fence : Bool
  idx64 : Bool
  bagMode : Nat
  sideEn : Bool
  poolCode : Nat
  table : Nat
  outCode : Nat
  wfmtCode : Nat
  ieee : Bool
  statsEn : Bool
  drain : Bool
  indexCount : Nat
  bagLen : Nat
  bagCount : Nat
  concatN : Nat
  progId : Nat
  index : Nat
  offsets : Nat
  weights : Nat
  result : Nat
  rstride : Nat
  side : Nat
  stats : Nat
  upd0 : Nat
  upd1 : Nat
  param0 : Nat
  param1 : Nat
  tag : Nat
  deriving DecidableEq, Repr, Inhabited

/-- A task descriptor from its 128 bytes (R76, R77). -/
def TaskDesc.ofBytes (b : Bytes) : TaskDesc :=
  let c := wordAt b 0
  let n := wordAt b 1
  let g := wordAt b 2
  { kindCode := fld c 3 0, cls := fld c 5 4, prep := bitOf c 6, fence := bitOf c 7, idx64 := bitOf c 8
    bagMode := fld c 10 9, sideEn := bitOf c 11, poolCode := fld c 15 12, table := fld c 27 16
    outCode := fld c 31 28, wfmtCode := fld c 33 32, ieee := bitOf c 34, statsEn := bitOf c 35
    drain := bitOf c 36, indexCount := fld n 31 0, bagLen := fld n 55 32, bagCount := fld g 31 0
    concatN := fld g 37 32 + 1, progId := fld g 47 40, index := fld (wordAt b 3) 51 0
    offsets := fld (wordAt b 4) 51 0, weights := fld (wordAt b 5) 51 0, result := fld (wordAt b 6) 51 0
    rstride := fld (wordAt b 7) 31 0, side := fld (wordAt b 8) 51 0, stats := fld (wordAt b 9) 51 0
    upd0 := wordAt b 10, upd1 := wordAt b 11, param0 := wordAt b 12, param1 := wordAt b 13
    tag := wordAt b 14 }

/-- The kind of a task (R69). -/
def TaskDesc.kind (d : TaskDesc) : Option Kind := Kind.ofCode d.kindCode

/-- The pooling mode (R89); a reserved value is read as SUM, and is malformed. -/
def TaskDesc.pool (d : TaskDesc) : PoolMode := (PoolMode.ofCode d.poolCode).getD .sum

/-- OUT_FMT (R90). -/
def TaskDesc.out (d : TaskDesc) : OutFmt := (OutFmt.ofCode d.outCode).getD .native

/-- OUT_FMT is INT8 or INT4. -/
def TaskDesc.outInt (d : TaskDesc) : Bool := d.outCode == 6 || d.outCode == 7

/-- Bytes of one index (R80). -/
def TaskDesc.idxBytes (d : TaskDesc) : Nat := if d.idx64 then 8 else 4

/-- The weight format (R76). -/
def TaskDesc.wfmt (d : TaskDesc) : Fmt := wfmtOf d.wfmtCode

/-- A word has a bit outside a mask. -/
def outside (w mask : Nat) : Bool := w &&& mask != w

/-- Fields of a task with an index stream that its modes do not use are not zero (R6, R79, R81, R83). What a preparation
program or a stream program makes of the words, the rules leave to the program. -/
def TaskDesc.unusedModes (d : TaskDesc) : Bool :=
  (d.bagMode == 0 && (d.bagCount != 0 || d.offsets != 0)) || (d.bagMode != 0 && d.bagLen != 0) ||
    (d.bagMode != 3 && (d.progId != 0 || (!d.prep && (d.param0 != 0 || d.param1 != 0))))

/-- A reserved field of a task descriptor is not zero (R6, R75 to R79, R151, R152, R178, R179, R348). -/
def reservedTask (b : Bytes) : Bool :=
  let d := TaskDesc.ofBytes b
  let w (i : Nat) : Nat := wordAt b i
  let none_ (is : List Nat) : Bool := is.any fun i => w i != 0
  let wsum := d.poolCode == 2
  outside (w 0) (bitsMask 36 0) || outside (w 1) (bitsMask 55 0) || outside (w 2) (bitsMask 37 0 + bitsMask 47 40) ||
    ([3, 4, 5, 6, 8, 9].any fun i => outside (w i) (bitsMask 51 0)) || outside (w 7) (bitsMask 31 0) || w 15 != 0 ||
    match d.kind with
    | some .gather =>
      none_ [10, 11] || d.unusedModes || (!d.sideEn && d.side != 0) || (!d.statsEn && d.stats != 0) ||
        (d.poolCode != 5 && d.concatN != 1) || (!wsum && (d.wfmtCode != 0 || (d.bagMode != 3 && d.weights != 0)))
    | some .scatter =>
      let bag := bitOf (w 10) 2
      d.unusedModes || outside (w 0) (bitsMask 10 0 + bitsMask 27 12 + bitsMask 33 32 + bitsMask 36 36) || none_ [8, 9] ||
        (!bag && d.poolCode != 0) || (!(bag && d.poolCode == 5) && d.concatN != 1) ||
        (!(bag && wsum) && (d.wfmtCode != 0 || (d.bagMode != 3 && d.weights != 0))) ||
        outside (w 10) (bitsMask 2 0 + bitsMask 7 4 + (if w 10 % 4 = 0 then 0 else bitsMask 63 32)) ||
        outside (w 11) (if w 10 % 4 = 2 then bitsMask 31 0 else 0)
    | some .score =>
      let mode := w 10 % 4
      (!d.sideEn && d.side != 0) || d.poolCode != 0 || d.wfmtCode != 0 || d.ieee || d.concatN != 1 ||
        outside (w 10) (bitsMask 1 0 + bitsMask 7 4 + match mode with
          | 0 => bitsMask 17 8
          | 1 => bitsMask 2 2 + bitsMask 23 18 + bitsMask 44 32
          | _ => bitsMask 31 24 + bitsMask 44 32) ||
        outside (w 11) (match mode with
          | 1 => bitsMask 47 0
          | 3 => 0
          | _ => bitsMask 31 0) ||
        match mode with
        | 0 => d.unusedModes || d.statsEn || d.stats != 0
        | 3 => outside (w 0) (bitsMask 5 0 + bitsMask 7 7 + bitsMask 36 36) || none_ [1, 2, 3, 4, 6, 7, 8, 9, 12, 13]
        | _ => outside (w 0) (bitsMask 5 0 + bitsMask 7 7 + bitsMask 11 11 + bitsMask 31 28 + bitsMask 36 35) ||
            none_ [1, 4, 5, 12, 13] || d.progId != 0 || (!d.statsEn && d.stats != 0)
    | some .fence => outside (w 0) (bitsMask 5 0 + bitsMask 7 7 + bitsMask 36 36) || none_ (List.range' 1 13)
    | some .porter =>
      outside (w 0) (bitsMask 5 0 + bitsMask 7 7 + bitsMask 36 36) || none_ (List.range' 1 11) ||
        outside (w 12) (bitsMask 19 0)
    | none => false

/-- TK_SC0 and TK_SC1 of a SCORE task (R151). -/
structure ScoreParam where
  mode : Nat
  self : Bool
  qfmt : Nat
  k : Nat
  f : Nat
  set : Nat
  elem : Nat
  vstride : Nat
  fstride : Nat
  deriving DecidableEq, Repr, Inhabited

/-- The score fields of a descriptor (R151). -/
def TaskDesc.score (d : TaskDesc) : ScoreParam :=
  { mode := fld d.upd0 1 0, self := bitOf d.upd0 2, qfmt := fld d.upd0 7 4, k := fld d.upd0 17 8 + 1
    f := fld d.upd0 23 18 + 1, set := fld d.upd0 31 24, elem := fld d.upd0 44 32
    vstride := fld d.upd1 31 0, fstride := 16 * fld d.upd1 47 32 }

/-- TK_UPD0 and TK_UPD1 of a SCATTER task (R179). -/
structure UpdParam where
  op : Nat              -- 0 ADD, 1 SCALED_ADD, 2 ROWWISE
  perBag : Bool
  gfmt : Nat
  alpha : Nat
  eps : Nat
  deriving DecidableEq, Repr, Inhabited

/-- The update fields of a descriptor (R179). -/
def TaskDesc.upd (d : TaskDesc) : UpdParam :=
  { op := fld d.upd0 1 0, perBag := bitOf d.upd0 2, gfmt := fld d.upd0 7 4, alpha := fld d.upd0 63 32
    eps := fld d.upd1 31 0 }

/-- A mover descriptor (R248, R249). -/
structure MoverDesc where
  op : Nat              -- 0 COPY, 1 FILL, 2 NOP
  swap : Nat
  barrier : Bool
  irq : Bool
  last : Bool
  esize : Nat           -- log2 of the element size
  tag : Nat
  src : Nat             -- all 64 bits; the pattern of a FILL
  dst : Nat
  next : Nat
  c0 : Nat              -- trip counts, M1 + 1
  c1 : Nat
  c2 : Nat
  s0 : Int
  s1 : Int
  s2 : Int
  d0 : Int
  d1 : Int
  d2 : Int
  deriving DecidableEq, Repr, Inhabited

/-- A mover descriptor from its 64 bytes (R248). -/
def MoverDesc.ofBytes (b : Bytes) : MoverDesc :=
  let c := wordAt b 0
  let n := wordAt b 4
  let step (o : Nat) : Int := sext 32 (leAt b o 4)
  { op := fld c 3 0, swap := fld c 6 4, barrier := bitOf c 7, irq := bitOf c 8, last := bitOf c 9
    esize := fld c 12 10, tag := fld c 63 32
    src := if fld c 3 0 = 1 then wordAt b 1 else fld (wordAt b 1) 51 0
    dst := fld (wordAt b 2) 51 0, next := fld (wordAt b 3) 51 0
    c0 := fld n 23 0 + 1, c1 := fld n 39 24 + 1, c2 := fld n 55 40 + 1
    s0 := step 40, s1 := step 44, s2 := step 48, d0 := step 52, d1 := step 56, d2 := step 60 }

/-- A reserved field of a mover descriptor is not zero (R6, R248, R249). -/
def reservedMover (b : Bytes) : Bool :=
  let w (i : Nat) : Nat := wordAt b i
  outside (w 0) (bitsMask 12 0 + bitsMask 63 32) || (w 0 % 16 != 1 && outside (w 1) (bitsMask 51 0)) ||
    outside (w 2) (bitsMask 51 0) || outside (w 3) (bitsMask 51 0) || outside (w 4) (bitsMask 55 0)

/-- A malformed mover descriptor (R252). -/
def MoverDesc.malformed (d : MoverDesc) : Bool :=
  let unit := match d.swap with
    | 1 => 2 | 2 => 4 | 3 => 8 | 4 => 4 | _ => 1
  d.op > 2 || d.swap > 4 || d.esize > 6 || unit > 2 ^ d.esize ||
    (d.op == 1 && (d.esize < 3 || d.swap != 0)) || (!d.last && d.next % 64 != 0)

/-- A class 0 doorbell (R94): DB_CTL, DB_RESULT and the index area. -/
structure Doorbell where
  table : Nat
  poolCode : Nat
  idx64 : Bool
  ptr : Bool
  score : Bool
  fence : Bool
  count : Nat
  qslot : Nat
  k : Nat
  tag : Nat
  result : Nat
  outCode : Nat
  inline : List Nat
  indexPtr : Nat
  weightPtr : Nat
  indexCount : Nat
  deriving DecidableEq, Repr, Inhabited

/-- A doorbell from its 64 bytes (R94). -/
def Doorbell.ofBytes (b : Bytes) : Doorbell :=
  let c := wordAt b 0
  let r := wordAt b 1
  let w := if bitOf c 16 then 8 else 4
  { table := fld c 11 0, poolCode := fld c 15 12, idx64 := bitOf c 16, ptr := bitOf c 17
    score := bitOf c 18, fence := bitOf c 19, count := fld c 23 20, qslot := fld c 31 24
    k := fld c 41 32 + 1, tag := fld c 63 48, result := fld r 51 0, outCode := fld r 55 52
    inline := (List.range (fld c 23 20)).map fun i => leAt b (16 + w * i) w
    indexPtr := fld (wordAt b 2) 51 0, weightPtr := fld (wordAt b 3) 51 0
    indexCount := leAt b 32 3 }

/-- A reserved field of a class 0 doorbell is not zero (R6, R94, R95). -/
def reservedBell (score : Bool) (b : Bytes) : Bool :=
  let c := wordAt b 0
  let used := 16 + fld c 23 20 * (if bitOf c 16 then 8 else 4)
  outside c (bitsMask 11 0 + bitsMask 23 16 + bitsMask 63 48 +
      (if score then bitsMask 31 24 + bitsMask 41 32 else bitsMask 15 12)) ||
    outside (wordAt b 1) (bitsMask 55 0) ||
    if bitOf c 17 then
      outside (wordAt b 2) (bitsMask 51 0) || outside (wordAt b 3) (bitsMask 51 0) || leAt b 35 29 != 0
    else leAt b used (64 - used) != 0

end Sys2Proof.Machine
end

