-- ==== Sys2Proof/Machine/Tab.lean ====
section
/-! DEFINITION. Sparse tables by key, in one canonical form: keys strictly rising, no entry equal to
what an unlisted key reads as. Memory, registers and counters are such tables. -/

namespace Sys2Proof.Machine

/-- A table from numbers to values; a key that is not listed reads the table's default. -/
abbrev Tab (α : Type) := List (Nat × α)

/-- The value at key k; d is what an unlisted key reads as. -/
def Tab.get {α : Type} (d : α) : Tab α → Nat → α
  | [], _ => d
  | (k', v) :: t, k => if k = k' then v else Tab.get d t k

/-- The table without key k. -/
def Tab.erase {α : Type} (t : Tab α) (k : Nat) : Tab α := t.filter fun e => e.1 != k

/-- An entry put in its place among rising keys. -/
def Tab.insert {α : Type} : Tab α → Nat → α → Tab α
  | [], k, v => [(k, v)]
  | (k', v') :: t, k, v => if k < k' then (k, v) :: (k', v') :: t else (k', v') :: Tab.insert t k v

/-- A write: key k reads v afterwards, and every other key what it read before; writing the default removes the
entry, so that equal tables are equal data. -/
def Tab.set {α : Type} [DecidableEq α] (d : α) (t : Tab α) (k : Nat) (v : α) : Tab α :=
  if v = d then t.erase k else (t.erase k).insert k v

/-- The value at k changed by f. -/
def Tab.modify {α : Type} [DecidableEq α] (d : α) (t : Tab α) (k : Nat) (f : α → α) : Tab α :=
  t.set d k (f (t.get d k))

/-- Every listed key exceeds b. -/
def Tab.above {α : Type} (b : Nat) (t : Tab α) : Bool := t.all fun e => b < e.1

/-- The canonical form: keys strictly rising, no entry equal to the default. -/
def Tab.wf {α : Type} [DecidableEq α] (d : α) : Tab α → Bool
  | [] => true
  | (k, v) :: t => decide (v ≠ d) && Tab.above k t && Tab.wf d t

end Sys2Proof.Machine
end

