-- ==== Sys2Proof/Machine/Image.lean ====
section
/-! DEFINITION. The structures that a configuration image loads (R380 to R386, R452), read from the
image's bytes; an absent section loads the default of R380. -/

namespace Sys2Proof.Machine

open Sys2Proof

/-! ### Records -/

/-- A node of the Compartment tree (R382). -/
structure Node where
  parent : Nat
  engine : Option Nat      -- the engine position of a leaf; none for a Compartment
  routeFirst : Nat
  routeCount : Nat
  qdepth : List Nat        -- per class, 0 to 3
  deriving DecidableEq, Repr, Inhabited

/-- How a route entry sends work on (R383). -/
inductive RouteMode where
  | table | hash | steer
  deriving DecidableEq, Repr, Inhabited

/-- A route entry (R383). -/
structure Route where
  lo : Nat
  hi : Nat
  mode : RouteMode
  children : Nat           -- a mask of ordinals
  deriving DecidableEq, Repr, Inhabited

/-- A class 0 stream record (R384). -/
structure StreamRec where
  interval : Nat
  burst : Nat
  deriving DecidableEq, Repr, Inhabited

/-- The reservation table (R384). -/
structure Reserve where
  fetch : Nat
  reuse : Nat
  sel : Nat
  result : Nat
  streams : List StreamRec
  deriving DecidableEq, Repr, Inhabited

/-- What a doorbell page is assigned to (R385). -/
inductive PageUse where
  | none
  | ring (r : Nat)
  | class0 (stream : Nat) (domain : Nat)
  deriving DecidableEq, Repr, Inhabited

/-- A protection domain (R386, R241). -/
structure Domain where
  pasid : Nat
  larderR : Bool
  larderW : Bool
  rights : Tab Nat         -- granule 512 × stack + g to its 4-bit entry; default 0
  deriving DecidableEq, Repr, Inhabited

/-- The image fields of a mover channel (R381 type 0x08). -/
structure ChanCfg where
  domain : Nat
  porterOwned : Bool
  porter : Nat
  deriving DecidableEq, Repr, Inhabited

/-- A side of a semaphore pair (R381 type 0x0C). -/
structure SemSide where
  kind : Nat               -- 0 none, 1 engine position, 2 Porter, 3 array, 4 result queue
  id : Nat
  deriving DecidableEq, Repr, Inhabited

/-- The image fields of a semaphore pair; depth 0 is an unassigned pair. -/
structure SemCfg where
  depth : Nat
  prod : SemSide
  cons : SemSide
  deriving DecidableEq, Repr, Inhabited

/-- A column record of a projection set (R381 type 0x0E). -/
structure ProjCol where
  scale : Nat
  zeroPoint : Nat
  columnSum : Nat
  deriving DecidableEq, Repr, Inhabited

/-- A projection set (R166). -/
structure ProjSet where
  set : Nat
  first : Nat
  n : Nat
  fmtCode : Nat
  e : Nat
  p : Nat
  tiles : Bytes            -- tiles 0 to T − 1, each e × 64 elements
  cols : List ProjCol
  deriving DecidableEq, Repr, Inhabited

/-- A pinned placement (R381 type 0x0F). -/
structure Pin where
  pos : Nat
  table : Nat
  row : Nat
  deriving DecidableEq, Repr, Inhabited

/-- A locked page or a migrate-on-touch range (R381 type 0x10). -/
structure PageEntry where
  va : Nat
  space : Nat
  big : Bool
  units : Nat              -- length of a range in 256 MiB units
  pasid : Nat
  deriving DecidableEq, Repr, Inhabited

/-- The TRANSLATION section. -/
structure TransCfg where
  promoThreshold : Nat
  frames16G : Nat
  frames256M : Nat
  poolBase : Nat
  locked : List PageEntry
  mot : List PageEntry
  deriving DecidableEq, Repr, Inhabited

/-- The AGENTS section. -/
structure AgentsCfg where
  present : Bool
  logs : List Nat
  sampleLog2 : Nat
  touchUs : Nat
  threshold : Nat
  deriving DecidableEq, Repr, Inhabited

/-- The OBSERVE section (R452). -/
structure ObserveCfg where
  sinkBase : Nat
  sinkLog2 : Nat
  flushUs : Nat
  snapSources : Nat
  snapBase : Nat
  mirrorBase : Nat
  mirrorLog2 : Nat
  unitEn : Nat             -- 128 bits
  eventMask : List Nat     -- per kind, 0 to 8
  deriving DecidableEq, Repr, Inhabited

/-- Everything an image loads at step 4 of an activation (R391). -/
structure Cfg where
  imageId : Nat
  tables : Tab (Option TableDesc)
  tree : List Node
  routes : List Route
  reserve : Reserve
  pages : Tab PageUse
  domains : List Domain
  rings : List Nat
  channels : List ChanCfg
  programs : List (List Nat)
  porterImage : Bytes
  prep : Tab (Option Nat)
  sems : Tab SemCfg
  feed : List Nat
  proj : List ProjSet
  placedUnits : Nat
  stagingUnits : Nat
  pins : List Pin
  trans : TransCfg
  agents : AgentsCfg
  thermal : List Nat       -- entry points of levels 1 to 3, °C
  scrub : List (Nat × Nat) -- base and length in bytes
  observe : ObserveCfg
  deriving DecidableEq, Repr, Inhabited

/-! ### Defaults (R380) -/

/-- The default feed of R163: positions 6a to 6a + 5 feed SA(a). -/
def defaultFeed : List Nat := (List.range 48).map (· / 6)

/-- The defaults of an absent AGENTS section. -/
def defaultAgents : AgentsCfg :=
  { present := false, logs := [], sampleLog2 := 10, touchUs := 1000, threshold := 0xFFFF }

/-- The structures with no image: nothing is defined, and every default of R380 holds. -/
def Cfg.empty : Cfg :=
  { imageId := 0, tables := [], tree := [], routes := [], reserve := default, pages := [], domains := []
    rings := [], channels := [], programs := [], porterImage := [], prep := [], sems := []
    feed := defaultFeed, proj := [], placedUnits := 0, stagingUnits := 0, pins := [], trans := default
    agents := defaultAgents, thermal := [95, 100, 105], scrub := [], observe := default }

/-! ### Reading sections -/

/-- Record i of n bytes. -/
def recAt (b : Bytes) (n i : Nat) : Bytes := slice b (n * i) n

/-- A table whose entries differ from the default, from a list of values. -/
def tabOf {α : Type} [DecidableEq α] (d : α) (vs : List α) : Tab α :=
  (vs.zipIdx.filter fun p => p.1 ≠ d).map fun p => (p.2, p.1)

/-- A node record (R382). -/
def Node.ofBytes (b : Bytes) : Node :=
  { parent := leAt b 0 2, engine := if leAt b 2 1 = 1 then some (leAt b 3 1) else none
    routeFirst := leAt b 4 2, routeCount := leAt b 6 2
    qdepth := (List.range 4).map fun c => leAt b (8 + 2 * c) 2 }

/-- A route entry (R383). -/
def Route.ofBytes (b : Bytes) : Route :=
  let w := wordAt b 0
  { lo := fld w 11 0, hi := fld w 23 12
    mode := match fld w 25 24 with | 0 => .table | 1 => .hash | _ => .steer
    children := fld w 47 32 }

/-- A doorbell page entry (R385). -/
def PageUse.ofNat (w : Nat) : PageUse :=
  match fld w 1 0 with
  | 1 => .ring (fld w 7 2)
  | 2 => .class0 (fld w 7 2) (fld w 11 8)
  | _ => .none

/-- A domain record (R386). -/
def Domain.ofBytes (b : Bytes) : Domain :=
  { pasid := fld (leAt b 0 4) 19 0, larderR := bitOf (leAt b 4 1) 0, larderW := bitOf (leAt b 4 1) 1
    rights := tabOf 0 ((b.drop 64).flatMap fun x => [x.toNat % 16, x.toNat / 16]) }

/-- A channel record (R381). -/
def ChanCfg.ofNat (w : Nat) : ChanCfg :=
  { domain := fld w 3 0, porterOwned := fld w 5 4 == 1, porter := fld w 11 8 }

/-- A semaphore record (R381). -/
def SemCfg.ofNat (w : Nat) : SemCfg :=
  let p : SemSide := ⟨fld w 18 16, fld w 29 24⟩
  let c : SemSide := ⟨fld w 34 32, fld w 45 40⟩
  { depth := if p.kind = 0 ∧ c.kind = 0 then 0 else fld w 11 0 + 1, prod := p, cons := c }

/-- A column record (R381). -/
def ProjCol.ofBytes (b : Bytes) : ProjCol :=
  { scale := leAt b 0 4, zeroPoint := leAt b 4 1, columnSum := leAt b 8 4 }

/-- The number of column tiles of a set (R166). -/
def ProjSet.tileCount (s : ProjSet) : Nat := ceilDiv s.p 64

/-- The weight format of a set. -/
def ProjSet.fmt (s : ProjSet) : Fmt := (Fmt.ofCode s.fmtCode).getD .bf16

/-- Bytes of one tile (R166). -/
def ProjSet.tileBytes (s : ProjSet) : Nat := s.fmt.dataBytes (s.e * 64)

/-- A projection set from its record and the section (R381). -/
def ProjSet.ofBytes (sec b : Bytes) : ProjSet :=
  let s : ProjSet :=
    { set := leAt b 0 1, first := leAt b 1 1, n := leAt b 2 1, fmtCode := leAt b 3 1
      e := leAt b 4 2, p := leAt b 6 2, tiles := [], cols := [] }
  { s with
    tiles := slice sec (leAt b 8 4) (s.tileCount * s.tileBytes)
    cols := (List.range s.p).map fun c => ProjCol.ofBytes (slice sec (leAt b 12 4 + 12 * c) 12) }

/-- A pinned entry (R381). -/
def Pin.ofBytes (b : Bytes) : Pin :=
  { pos := leAt b 0 1, table := leAt b 2 2, row := fld (wordAt b 1) 39 0 }

/-- A locked entry or a migrate-on-touch range (R381). -/
def PageEntry.ofBytes (b : Bytes) : PageEntry :=
  let w := leAt b 0 16
  { va := fld w 51 0 % 2 ^ 48, space := fld w 55 52, big := bitOf w 56, units := fld w 95 64
    pasid := fld w 115 96 }

/-- The TRANSLATION section (R381). -/
def TransCfg.ofBytes (b : Bytes) : TransCfg :=
  let nl := leAt b 6 1
  let nm := leAt b 7 1
  let body := b.drop 16
  { promoThreshold := leAt b 0 2, frames16G := leAt b 2 2, frames256M := leAt b 4 2
    poolBase := wordAt b 1
    locked := (List.range nl).map fun i => PageEntry.ofBytes (recAt body 16 i)
    mot := (List.range nm).map fun i => PageEntry.ofBytes (recAt body 16 (nl + i)) }

/-- The AGENTS section (R381). -/
def AgentsCfg.ofBytes (b : Bytes) : AgentsCfg :=
  { present := true, logs := (List.range 16).map (wordAt b), sampleLog2 := leAt b 128 1
    touchUs := leAt b 132 4, threshold := leAt b 136 2 }

/-- The OBSERVE section (R452). -/
def ObserveCfg.ofBytes (b : Bytes) : ObserveCfg :=
  { sinkBase := fld (wordAt b 0) 51 0, sinkLog2 := leAt b 8 1, flushUs := leAt b 9 1
    snapSources := leAt b 10 2, snapBase := fld (wordAt b 2) 51 0, mirrorBase := fld (wordAt b 3) 51 0
    mirrorLog2 := leAt b 32 1, unitEn := leAt b 48 16
    eventMask := (List.range 9).map fun k => wordAt b (8 + k) }

/-- A section of an image (R380). -/
structure Section where
  bytes : Bytes
  count : Nat
  deriving DecidableEq, Repr, Inhabited

/-- The section of a type, when the image has it (R380). -/
def sectionOf (img : Bytes) (ty : Nat) : Option Section :=
  ((List.range (leAt img 20 2)).find? fun i => leAt img (256 + 16 * i) 2 == ty).map fun i =>
    let e := slice img (256 + 16 * i) 16
    ⟨slice img (leAt e 4 4) (leAt e 8 4), leAt e 12 4⟩

/-- The records of a section. -/
def Section.recs {α : Type} (s : Section) (n : Nat) (f : Bytes → α) : List α :=
  (List.range s.count).map fun i => f (recAt s.bytes n i)

/-- Words of n bytes in a section. -/
def wordsOf (b : Bytes) (n k : Nat) : List Nat := (List.range k).map fun i => leAt b (n * i) n

/-- The structures that an image defines (R381). -/
def Cfg.ofImage (img : Bytes) : Cfg :=
  let sec := sectionOf img
  let d := Cfg.empty
  let opt {α : Type} (ty : Nat) (dflt : α) (f : Section → α) : α := ((sec ty).map f).getD dflt
  { imageId := wordAt img 3
    tables := opt 0x01 d.tables fun s => tabOf none (s.recs 64 fun b =>
      if b.all (· == 0#8) then none else some (TableDesc.ofBytes b))
    tree := opt 0x02 [] fun s => s.recs 16 Node.ofBytes
    routes := opt 0x03 [] fun s => s.recs 8 Route.ofBytes
    reserve := opt 0x04 default fun s =>
      { fetch := leAt s.bytes 0 2, reuse := leAt s.bytes 2 1, sel := leAt s.bytes 3 1
        result := leAt s.bytes 4 2
        streams := (List.range (leAt s.bytes 6 1)).map fun i =>
          let b := slice s.bytes (64 + 16 * i) 16
          ⟨leAt b 0 2, leAt b 2 2⟩ }
    pages := opt 0x05 [] fun s => tabOf PageUse.none ((wordsOf s.bytes 2 2048).map PageUse.ofNat)
    domains := opt 0x06 [] fun s => (List.range 16).map fun i => Domain.ofBytes (recAt s.bytes 6208 i)
    rings := opt 0x07 [] fun s => (wordsOf s.bytes 1 64).map (· % 16)
    channels := opt 0x08 [] fun s => (wordsOf s.bytes 4 28).map ChanCfg.ofNat
    programs := opt 0x09 [] fun s => s.recs 64 fun b => wordsOf b 4 16
    porterImage := opt 0x0A [] fun s => s.bytes
    prep := opt 0x0B [] fun s => tabOf none ((wordsOf s.bytes 2 4096).map fun w =>
      if bitOf w 15 then some (fld w 7 0) else none)
    sems := opt 0x0C [] fun s => tabOf default ((wordsOf s.bytes 8 1024).map SemCfg.ofNat)
    feed := opt 0x0D defaultFeed fun s => (wordsOf s.bytes 1 48).map (· % 8)
    proj := opt 0x0E [] fun s => s.recs 32 (ProjSet.ofBytes s.bytes)
    placedUnits := opt 0x0F 0 fun s => leAt s.bytes 0 1
    stagingUnits := opt 0x0F 0 fun s => leAt s.bytes 1 1
    pins := opt 0x0F [] fun s =>
      (List.range s.count).map fun i => Pin.ofBytes (slice s.bytes (16 + 16 * i) 16)
    trans := opt 0x10 default fun s => TransCfg.ofBytes s.bytes
    agents := opt 0x11 defaultAgents fun s => AgentsCfg.ofBytes s.bytes
    thermal := opt 0x12 d.thermal fun s => wordsOf s.bytes 1 3
    scrub := opt 0x13 [] fun s => s.recs 16 fun b =>
      (fld (leAt b 0 16) 51 0, 4096 * fld (leAt b 0 16) 95 64)
    observe := opt 0x14 default fun s => ObserveCfg.ofBytes s.bytes }

/-! ### Looking things up -/

/-- The descriptor of table t, when the table exists (R31). -/
def Cfg.table (c : Cfg) (t : Nat) : Option TableDesc := c.tables.get none t

/-- Domain d; a domain of no image holds no right. -/
def Cfg.domain (c : Cfg) (d : Nat) : Domain := c.domains.getD d default

/-- The domain of ring r; domain 0 without a RINGS section (R380). -/
def Cfg.ringDomain (c : Cfg) (r : Nat) : Nat := c.rings.getD r 0

/-- The image fields of channel ch; software and domain 0 without a CHANNELS section (R380). -/
def Cfg.chan (c : Cfg) (ch : Nat) : ChanCfg := c.channels.getD ch default

/-- The assignment of doorbell page p (R385). -/
def Cfg.page (c : Cfg) (p : Nat) : PageUse := c.pages.get .none p

/-- The children of a node, in ordinal order (R382). -/
def Cfg.children (c : Cfg) (n : Nat) : List Nat :=
  (c.tree.zipIdx.filter fun p => p.1.parent == n && p.2 != 0).map (·.2)

/-- The nodes below a node, by fuel; the node itself included. -/
def Cfg.subtree (c : Cfg) : Nat → Nat → List Nat
  | 0, n => [n]
  | f + 1, n => n :: (c.children n).flatMap (c.subtree f)

/-- The engine positions at or below a node. -/
def Cfg.positionsBelow (c : Cfg) (n : Nat) : List Nat :=
  (c.subtree c.tree.length n).filterMap fun k => (c.tree.getD k default).engine

/-- Node numbers of the Compartments in increasing order. -/
def Cfg.compartments (c : Cfg) : List Nat :=
  (c.tree.zipIdx.filter fun p => p.1.engine.isNone).map (·.2)

/-- The entry point of a Porter program; an unused entry is 0xFFFF_FFFF, and every entry is unused
without a PORTER section (R380, R381). -/
def Cfg.entry (c : Cfg) (e : Nat) : Nat :=
  if c.porterImage = [] then 0xFFFFFFFF else leAt c.porterImage (4 * e) 4

/-- The agent that a commit log belongs to has a log address when the section is present. -/
def Cfg.logAddr (c : Cfg) (n : Nat) : Option Nat := c.agents.logs[n]?

end Sys2Proof.Machine
end

