-- ==== Sys2Proof/Machine/Parts.lean ====
section
/-! DEFINITION. The parts of the block as plain records: works, engines, arrays, scatter slots, agents,
links, mover, translation, Porters, host and peer ports, Storekeeper and observation. -/

namespace Sys2Proof.Machine

open Sys2Proof

/-! ### Works: ring tasks, class 0 requests and operations that a Porter launched -/

/-- Where a piece of work comes from. -/
inductive WorkSrc where
  | ring (r slot : Nat)
  | class0 (page stream : Nat)
  | porter (parent m ticket : Nat) (link : Option Nat)
  deriving DecidableEq, Repr, Inhabited

/-- Why a task or request is parked (R416). -/
inductive ParkCause where
  | position (p : Nat)
  | porters (m : Nat)
  | array (a : Nat)
  | link (n : Nat)
  | contents (st : Nat)
  | row (addr : Nat)
  deriving DecidableEq, Repr, Inhabited

/-- How an index position resolved (R54): its rows in order, or a drop. -/
inductive Resolved where
  | rows (rs : List (Nat × Nat × Nat))   -- table, row number, device address
  | invalid
  | missing
  deriving DecidableEq, Repr, Inhabited

/-- The index has rows to fetch. -/
def Resolved.survives : Resolved → Bool
  | .rows _ => true
  | _ => false

/-- An index position that an engine has taken. -/
structure Taken where
  pos : Nat
  index : Nat
  engine : Nat
  res : Resolved
  grad : Option (List Nat)     -- the gradient of a composed product that waits for its rows (R184)
  deriving DecidableEq, Repr, Inhabited

/-- A candidate row on its way through an array (R160). -/
structure Cand where
  row : Nat
  pos : Nat                    -- the engine position that sent it
  arr : Nat
  val : RowVal
  score : Option Nat
  deriving DecidableEq, Repr, Inhabited

/-- The progress of one bag, or of one sample of an INTERACT or PROJECT task. -/
structure Bag where
  steer : List (Nat × Nat)     -- steering Compartment and the ordinal chosen (R66)
  taken : List Taken
  arrivals : List Arrival
  cands : List Cand
  len : Nat                    -- its indices, once an array has begun its list of the bag (R163); 0 before
  outs : Option (List Nat)     -- outputs of an array pass, FP32 codes
  rot : List (Nat × List Nat)  -- column tiles done by a projection batch
  inp : Option RowVal          -- the input vector of a sample that a projection batch holds (R168)
  mcast : Tab Nat              -- by array, the query packets sent to it (R170)
  heard : Tab Bytes            -- by array, the query bytes that it has taken
  space : Bool                 -- SPACE of its link taken (R365)
  peak : Nat                   -- positions taken in the longest attempt: INDICES counts each once
  committed : Bool
  deriving DecidableEq, Repr, Inhabited

/-- The stream unit of a task (R84). -/
structure StreamU where
  pc : Nat
  a : List Nat                 -- A0 to A3
  loops : List (Nat × Nat × Nat) -- open levels, innermost first: level, count left, body start
  len : Nat
  prev : Nat
  start : Nat                  -- first position of the open bag
  canWgt : Bool                -- an IDX of the open bag awaits its WGT (R87)
  ended : Bool
  deriving DecidableEq, Repr, Inhabited

/-- A stream unit at task start (R84). -/
def StreamU.init : StreamU := ⟨0, [0, 0, 0, 0], [], 0, 0, 0, false, false⟩

/-- An index that a stream program emitted. -/
structure Emit where
  addr : Nat
  wgt : Option Nat             -- the address of its weight
  deriving DecidableEq, Repr, Inhabited

/-- A bag's range of positions. -/
structure Range where
  start : Nat
  len : Nat
  cut : Bool
  deriving DecidableEq, Repr, Inhabited

/-- A share of a task (R353); a task without PREP is one share that holds every bag. -/
structure Share where
  porter : Option Nat
  first : Nat
  count : Nat
  desc : TaskDesc
  placed : Bool                -- in a mailbox, or not needed
  released : Bool
  stream : StreamU
  emits : List Emit
  closed : List Range
  deriving DecidableEq, Repr, Inhabited

/-- A query vector with its format and element count (R153, R154). -/
structure QVec where
  fmtCode : Nat
  elements : Nat
  bytes : Bytes
  deriving DecidableEq, Repr, Inhabited

/-- The counts of a completion record (R102). -/
structure Tally where
  bags : Nat
  dropped : Nat
  empty : Nat
  indices : Nat
  cut : Bool
  deriving DecidableEq, Repr, Inhabited

/-- A piece of work. -/
structure Work where
  src : WorkSrc
  cls : Nat
  domain : Nat
  desc : TaskDesc
  raw : Bytes                  -- the 128 bytes of its descriptor, as a mailbox shows them (R360)
  doorbell : Option Doorbell
  unread : Bool                -- its descriptor was not read (R71)
  status : Nat                 -- R103
  ended : Bool                 -- ended early: nothing more of it runs
  shares : List Share
  bags : Tab Bag
  staged : List (Nat × Bytes)  -- buffer bytes that the readers hold
  query : Option QVec          -- the query slot version of a class 0 request, or a QLOAD vector
  tally : Tally
  answer : Option (Nat × Nat)  -- class 0: FLAGS and POOLED of the result that committed (R96)
  stats : Option Stats
  statsDone : Bool
  hostUnacked : Nat            -- initiator writes not acknowledged
  storeUnacked : Nat           -- Store Room writes not acknowledged
  unissued : Nat               -- writes queued and not issued
  flushed : Bool               -- the flushes of a FENCE task were issued
  flushes : Nat                -- flushes not acknowledged
  porters : Nat                -- Porters that have not halted, a mask
  mailbox : Nat                -- Porters whose mailbox still waits for it, a mask
  parked : List ParkCause      -- the causes that hold it (R416)
  epoch : Nat                  -- host epoch at acceptance
  dead : Bool                  -- no completion record is written (R293)
  recordLost : Bool            -- the page of its completion record is not mapped, or may not be written (R242)
  units : List Nat             -- tiles and arrays that have begun on the task (R445)
  deriving DecidableEq, Repr, Inhabited

/-- A piece of work is parked (R416). -/
def Work.isParked (k : Work) : Bool := k.parked != []

/-- Bytes that a host error has left open (R8): count runs of len bytes, stride apart. -/
structure Wild where
  base : Nat
  len : Nat
  stride : Nat
  count : Nat
  deriving DecidableEq, Repr, Inhabited

/-- Runs that are open, and the domain whose rights bound the error; none for the firmware's (R9). -/
structure OpenRun where
  run : Wild
  by_ : Option Domain
  deriving DecidableEq, Repr, Inhabited

/-! ### Rings -/

/-- A descriptor slot that the dispatcher fetches (R71). -/
inductive DescSt where
  | reading
  | bytes (b : Bytes)
  | unreadable
  deriving DecidableEq, Repr, Inhabited

/-- A submission ring (R277, R71 to R73). -/
structure Ring where
  prod : Nat
  cons : Nat
  cpl : Nat
  fetch : Nat
  phase : Option Bool          -- the most recent phased task was a write task (R73)
  fetched : List (Nat × DescSt)  -- slots fetched and not yet admitted, in slot order
  epochStop : Bool
  deriving DecidableEq, Repr, Inhabited

/-! ### Engines and Larder slices -/

/-- A busy fetch slot (R97). -/
structure FSlot where
  work : Nat
  bag : Nat
  pos : Nat
  which : Nat
  weight : Option Weight
  table : Nat
  row : Nat
  addr : Nat
  cls : Nat
  epoch : Nat                  -- placement epoch of its tag
  joined : Bool                -- waits on another slot's fetch of the row (R98)
  frame : Option Nat           -- the promotion frame that serves it
  data : Option Bytes
  err : Bool                   -- the response carried ERR (R334)
  dead : Bool                  -- its bag was rewound or its work ended; it frees at the return (R411)
  old : Bool                   -- a refresh of the row has passed its fetch: what returns is not cached (R204, R205)
  deriving DecidableEq, Repr, Inhabited

/-- A reuse buffer entry (R98); lists of entries run from the most recently used. -/
structure ReuseEnt where
  work : Nat
  addr : Nat
  data : Bytes
  cls : Nat
  size : Nat                   -- entries of 256 data bytes
  deriving DecidableEq, Repr, Inhabited

/-- A row cache entry (R217). -/
structure CacheEnt where
  addr : Nat
  pasid : Nat                  -- the PASID whose page a Cellar row was read from; 0 for a Store Room row
  data : Bytes
  last : Bool                  -- DISCARD_LAST
  owner : Nat
  deriving DecidableEq, Repr, Inhabited

/-- A placement directory entry (R216, R222). -/
structure Placed where
  addr : Nat
  table : Nat
  block : Nat
  valid : Bool
  pinned : Bool
  deriving DecidableEq, Repr, Inhabited

/-- A row in the merge cache (R186). -/
structure MergeRow where
  slot : Nat
  epoch : Nat
  addr : Nat
  table : Nat
  pairs : List Pair
  deriving DecidableEq, Repr, Inhabited

/-- An engine position with its Larder slice. -/
structure Engine where
  epoch : Nat                  -- placement epoch (R410)
  slots : Tab (Option FSlot)
  reuse : List ReuseEnt
  cache : List CacheEnt
  placed : List Placed
  merge : List MergeRow
  lost : Bool                  -- POSITION_LOST (R413)
  moving : Bool                -- between steps 4 and 6 of R409
  was : Option Nat             -- the tile that held a position before it was isolated (R410, R413)
  deriving DecidableEq, Repr, Inhabited

/-- A tile (R15). -/
inductive TileSt where
  | active (pos : Nat)
  | spare
  | isolated
  deriving DecidableEq, Repr, Inhabited

/-- An issue ramp (R29): fractions of eclk cycles in 1/65,536, for classes 1 and 2 and for class 3. -/
structure Ramp where
  start : Nat
  target : Nat
  start3 : Nat
  target3 : Nat
  step : Nat                   -- 0 to 7: steps 1 to 8 of R29; 8 when no ramp runs
  deriving DecidableEq, Repr, Inhabited

/-! ### Arrays and semaphore pairs -/

/-- A semaphore pair (R172). -/
structure Sem where
  fill : Nat
  space : Nat
  stalled : Bool
  deriving DecidableEq, Repr, Inhabited

/-- A scoring array. -/
structure ArraySt where
  retired : Bool
  stallPair : Option Nat
  selUsed : List (Nat × Nat × Nat) -- selector blocks held: work, bag, blocks
  deriving DecidableEq, Repr, Inhabited

/-- A batch of a PROJECT task in rotation (R168). -/
structure Batch where
  work : Nat
  first : Nat
  count : Nat
  arr : Nat                    -- its array
  done : Nat                   -- rotation steps done
  deriving DecidableEq, Repr, Inhabited

/-- A query packet in the multicast buffer of its class (R170). -/
structure McPkt where
  work : Nat
  bag : Nat
  cls : Nat
  data : Bytes
  left : List Nat              -- the arrays that have not taken it
  deriving DecidableEq, Repr, Inhabited

/-! ### Scatter -/

/-- A scatter slot of the dispatcher (R190 to R196). -/
structure Scatter where
  work : Nat
  cuts : List Nat              -- P_1, P_2, … that are fixed
  limit : Option Nat           -- the epoch limit
  wantCut : Bool               -- a cut condition holds (R194)
  issued : List Nat            -- positions issued in this attempt
  counts : List (Nat × Nat × Nat)  -- epoch, agent, records sent
  reports : List (Nat × Nat)   -- epoch, position reported
  committed : List Nat         -- epochs whose COMMITs were sent
  sealedBy : List (Nat × Nat)  -- epoch, agent
  gone : List Nat              -- epochs whose GO was sent
  acked : List (Nat × Nat)     -- epoch, agent acknowledged
  ending : Bool                -- ends early: waits for Crates in LOGGING (R208)
  hold : Option Nat            -- replays from this epoch: waits until no Crate of the aborted attempt is left (R207)
  deriving DecidableEq, Repr, Inhabited

/-- The states of a Crate area (R197). -/
inductive CrateSt where
  | free | open_ | sealing | sealed | overflowed | logging | applying | refreshing
  deriving DecidableEq, Repr, Inhabited

/-- An entry of a Crate (R191). -/
structure Entry where
  addr : Nat
  merged : Nat
  pairs : List Pair
  deriving DecidableEq, Repr, Inhabited

/-- A Crate area (R190, R197). -/
structure Crate where
  st : CrateSt
  slot : Nat
  epoch : Nat
  entries : List Entry
  got : Nat                    -- records merged
  hwm : Bool                   -- HWM was reported
  want : Option Nat            -- the count of its COMMIT
  op : Nat
  alpha : Nat
  eps : Nat
  images : List (Nat × Bytes)  -- the new row images, from LOGGING on
  go : Bool
  order : Nat                  -- order of its COMMIT
  refresh : List (Nat × Nat)   -- address and position still to acknowledge
  deriving DecidableEq, Repr, Inhabited

/-- A Crate area that is FREE. -/
def Crate.empty : Crate := { (default : Crate) with st := .free }

/-- A migration in progress at an agent (R222). -/
structure Migration where
  table : Nat
  row : Nat
  addr : Nat
  pos : Nat
  block : Nat
  attempt : Nat
  v0 : Nat
  noted : Bool                 -- the agent has read the row and noted V0
  enabled : Bool
  pinned : Bool                -- a pinned placement that an error took (R219)
  deriving DecidableEq, Repr, Inhabited

/-! ### Messages and links -/

/-- A link message (R331). -/
structure Msg where
  mtype : Nat
  vc : Nat
  cls : Nat
  flags : Nat
  len : Nat
  tag : Nat
  addr : Nat
  body : Bytes
  deriving DecidableEq, Repr, Inhabited

/-- What an access is for, so that its answer finds its way back. -/
inductive Owner where
  | none
  | descr (r : Nat) (slot : Nat)
  | work (w : Nat)
  | result (w : Nat)
  | record (w : Nat)
  | cold (tag : Nat)
  | chanRead (ch k : Nat)
  | chanWrite (ch : Nat) (w : Option Nat) -- and the piece of work whose list it is
  | chanDesc (ch : Nat)
  | porter (m w : Nat)
  | flush (w : Nat)
  | tally (unit : Nat)
  | snap
  | peer (c psn : Nat)
  | stage
  deriving DecidableEq, Repr, Inhabited

/-- A queued link message with its owner. -/
structure OutMsg where
  msg : Msg
  own : Owner
  deriving DecidableEq, Repr, Inhabited

/-- A flit on its way: its 272 bytes, and the virtual channels of the 16-byte slots of a DATA flit. How a receiver tells
the slots of different channels apart is not stated; the model carries it beside the flit (DESIGN CHOICE, log entry
52). -/
structure Flit where
  bytes : Bytes
  slots : List Nat
  trig : Bool                  -- a CONTROL flit that carries an Inventory trigger (R448)
  deriving DecidableEq, Repr, Inhabited

/-- One direction of a link, the sender's and the receiver's side (R322 to R332). -/
structure LinkDir where
  queue : List OutMsg          -- messages that wait, oldest first
  streams : List Bytes         -- of virtual channels 0 to 2: DATA payload bytes not yet in a flit
  used : List (Nat × Nat × Nat) -- messages whose credits have not returned: virtual channel, class, units
  mgmt : Bytes                 -- CONTROL payload bytes not yet in a flit
  seq : Nat                    -- next SEQ
  retry : List Flit            -- unacknowledged sequenced flits, oldest first
  resend : Nat                 -- flits of the retry buffer still to send again, counted from the end
  slot : Nat                   -- flit slots sent, modulo 32
  wire : List Flit             -- flits sent and not received
  retrySend : Bool             -- this sender owes a RETRY for the other direction
  expect : Nat                 -- receiver: expected SEQ
  waiting : Bool               -- receiver: a RETRY was sent and its flit has not come
  replays : Nat                -- replays counted (R326)
  lastRetry : Nat              -- the SEQ that the last RETRY named
  lane : Nat                   -- bytes received, modulo 48: where the lane striping stands (R318)
  failed : Nat                 -- failed replays of the oldest flit
  partials : List Bytes        -- receiver, by virtual channel: bytes of a message that spans flits
  inbox : List Msg             -- receiver: messages delivered, oldest first
  credits : List Nat           -- sender: credits held per VC, in 16-byte units
  owed : List Nat              -- receiver: credits to return per VC
  bad : Nat                    -- physical lanes marked bad
  half : Bool
  deriving DecidableEq, Repr, Inhabited

/-- The states of a link (R327). -/
inductive LinkSt where
  | down | active | degraded | retrain
  deriving DecidableEq, Repr, Inhabited

/-- A training step (R319). -/
inductive TrainStep where
  | idle | detect | test | map_ | deskew | flitLock | exchange
  deriving DecidableEq, Repr, Inhabited

/-- A link. -/
structure Link where
  st : LinkSt
  step : TrainStep
  out : LinkDir
  inb : LinkDir
  heldMismatch : Bool          -- stays at EXCHANGE (R320)
  exchanged : Bool
  retrains : Nat
  resetDone : Bool             -- training at reset has ended (R473)
  deriving DecidableEq, Repr, Inhabited

/-- A held request (R338). -/
structure Held where
  msg : Msg
  deriving DecidableEq, Repr, Inhabited

/-- A memory agent. -/
structure Agent where
  released : Bool              -- ma_rst_n is high
  failed : Bool                -- it has a permanent fault (R406, R407)
  up : Bool                    -- out of reset, its clock running, no permanent fault
  out : Bool                   -- taken out of service (R419)
  capGib : Nat
  stackNo : Nat
  present : Bool
  crates : List Crate          -- four areas
  commits : Nat                -- Crates acknowledged since activation
  acks : List (Nat × Nat)      -- slot and epoch of each CRATE_ACK that the Farnum die has not handled
  orders : Nat                 -- COMMITs received
  dir : List (Nat × Nat)       -- copy directory: row address and position, newest first
  touch : List (Nat × Nat × Nat) -- touch table: address, position, count
  sampled : Nat                -- reads served, for sampling
  hold : List Held
  remap : List (Nat × Nat)     -- unit and frame, as stack offsets
  errUnits : List (Nat × Nat × Nat) -- unit, corrected errors counted, 1 had an uncorrectable error, 2 a corrected one since
  lost : List Nat              -- addresses that an uncorrectable error has lost (R422)
  told : List Nat              -- those that a ROW_LOST report has named
  mig : Option Migration
  marker : Option Nat          -- the value its stack marker must hold
  logBase : Option Nat         -- its commit log, from the image that was last loaded (R199)
  owed : Bool                  -- an activation did not reach it: its marker is still to be written (R421)
  cold : Bool                  -- its log was cleared since the always-on domain was reset (R474)
  repaired : Nat
  repairDone : Bool
  wrapper : Bytes              -- IEEE 1500 pins last driven (R344)
  reading : Bool               -- WSO of that access has not gone back yet
  noContents : Bool            -- its stack did not keep its contents (R421)
  deriving DecidableEq, Repr, Inhabited

/-! ### The mover and translation -/

/-- A burst that a channel has read from and not yet written (R246, R267): the source parts in order, the
destination parts with the package addresses that their translation gave, and the bytes that have arrived. -/
structure ChRead where
  num : Nat
  srcs : List (Nat × Nat)      -- device address and length
  dsts : List (Nat × Nat × Nat) -- device address, package address, length
  swap : Nat
  serial : Nat                 -- the order of its translation (R262)
  cls : Nat
  domain : Nat
  work : Option Nat            -- the piece of work whose list it is
  dno : Nat                    -- the descriptor, by its number on the channel
  got : List (Nat × Bytes)
  deriving DecidableEq, Repr, Inhabited

/-- MV_CH_STATUS.STATE (08). -/
inductive ChanSt where
  | idle | running | faultWait | stopping | barrier
  deriving DecidableEq, Repr, Inhabited

/-- A queued list head (R255): its address, or the one descriptor that a Porter's COPY built (R364); and for a
Porter's launch the Porter, the piece of work and the ticket. -/
structure Head where
  addr : Nat
  built : Option Bytes
  user : Option (Nat × Nat × Nat)
  deriving DecidableEq, Repr, Inhabited

/-- A mover channel (R244, R255, R256). -/
structure Chan where
  st : ChanSt
  code : Nat
  heads : List Head
  gone : List (Nat × Nat × Nat) -- users of queued heads that a stop discarded
  list : Option Nat            -- address of the next descriptor of the list to read
  ahead : List (Nat × Option Bytes) -- descriptors read ahead: address, bytes or unreadable
  reading : Option Nat         -- descriptor read in flight
  cur : Option MoverDesc
  iter : Nat                   -- iterations of the current descriptor issued
  part : Nat                   -- bytes of the next element already moved, at a split
  reads : List ChRead          -- bursts whose data has not all arrived
  nextRead : Nat
  unacked : Nat                -- writes not acknowledged
  last : Nat                   -- LAST_TAG
  fault : Option (Nat × Nat)   -- address and rights missing
  stop : Option Nat            -- the code it stops with
  user : Option (Nat × Nat × Nat) -- Porter, work and ticket of a Porter's list
  phys : Bool                  -- PHYS of a firmware start
  dno : Nat                    -- descriptors started
  dests : List Wild            -- destinations of the descriptors of the list that have started (R255)
  since : List Wild            -- destinations of the channel's descriptors since its last barrier (R247)
  broken : Bool                -- the list has committed a host error (R8)
  deriving DecidableEq, Repr, Inhabited

/-- A cold fetch (R229). -/
structure Cold where
  tag : Nat
  cls : Nat
  addr : Nat
  len : Nat
  domain : Nat
  deriving DecidableEq, Repr, Inhabited

/-- A cold fetch in flight: the parts that have not arrived and those that have. -/
structure ColdFlight where
  c : Cold
  left : Nat
  parts : List (Nat × Bytes)
  bad : Bool
  deriving DecidableEq, Repr, Inhabited

/-- A translation copy table entry (R259). -/
structure TcEnt where
  locked : Bool
  mot : Bool
  big : Bool
  space : Nat
  pasid : Nat
  va : Nat                     -- page start
  pa : Nat
  r : Bool
  w : Bool
  a : Bool
  touch : Nat
  deriving DecidableEq, Repr, Inhabited

/-- An access to a translated space that waits or is to be issued. -/
structure Access where
  own : Owner
  domain : Nat
  cls : Nat
  write : Bool
  addr : Nat                   -- device address
  len : Nat
  data : Bytes
  fence : Bool
  chan : Option Nat            -- the initiator channel it must take (R276)
  deriving DecidableEq, Repr, Inhabited

/-- A fault table entry (R265). -/
structure FaultEnt where
  walking : Bool
  stale : Bool
  pasid : Nat
  space : Nat
  va : Nat
  waiters : List Access
  deriving DecidableEq, Repr, Inhabited

/-- A promoted page (R232). -/
structure Promo where
  space : Nat
  pasid : Nat
  va : Nat
  big : Bool
  valid : Bool
  deriving DecidableEq, Repr, Inhabited

/-- A frame of the promotion pool. -/
inductive FrameSt where
  | free
  | copying (p : Promo) (ch : Nat) -- the channel that copies the page
  | held (p : Promo)           -- valid
  | draining                   -- demoted, fetches may be outstanding
  deriving DecidableEq, Repr, Inhabited

/-! ### The host port -/

/-- A request type (R274). -/
inductive HiType where
  | read | write | writePc | flush
  deriving DecidableEq, Repr, Inhabited

/-- A request on an initiator channel. -/
structure HiReq where
  ty : HiType
  own : Owner
  cls : Nat
  domain : Nat
  dev : Nat                    -- device address
  pa : Nat
  len : Nat
  data : Bytes
  serial : Nat                 -- the order of its translation (R262)
  old : Bool                   -- of an older host epoch: its answer is discarded (R292)
  deriving DecidableEq, Repr, Inhabited

/-- An initiator channel (R273 to R276). -/
structure HiChan where
  credits : Nat
  beats : Nat
  queue : List HiReq
  flight : Tab (Option HiReq)  -- by identifier: reads at 0 to 1,023, writes from 1,024 on
  deriving DecidableEq, Repr, Inhabited

/-! ### Peer ports -/

/-- A sequenced packet that is not acknowledged (R303, R307). -/
structure Sent where
  psn : Nat
  ty : Nat
  addr : Nat                   -- ADDR
  len : Nat                    -- LENGTH
  aux : Nat
  src : Option Nat             -- where the data is read again from, in spaces 0x0 and 0x1
  data : Bytes
  ch : Option (Nat × Nat)      -- the mover channel that sent it, and its space 0x8 address
  work : Option Nat            -- the piece of work whose list sent it
  dno : Nat                    -- the descriptor that sent it
  started : Bool               -- it has left its port
  resent : Bool                -- fast retransmitted in this interval
  deriving DecidableEq, Repr, Inhabited

/-- A part of a burst's source that a READ_REQ asks for (R300). -/
structure PeerWant where
  id : Nat                     -- READ_ID
  ch : Nat
  burst : Option Nat           -- none: it reads the channel's next descriptor
  addr : Nat                   -- in space 0x8
  len : Nat
  deriving DecidableEq, Repr, Inhabited

/-- A READ_REQ that a receiver serves from a translated space (R301, R305). -/
structure PeerRead where
  psn : Nat
  readId : Nat
  addr : Nat                   -- ADDR of the request
  dev : Nat
  len : Nat
  got : List (Nat × Bytes)
  deriving DecidableEq, Repr, Inhabited

/-- A connection (R299, R305 to R308). -/
structure Conn where
  next : Nat                   -- next PSN
  sent : List Sent
  want : List Sent             -- packets that wait for room under the limits of R307, oldest first
  past : List Sent             -- acknowledged packets of mover channels, newest first, for a late NAK (R309)
  exp : Nat
  got : List Nat               -- PSNs recorded above EXP
  ackable : List Nat           -- applied PSNs whose local writes are not yet acknowledged
  since : Nat                  -- packets applied since the last acknowledgement
  owes : Bool                  -- an applied packet waited for its local writes when that acknowledgement left (R306)
  lost : Bool
  expiries : Nat
  reads : List PeerWant        -- parts of bursts that a READ_REQ asks for, oldest first
  nextRead : Nat
  serve : List PeerRead
  naks : List (Nat × Nat)      -- refused PSNs with their codes (R309)
  una : Nat                    -- the last ACK_PSN received
  due : List Nat               -- PSNs that ask for an ACK once their local writes are acknowledged (R306)
  deriving DecidableEq, Repr, Inhabited

/-- The sideband of a packet that a Peer Port sends (R296). -/
structure PeerSide where
  dstIp : Nat
  ipv6 : Bool
  dport : Nat
  sport : Nat
  dscp : Nat
  deriving DecidableEq, Repr, Inhabited

/-- A packet queued at a Peer Port (R312). -/
structure PeerTx where
  kind : Nat                   -- 0 ACK or NAK, 1 management, 2 data
  conn : Nat
  payload : Bytes
  psn : Option Nat             -- a sequenced packet, whose payload is built at its start
  side : Option PeerSide       -- once it has started
  deriving DecidableEq, Repr, Inhabited

/-- A Peer Port. -/
structure PeerPort where
  queue : List PeerTx
  starts : Nat                 -- starts since the last management packet
  sent : List PeerTx           -- packets that have started
  held : List PeerRx           -- packets held during activation
  buffered : Nat               -- bytes in the receive buffer
  mgmtIn : List (Nat × Nat × Bytes) -- management messages delivered: connection, key and message
  deriving DecidableEq, Repr, Inhabited

/-! ### Porters -/

/-- PC_STATUS.STATE (11). -/
inductive PorterSt where
  | idle | running | waitSem | waitTicket | waitMiss | halting
  deriving DecidableEq, Repr, Inhabited

/-- A ticket (R366). -/
inductive TicketSt where
  | free
  | running (auto : Bool)      -- auto: frees when its operation completes (TD = G0)
  | ready
  deriving DecidableEq, Repr, Inhabited

/-- A mailbox entry (R347). -/
structure Mail where
  work : Nat
  share : Option Nat
  porter : Nat                 -- the Porter that the entry was placed for (R414)
  order : Nat                  -- the order of its placement
  deriving DecidableEq, Repr, Inhabited

/-- A line of the data cache (R369). -/
structure DLine where
  addr : Nat
  data : Bytes
  dirty : Bool
  deriving DecidableEq, Repr, Inhabited

/-- The outstanding miss of a data cache (R371): its line, and the access that it serves once it has filled: a load of n
bytes at addr into a register, or a store of some bytes there. -/
structure Miss where
  line : Nat
  addr : Nat
  n : Nat
  load : Option Nat
  bytes : Bytes
  deriving DecidableEq, Repr, Inhabited

/-- A Porter core. -/
structure Porter where
  st : PorterSt
  g : List Nat                 -- G1 to G31
  pc : Nat
  cacheEn : Bool
  tickets : List TicketSt
  mail : List Mail
  cur : Option Mail
  entry : Nat
  released : Bool              -- its share was released
  localMem : Tab Byte
  lines : List DLine           -- most recently used first
  run : Option (Nat × Nat)     -- last store-miss line and the run's length (R370)
  miss : Option Miss           -- the outstanding miss (R371)
  pair : Nat                   -- the pair waited on
  need : Nat                   -- the count, or the ticket, waited for
  unacked : Nat                -- stores not acknowledged
  retired : Bool
  deriving DecidableEq, Repr, Inhabited

/-! ### Configuration slots, Storekeeper and observation -/

/-- CF_SLOTS.STAGED (12). -/
inductive StagedSt where
  | empty | loading | ready | bad
  deriving DecidableEq, Repr, Inhabited

/-- A command of R390 in progress. -/
structure CfgCmd where
  op : Nat
  mgmt : Bool
  swap : Nat                   -- 0 none, 1 staged becomes current, 2 exchange with the Attic, 3 teardown
  loaded : Bool                -- steps 2 to 4 of R391 are done, but for the walks of the locked pages
  deriving DecidableEq, Repr, Inhabited

/-- The configuration slots (R387, R390). -/
structure Slots where
  stagedSt : StagedSt
  staged : Bytes
  current : Option Bytes
  attic : Option Bytes
  cmd : Option CfgCmd
  activating : Bool
  scrubbing : Bool
  lastStatus : Nat
  lastOp : Nat
  generation : Nat
  later : Nat                  -- management STAGE requests that wait (R392)
  locks : List (Nat × Nat × Nat) -- locked pages whose walk is still to start: PASID, space and page
  regions : List Nat           -- the regions of the slot store that hold the staged, current and Attic slots (R394)
  wild : List (Nat × Word)     -- actions that host errors start before the activation ends: register and value (R8)
  deriving DecidableEq, Repr, Inhabited

/-- A log record (R431). -/
structure LogRec where
  seq : Nat
  time : Nat
  source : Nat
  severity : Nat
  code : Nat
  payload : Bytes
  deriving DecidableEq, Repr, Inhabited

/-- A board retire report (R399). -/
structure Report where
  severity : Nat
  cause : Nat
  unit : Nat
  seq : Nat
  time : Nat
  rings : Nat
  detail0 : Nat
  detail1 : Nat
  parked : Nat
  streams : Nat
  deriving DecidableEq, Repr, Inhabited

/-- A firmware update over PLDM (R437). -/
structure Update where
  openFlag : Bool
  components : List Nat
  cur : Option (Nat × Nat)     -- component and size
  data : Bytes
  verified : Bool
  deriving DecidableEq, Repr, Inhabited

/-- A message that leaves by MCTP or PLDM. -/
inductive MgmtOut where
  | response (code : Nat) (status : Nat) (body : Bytes)
  | report (r : Report)
  | interrupt                  -- an in-band interrupt on I3C (R434)
  | pldm (cmd : Nat) (status : Nat) (body : Bytes)
  deriving DecidableEq, Repr, Inhabited

/-- The Storekeeper (R429 to R439). -/
structure Keeper where
  up : Bool
  log : List LogRec            -- newest last, at most 1,024
  nextLog : Nat
  reports : List Report        -- not acknowledged, oldest first
  nextReport : Nat
  reportsSent : Nat            -- FN_HEALTH.REPORTS
  waiting : List Report        -- reports that wait for the Storekeeper (R424)
  skLost : Bool
  mbResult : Nat
  mbData : Bytes
  mbBusy : Option (Nat × Nat)  -- a mailbox command that waits for the Storekeeper, with SK_MB_ARG
  temps : List Nat             -- 64 readings, 16-bit codes
  hottest : Nat
  sensor : Nat
  touches : List (Nat × Nat × Nat × Nat) -- touch reports received: agent, row address, position, count (R221)
  wso : List Bytes             -- by agent, what WSO of its port last gave (R344)
  repin : List Migration       -- pinned placements that wait for their agent's migration to end (R219)
  supplies : List Nat          -- 19, mV
  eyes : List Nat              -- 32 margins
  active : Nat                 -- firmware copy, 0 A, 1 B
  svnA : Nat
  svnB : Nat
  minSvn : Nat
  fwOk : List Bool             -- by copy, what the check of its signature gave (R436)
  fresh : Option Nat           -- a new copy that has not completed its start: the previous copy
  signing : List (Option Bytes)
  hmac : List (Option (Bytes × Nat))  -- key and its highest accepted SEQ
  ceilings : List Nat          -- the stored ceiling of each key (R311)
  seqs : List Nat              -- by key, the highest SEQ sent under it (R310)
  update : Update
  remap : List (Nat × Nat × Nat) -- the persistent list: stack, unit and frame
  record : Option IntegrationRecord -- the record, as the last start found it good (R470)
  out : List MgmtOut
  deriving DecidableEq, Repr, Inhabited

/-- A Tally item (R444). -/
structure Item where
  event : Nat
  arg0 : Nat
  seq : Nat
  cycles : Nat
  arg1 : Nat
  deriving DecidableEq, Repr, Inhabited

/-- The Tally FIFO of a unit (R446). -/
structure Fifo where
  items : List Item
  next : Nat
  lost : Nat                   -- since the previous packet
  corrected : Nat
  pending : List Item          -- the packet formed and not yet written
  plost : Nat
  pcorr : Nat
  deriving DecidableEq, Repr, Inhabited

/-- OB_SNAP_STATUS.STATE (R451). -/
inductive SnapSt where
  | idle | latching | sweeping | done
  deriving DecidableEq, Repr, Inhabited

/-- The Inventory (R447 to R451). -/
structure Snap where
  st : SnapSt
  incomplete : Bool
  source : Nat
  seq : Nat
  base : Nat
  writes : List (Nat × Bytes)  -- records and copies latched, to be written
  waiting : List Nat           -- agents that have not latched
  unacked : Nat
  deriving DecidableEq, Repr, Inhabited

/-- The faults of a unit (R407), and the work that it served since its last good known-answer check (R408). -/
structure UnitHealth where
  faults : Nat                 -- transient faults
  failed : Bool                -- its last known-answer check failed
  lastPass : Nat               -- sclk TIME of the last check that passed
  rings : Nat                  -- rings with a bag that it served, a mask
  streams : Nat                -- class 0 streams with a request that it served, a mask
  deriving DecidableEq, Repr, Inhabited

end Sys2Proof.Machine
end

