-- ==== Sys2Proof/Machine/State.lean ====
section
/-! DEFINITION. The state of the block, what it holds after reset, and how a command can stop. -/

namespace Sys2Proof.Machine

open Sys2Proof

/-! ### How a command stops -/

/-- How the machine stops: it never does. A host error (R7) leaves open what R8 lets it reach, an access outside the
rights is the access violation of R9, and the block goes on. -/
inductive Fault where
  deriving DecidableEq, Repr

/-- A command with no meaning in the model. -/
inductive Refusal where
  /-- The command is not modelled. Raised by exec's arm; safe: the model stops. -/
  | notModelled (mnemonic : String)
  deriving DecidableEq, Repr

/-! ### Parts after reset -/

/-- A ring after reset (09). -/
def Ring.init : Ring := ⟨0, 0, 0, 0, none, [], false⟩

/-- An engine position after reset. -/
def Engine.init : Engine := ⟨0, [], [], [], [], [], false, false, none⟩

/-- No ramp runs. -/
def Ramp.idle : Ramp := ⟨0, 0, 0, 0, 8⟩

/-- An unassigned pair (R172). -/
def Sem.init : Sem := ⟨0, 0, false⟩

/-- An array after reset. -/
def ArraySt.init : ArraySt := ⟨false, none, []⟩

/-- One direction of a link after reset. -/
def LinkDir.init : LinkDir :=
  { queue := [], streams := [[], [], []], used := [], mgmt := [], seq := 0, retry := [], resend := 0, slot := 0, wire := []
    retrySend := false, expect := 0, waiting := false, replays := 0, lastRetry := 0, lane := 0, failed := 0, partials := [[], [], [], []]
    inbox := [], credits := [0, 0, 0, 0], owed := [0, 0, 0, 0], bad := 0, half := false }

/-- A link after reset (R327: DOWN). -/
def Link.init : Link := ⟨.down, .idle, LinkDir.init, LinkDir.init, false, false, 0, false⟩

/-- An agent after reset. -/
def Agent.init : Agent :=
  { released := false, failed := false, up := false, out := false, capGib := 0, stackNo := 0, present := false
    crates := List.replicate 4 Crate.empty, commits := 0, acks := [], orders := 0, dir := [], touch := []
    sampled := 0, hold := [], remap := [], errUnits := [], lost := [], told := [], mig := none, marker := none, logBase := none, owed := false, cold := false, repaired := 0
    repairDone := false, wrapper := [], reading := false, noContents := false }

/-- A mover channel after reset. -/
def Chan.init : Chan :=
  { st := .idle, code := 0, heads := [], gone := [], list := none, ahead := [], reading := none, cur := none
    iter := 0, part := 0, reads := [], nextRead := 0, unacked := 0
    last := 0, fault := none, stop := none, user := none, phys := false, dno := 0, dests := [], since := []
    broken := false }

/-- An initiator channel after reset: no credits (R275). -/
def HiChan.init : HiChan := ⟨0, 0, [], []⟩

/-- A connection after reset. -/
def Conn.init : Conn := ⟨0, [], [], [], 0, [], [], 0, false, false, 0, [], 0, [], [], 0, []⟩

/-- A Peer Port after reset. -/
def PeerPort.init : PeerPort := ⟨[], 0, [], [], 0, []⟩

/-- A Porter after reset. -/
def Porter.init : Porter :=
  { st := .idle, g := List.replicate 31 0, pc := 0, cacheEn := true, tickets := List.replicate 16 .free
    mail := [], cur := none, entry := 0, released := false, localMem := [], lines := [], run := none
    miss := none, pair := 0, need := 0, unacked := 0, retired := false }

/-- A Tally FIFO after reset. -/
def Fifo.init : Fifo := ⟨[], 0, 0, 0, [], 0, 0⟩

/-- A unit of which no fault is counted. -/
def UnitHealth.init : UnitHealth := ⟨0, false, 0, 0, 0⟩

/-! ### The state -/

/-- Resets, clocks and supplies (16, R424, R425). -/
structure Power where
  aonUp : Bool                 -- the always-on domain is out of reset
  coreRstN : Bool              -- fn_core_rst_n
  engineUp : Bool              -- the engine domain is out of reset
  credits : Bool               -- the target has granted its credits (R270)
  wcred : Nat                  -- write beat credits that the surroundings hold (R270)
  rcred : Nat                  -- read request credits that the surroundings hold (R270)
  stopped : Bool               -- the engine domain is stopped (R423)
  lost : List Clk              -- clocks that are lost
  supply : List SupplyDom      -- domains whose issue is stopped (R425)
  deriving DecidableEq, Repr, Inhabited

/-- The host side of the port (R291 to R294). -/
structure HostSide where
  epoch : Nat
  rstN : Bool
  linkUp : Bool
  portUp : Bool
  waiting : List Instr         -- target writes taken while the overflow queue is full, oldest first (R108)
  deriving DecidableEq, Repr, Inhabited

/-- The dispatcher and class 0 steering. -/
structure Disp where
  rings : Tab Ring
  works : Tab (Option Work)
  nextWork : Nat
  nextRing : Tab Nat           -- by class, where the next turn of the rings starts (R72)
  scatter : Tab (Option Scatter)
  tokens : Tab Nat             -- by class 0 stream
  overflow : List Nat          -- works in the overflow queue, oldest first (R108)
  queries : Tab (Option QVec)  -- the query store
  deriving DecidableEq, Repr, Inhabited

/-- Engines, tiles, ramps and throttle levels. -/
structure Eng where
  engines : Tab Engine
  tiles : List TileSt          -- GPE00 to GPE49
  ramps : Tab Ramp             -- by position + 64 k: k = 0 the block's rate, k = 1 + st the rate at stack st
  block : Nat                  -- block throttle level (R234)
  stackLevels : Tab Nat             -- stack throttle levels
  deriving DecidableEq, Repr, Inhabited

/-- Scoring arrays and semaphore pairs. -/
structure Arr where
  arrays : Tab ArraySt
  sems : Tab Sem
  batches : List Batch
  turns : Tab Nat              -- by projection set, the rotation step of its arrays (R168)
  mcast : List McPkt           -- the multicast buffers, oldest first (R170)
  deriving DecidableEq, Repr, Inhabited

/-- Memory agents and their links. -/
structure Net where
  agents : Tab Agent
  links : Tab Link
  sent : Tab (Option OutMsg)   -- by tag, the writes and flushes that are not acknowledged
  nextTag : Nat
  deriving DecidableEq, Repr, Inhabited

/-- The mover and address translation. -/
structure Mover where
  chans : Tab Chan
  slot : Nat                   -- position in the 15-slot cycle (R245)
  lastOf : Tab Nat             -- by priority, the channel granted last plus one
  lastCold : Bool              -- the last grant went to the cold-fetch queue
  cold : List Cold
  flight : List ColdFlight
  tc : Tab (Option TcEnt)
  lru : List Nat               -- entries, most recently used first
  faults : Tab (Option FaultEnt)
  port : List Access           -- accesses that found the fault table full
  frames : Tab FrameSt
  hits : List Nat              -- frames, most recently hit first
  invals : List (List TcEnt × Nat) -- invalidations in progress: the entries they removed, and their order
  invalDone : Nat              -- completion messages sent
  serial : Nat
  stackBase : Tab Word         -- TC_STACK_BASE
  deriving DecidableEq, Repr, Inhabited

/-- Peer connections and ports. -/
structure Peer where
  conns : Tab Conn
  ports : Tab PeerPort
  deriving DecidableEq, Repr, Inhabited

/-- Counters, Tally and Inventory (14). -/
structure Obs where
  counters : Tab Word
  forwarded : Tab Word         -- the agents' banks as they last reached the Farnum die (R440)
  drops : Tab Word             -- 2t: invalid count of table t; 2t + 1: missing count
  fifos : Tab Fifo
  prod : Nat                   -- OB_SINK_STATUS.PROD
  sinkFull : Bool              -- a packet has found the sink ring full since it last had room
  snap : Snap
  units : Tab UnitHealth
  mirror : List (Nat × Bytes)  -- log records on their way to the mirror, oldest first: address and bytes (R433)
  deriving DecidableEq, Repr, Inhabited

/-- The state of the block. -/
structure State where
  pending : List Instr         -- the commands that wait, first in, first out
  fresh : Nat                  -- the model's own: free values drawn so far
  pwr : Power
  host : HostSide
  regs : Tab Word              -- RW fields by register offset
  notices : Tab Word           -- W1C bits by register offset
  mem : Tab Byte               -- Store Room and Larder bytes by device address
  wild : List OpenRun          -- bytes that host errors have left open (R8)
  slots : Slots
  cfg : Cfg                    -- the loaded structures
  disp : Disp
  eng : Eng
  arr : Arr
  net : Net
  mov : Mover
  hi : Tab HiChan
  peer : Peer
  porters : Tab Porter
  sk : Keeper
  obs : Obs
  deriving DecidableEq, Repr, Inhabited

/-- The Storekeeper with nothing in its log and no key provisioned. -/
def Keeper.init : Keeper :=
  { up := false, log := [], nextLog := 0, reports := [], nextReport := 0, reportsSent := 0, waiting := [], skLost := false
    mbResult := 0, mbData := [], mbBusy := none, temps := List.replicate 64 0, hottest := 0, sensor := 0, touches := []
    wso := List.replicate 16 [], repin := []
    supplies := List.replicate 19 0, eyes := List.replicate 32 0, active := 0, svnA := 0, svnB := 0
    minSvn := 0, fwOk := [false, false], fresh := none, signing := [some (List.replicate 96 0), none, none, none], hmac := List.replicate 4 none
    ceilings := [0, 0, 0, 0], seqs := [0, 0, 0, 0]
    update := ⟨false, [], none, [], false⟩, remap := [], record := none, out := [] }

/-- The slots after a reset of the always-on domain: empty (R387). -/
def Slots.init : Slots :=
  { stagedSt := .empty, staged := [], current := none, attic := none, cmd := none, activating := false
    scrubbing := false, lastStatus := 0, lastOp := 0, generation := 0, later := 0, locks := [], regions := [0, 1, 2], wild := [] }

/-- The tiles at reset: GPE00 to GPE47 hold positions 0 to 47, and GPE48 and GPE49 are spares (R15). -/
def tilesInit : List TileSt := (List.range 48).map .active ++ [.spare, .spare]

/-- No Inventory has been taken. -/
def Snap.init : Snap := ⟨.idle, false, 0, 0, 0, [], [], 0⟩

/-- The dispatcher after reset. -/
def Disp.init : Disp := ⟨[], [], 0, [], [], [], [], []⟩

/-- The engines after reset. -/
def Eng.init : Eng := ⟨[], tilesInit, [], 0, []⟩

/-- The arrays after reset. -/
def Arr.init : Arr := ⟨[], [], [], [], []⟩

/-- The mover after reset. -/
def Mover.init : Mover :=
  { chans := [], slot := 0, lastOf := [], lastCold := false, cold := [], flight := [], tc := [], lru := []
    faults := [], port := [], frames := [], hits := [], invals := [], invalDone := 0, serial := 0
    stackBase := [] }

/-- The counters and traces after reset. -/
def Obs.init : Obs := ⟨[], [], [], [], 0, false, Snap.init, [], []⟩

/-- The machine right after reset: every domain is in reset (R471 step 1), and every register reads its
reset value. -/
def State.reset : State :=
  { pending := [], fresh := 0
    pwr := ⟨false, false, false, false, 0, 0, false, [], []⟩
    host := ⟨0, false, false, false, []⟩
    regs := [], notices := [], mem := [], wild := []
    slots := Slots.init, cfg := Cfg.empty, disp := Disp.init, eng := Eng.init, arr := Arr.init
    net := ⟨[], [], [], 0⟩, mov := Mover.init, hi := [], peer := ⟨[], []⟩, porters := []
    sk := Keeper.init, obs := Obs.init }

end Sys2Proof.Machine
end

