-- ==== Sys2Proof/Machine/Ops.lean ====
section
/-! DEFINITION. The named operations over the state: reading and writing each part, memory, free values,
notices and counters. -/

namespace Sys2Proof.Machine

open Sys2Proof

/-- The outcome of a command. -/
abbrev Out := Host.Outcome State Fault Refusal

/-! ### Parts -/

def State.ring (s : State) (r : Nat) : Ring := s.disp.rings.get .init r
def State.setRing (s : State) (r : Nat) (v : Ring) : State :=
  { s with disp := { s.disp with rings := s.disp.rings.set .init r v } }

def State.work (s : State) (w : Nat) : Option Work := s.disp.works.get none w
def State.setWork (s : State) (w : Nat) (v : Work) : State :=
  { s with disp := { s.disp with works := s.disp.works.set none w (some v) } }
def State.dropWork (s : State) (w : Nat) : State :=
  { s with disp := { s.disp with works := s.disp.works.set none w none } }
/-- Every piece of work with its number. -/
def State.works (s : State) : List (Nat × Work) :=
  s.disp.works.filterMap fun e => e.2.map fun v => (e.1, v)
/-- A change to one piece of work. -/
def State.modWork (s : State) (w : Nat) (f : Work → Work) : State :=
  match s.work w with
  | some k => s.setWork w (f k)
  | none => s
/-- A new piece of work, and its number. -/
def State.newWork (s : State) (v : Work) : Nat × State :=
  (s.disp.nextWork,
    { s with disp := { s.disp with
        works := s.disp.works.set none s.disp.nextWork (some v), nextWork := s.disp.nextWork + 1 } })

def State.scatter (s : State) (i : Nat) : Option Scatter := s.disp.scatter.get none i
def State.setScatter (s : State) (i : Nat) (v : Option Scatter) : State :=
  { s with disp := { s.disp with scatter := s.disp.scatter.set none i v } }

def State.engine (s : State) (p : Nat) : Engine := s.eng.engines.get .init p
def State.setEngine (s : State) (p : Nat) (v : Engine) : State :=
  { s with eng := { s.eng with engines := s.eng.engines.set .init p v } }
def State.modEngine (s : State) (p : Nat) (f : Engine → Engine) : State := s.setEngine p (f (s.engine p))

def State.array (s : State) (a : Nat) : ArraySt := s.arr.arrays.get .init a
def State.setArray (s : State) (a : Nat) (v : ArraySt) : State :=
  { s with arr := { s.arr with arrays := s.arr.arrays.set .init a v } }

def State.sem (s : State) (p : Nat) : Sem := s.arr.sems.get .init p
def State.setSem (s : State) (p : Nat) (v : Sem) : State :=
  { s with arr := { s.arr with sems := s.arr.sems.set .init p v } }

/-- A change to the multicast buffers. -/
def State.modMcast (s : State) (f : List McPkt → List McPkt) : State :=
  { s with arr := { s.arr with mcast := f s.arr.mcast } }

/-- A change to the batches in rotation. -/
def State.modBatches (s : State) (f : List Batch → List Batch) : State :=
  { s with arr := { s.arr with batches := f s.arr.batches } }

def State.agent (s : State) (n : Nat) : Agent := s.net.agents.get .init n
def State.setAgent (s : State) (n : Nat) (v : Agent) : State :=
  { s with net := { s.net with agents := s.net.agents.set .init n v } }
def State.modAgent (s : State) (n : Nat) (f : Agent → Agent) : State := s.setAgent n (f (s.agent n))

def State.link (s : State) (n : Nat) : Link := s.net.links.get .init n
def State.setLink (s : State) (n : Nat) (v : Link) : State :=
  { s with net := { s.net with links := s.net.links.set .init n v } }
def State.modLink (s : State) (n : Nat) (f : Link → Link) : State := s.setLink n (f (s.link n))

def State.chan (s : State) (c : Nat) : Chan := s.mov.chans.get .init c
def State.setChan (s : State) (c : Nat) (v : Chan) : State :=
  { s with mov := { s.mov with chans := s.mov.chans.set .init c v } }
def State.modChan (s : State) (c : Nat) (f : Chan → Chan) : State := s.setChan c (f (s.chan c))

def State.hiChan (s : State) (c : Nat) : HiChan := s.hi.get .init c
def State.setHiChan (s : State) (c : Nat) (v : HiChan) : State := { s with hi := s.hi.set .init c v }

def State.conn (s : State) (c : Nat) : Conn := s.peer.conns.get .init c
def State.setConn (s : State) (c : Nat) (v : Conn) : State :=
  { s with peer := { s.peer with conns := s.peer.conns.set .init c v } }
def State.port (s : State) (p : Nat) : PeerPort := s.peer.ports.get .init p
def State.setPort (s : State) (p : Nat) (v : PeerPort) : State :=
  { s with peer := { s.peer with ports := s.peer.ports.set .init p v } }

def State.porter (s : State) (m : Nat) : Porter := s.porters.get .init m
def State.setPorter (s : State) (m : Nat) (v : Porter) : State :=
  { s with porters := s.porters.set .init m v }
def State.modPorter (s : State) (m : Nat) (f : Porter → Porter) : State := s.setPorter m (f (s.porter m))

def State.fifo (s : State) (u : Nat) : Fifo := s.obs.fifos.get .init u
def State.setFifo (s : State) (u : Nat) (v : Fifo) : State :=
  { s with obs := { s.obs with fifos := s.obs.fifos.set .init u v } }
def State.unit (s : State) (u : Nat) : UnitHealth := s.obs.units.get .init u
def State.setUnit (s : State) (u : Nat) (v : UnitHealth) : State :=
  { s with obs := { s.obs with units := s.obs.units.set .init u v } }

def State.tcEnt (s : State) (e : Nat) : Option TcEnt := s.mov.tc.get none e
def State.setTc (s : State) (e : Nat) (v : Option TcEnt) : State :=
  { s with mov := { s.mov with tc := s.mov.tc.set none e v } }
def State.faultEnt (s : State) (e : Nat) : Option FaultEnt := s.mov.faults.get none e
def State.setFault (s : State) (e : Nat) (v : Option FaultEnt) : State :=
  { s with mov := { s.mov with faults := s.mov.faults.set none e v } }
def State.frame (s : State) (f : Nat) : FrameSt := s.mov.frames.get .free f
def State.setFrame (s : State) (f : Nat) (v : FrameSt) : State :=
  { s with mov := { s.mov with frames := s.mov.frames.set .free f v } }

def State.modSk (s : State) (f : Keeper → Keeper) : State := { s with sk := f s.sk }
def State.modSlots (s : State) (f : Slots → Slots) : State := { s with slots := f s.slots }
def State.modMov (s : State) (f : Mover → Mover) : State := { s with mov := f s.mov }
def State.modEng (s : State) (f : Eng → Eng) : State := { s with eng := f s.eng }
def State.modDisp (s : State) (f : Disp → Disp) : State := { s with disp := f s.disp }
def State.modObs (s : State) (f : Obs → Obs) : State := { s with obs := f s.obs }
def State.modSnap (s : State) (f : Snap → Snap) : State :=
  { s with obs := { s.obs with snap := f s.obs.snap } }

/-- A fold of a change over a list. -/
def State.each {α : Type} (s : State) (l : List α) (f : State → α → State) : State := l.foldl f s

/-! ### Free values -/

/-- A free value (log entry 2): the next value of Config.freeValue, and the state after drawing it. -/
def State.draw (s : State) : Nat × State :=
  ((Config.freeValue s.fresh).toNat, { s with fresh := s.fresh + 1 })

/-! ### Memory: the bytes of the Store Room and the Larder, by device address -/

/-- What an unlisted byte reads as (DESIGN CHOICE, unsafe, log entry 3). -/
def memDefault : Byte := 0#8

/-- One byte of memory. -/
def Memory.byte (m : Tab Byte) (a : Nat) : Byte := m.get memDefault a

/-- One byte written; the canonical form is kept. -/
def Memory.put (m : Tab Byte) (a : Nat) (b : Byte) : Tab Byte := m.set memDefault a b

/-- n bytes from address a. -/
def Memory.read (m : Tab Byte) : Nat → Nat → Bytes
  | _, 0 => []
  | a, n + 1 => Memory.byte m a :: Memory.read m (a + 1) n

/-- Bytes written from address a on. -/
def Memory.write (m : Tab Byte) : Nat → Bytes → Tab Byte
  | _, [] => m
  | a, b :: bs => Memory.write (Memory.put m a b) (a + 1) bs

/-- The canonical form of memory: addresses strictly rising, no byte equal to the default. -/
def Memory.wf (m : Tab Byte) : Bool := m.wf memDefault

/-! ### Notices and counters -/

/-- Notice bits of the register at an offset. -/
def State.noticeBits (s : State) (off : Nat) : Nat := (s.notices.get 0#64 off).toNat

/-- A hardware set of notice bits (R10, R456). -/
def State.raise (s : State) (off bits : Nat) : State :=
  { s with notices := s.notices.set 0#64 off (BitVec.ofNat 64 (s.noticeBits off ||| bits)) }

/-- Notice bits cleared. -/
def State.lower (s : State) (off bits : Nat) : State :=
  let left := s.noticeBits off &&& (bits ^^^ (2 ^ 64 - 1))
  { s with notices := s.notices.set 0#64 off (BitVec.ofNat 64 left) }

/-- Counter i advanced by n, modulo 2^64 (R440). -/
def State.countN (s : State) (i n : Nat) : State :=
  { s with obs := { s.obs with
      counters := s.obs.counters.modify 0#64 i fun c => c + BitVec.ofNat 64 n } }

/-- Counter i advanced by one. -/
def State.count (s : State) (i : Nat) : State := s.countN i 1

/-- Counter j of engine tile n (R441). -/
def tileCounter (n j : Nat) : Nat := 0x300 + 16 * n + j
/-- Counter j of Porter m (R441). -/
def porterCounter (m j : Nat) : Nat := 0x620 + 16 * m + j
/-- Counter j of array a (R441). -/
def arrayCounter (a j : Nat) : Nat := 0x6E0 + 16 * a + j
/-- Counter j of agent n (R441). -/
def agentCounter (n j : Nat) : Nat := 0x760 + 128 * n + j

/-- A drop count of a table advanced, saturating (R61, R63); k = 0 invalid, 1 missing. -/
def State.drop (s : State) (table k n : Nat) : State :=
  let old := (s.obs.drops.get 0#64 (2 * table + k)).toNat
  let new := BitVec.ofNat 64 (satAdd (2 ^ 64 - 1) old n)
  { s with obs := { s.obs with drops := s.obs.drops.set 0#64 (2 * table + k) new } }

/-- The tile that holds a position, when one does. -/
def State.tileOf (s : State) (p : Nat) : Option Nat :=
  ((List.range 50).find? fun n => s.eng.tiles.getD n .spare == .active p)

/-- The position of a tile. -/
def State.posOfTile (s : State) (t : Nat) : Nat :=
  match s.eng.tiles.getD t .spare with
  | .active p => p
  | _ => t

/-- Counter j of the tile that holds a position. -/
def State.countTile (s : State) (p j n : Nat) : State :=
  match (s.tileOf p).orElse fun _ => (s.engine p).was with
  | some t => s.countN (tileCounter t j) n
  | none => s

end Sys2Proof.Machine
end

