-- ==== Sys2Proof/Machine/Regs.lean ====
section
/-! DEFINITION. The register file of the target window (R454 to R465): which fields can be written, where
the notices are, and the reset values. -/

namespace Sys2Proof.Machine

open Sys2Proof

/-! ### Offsets -/

def Reg.fnStatus : Nat := 0x10
def Reg.fnCtl : Nat := 0x18
def Reg.fnNotice : Nat := 0x20
def Reg.fnHealthNotice : Nat := 0x108
def Reg.rgSq (r : Nat) : Nat := 0x010000 + 0x40 * r
def Reg.rgCq (r : Nat) : Nat := Reg.rgSq r + 0x08
def Reg.rgCtl (r : Nat) : Nat := Reg.rgSq r + 0x10
def Reg.rgNotice : Nat := 0x011000
def Reg.rgEvent : Nat := 0x011010
def Reg.cfCmd : Nat := 0x020008
def Reg.cfStageAddr : Nat := 0x020010
def Reg.cfStageCtl : Nat := 0x020018
def Reg.cfNotice : Nat := 0x020020
def Reg.cfReqDigest (k : Nat) : Nat := 0x0200D0 + 8 * k
def Reg.cfTblSel : Nat := 0x020100
def Reg.mvHead (n : Nat) : Nat := 0x030000 + 0x40 * n
def Reg.mvCtl (n : Nat) : Nat := Reg.mvHead n + 0x08
def Reg.mvNotice : Nat := 0x030800
def Reg.scNotice : Nat := 0x040008
def Reg.pwCtl : Nat := 0x050000
def Reg.pwNotice : Nat := 0x050008
def Reg.pwCn (c : Nat) : Nat := 0x051000 + 0x20 * c
def Reg.pwOb (w : Nat) : Nat := 0x053000 + 0x10 * w
def Reg.pwIb (w : Nat) : Nat := 0x054000 + 0x10 * w
def Reg.obNotice : Nat := 0x060008
def Reg.obSinkPtr : Nat := 0x060028
def Reg.obSnapTrig : Nat := 0x060018
def Reg.mbCmd : Nat := 0x070000
def Reg.mbArg : Nat := 0x070008
def Reg.mbNotice : Nat := 0x070018
def Reg.sa (n : Nat) : Nat := 0x600000 + n * 0x10000
def Reg.saNotice (n : Nat) : Nat := Reg.sa n + 0x08
def Reg.saLimit (n : Nat) : Nat := Reg.sa n + 0x18
def Reg.ma (n : Nat) : Nat := 0x700000 + n * 0x10000
def Reg.maNotice (n : Nat) : Nat := Reg.ma n + 0x28

/-- Is an offset record number i < n of a bank with a stride, and which offset in the record? -/
def inBank (off base stride n : Nat) : Option (Nat × Nat) :=
  if base ≤ off ∧ off < base + stride * n then some ((off - base) / stride, (off - base) % stride) else none

/-- The RW fields of the 8-byte register at an offset that a plain write sets (R455): fields with a row
of their own are left out. -/
def rwMask (off : Nat) : Nat :=
  match off with
  | 0x18 => bitsMask 31 0
  | 0x28 => 0xF
  | 0x110 => 0xF
  | 0x011008 => bitsMask 63 0
  | 0x011018 => 3
  | 0x020010 => bitsMask 51 0
  | 0x020018 => bitsMask 19 0
  | 0x020028 => 0xF
  | 0x020100 => 0xFFF
  | 0x030808 => bitsMask 32 0
  | 0x040010 => 7
  | 0x050000 => 3 + bitsMask 15 8 + bitsMask 31 16 + bitsMask 37 32 + bitsMask 45 40
  | 0x050010 => 3
  | 0x060010 => 0xF
  | 0x070008 => bitsMask 38 0
  | 0x070020 => 1
  | _ =>
    match inBank off 0x010000 0x40 64, inBank off 0x0200D0 8 6, inBank off 0x030000 0x40 28,
      inBank off 0x051000 0x20 256 with
    | some (_, 0), _, _, _ => bitsMask 51 0 + bitsMask 60 56
    | some (_, 8), _, _, _ => bitsMask 51 0
    | some (_, 0x10), _, _, _ => bitsMask 27 16
    | _, some (_, 0), _, _ => bitsMask 63 0
    | _, _, some (_, 8), _ => 0xF
    | _, _, _, some (_, 0) => bitsMask 63 0
    | _, _, _, some (_, 8) => bitsMask 63 0
    | _, _, _, some (_, 0x10) => 7 + bitsMask 15 8 + bitsMask 31 16
    | _, _, _, _ =>
      match inBank off 0x053000 0x10 256, inBank off 0x054000 0x10 256, inBank off 0x600000 0x10000 8,
        inBank off 0x700000 0x10000 16 with
      | some (_, 0), _, _, _ => 7 + bitsMask 15 8 + bitsMask 23 16
      | some (_, 8), _, _, _ => bitsMask 39 0
      | _, some (_, 0), _, _ => bitsMask 63 0
      | _, some (_, 8), _, _ => bitsMask 43 0
      | _, _, some (_, 0x10), _ => 1
      | _, _, some (_, 0x18), _ => 0xFFFF
      | _, _, _, some (_, 0x30) => 0xF
      | _, _, _, _ => 0

/-- Fields of a register with RW or WO fields that have a row of their own: RG_CTL.EN, RG_ABORT,
FN_CTL.ABORT_ALL, MV_CH_HEAD, MV_CH_CTL.ABORT, CF_CMD, SK_MB_CMD, OB_SNAP_TRIG and OB_SINK_PTR. -/
def ownMask (off : Nat) : Nat :=
  match off with
  | 0x18 => bitsMask 32 32
  | 0x020008 => 7
  | 0x060018 => 3
  | 0x060028 => bitsMask 31 0
  | 0x070000 => 0xFF
  | _ =>
    match inBank off 0x010000 0x40 64, inBank off 0x030000 0x40 32 with
    | some (_, 0x10), _ => 1
    | some (_, 0x28), _ => bitsMask 16 0
    | _, some (_, 0) => bitsMask 51 0
    | _, some (_, 8) => bitsMask 4 4
    | _, _ => 0

/-- The W1C bits of the register at an offset (R456, R465). -/
def w1cMask (off : Nat) : Nat :=
  match off with
  | 0x20 => 0xF
  | 0x108 => 0xF
  | 0x011000 => bitsMask 63 0
  | 0x011010 => 3
  | 0x020020 => 0xF
  | 0x030800 => bitsMask 32 0
  | 0x040008 => 7
  | 0x050008 => 3
  | 0x060008 => 0xF
  | 0x070018 => 1
  | _ =>
    match inBank off 0x600000 0x10000 8, inBank off 0x700000 0x10000 16 with
    | some (_, 8), _ => 1
    | _, some (_, 0x28) => 0xF
    | _, _ => 0

/-- The reset value of a register's RW fields. -/
def regReset (off : Nat) : Nat :=
  if off = Reg.pwCtl then 0x3200
  else match inBank off 0x030000 0x40 28, inBank off 0x600000 0x10000 8 with
    | some (_, 8), _ => 0x8
    | _, some (_, 0x18) => 0x0400
    | _, _ => 0

/-- The RW fields of the register at an offset; State.regs holds the difference from the reset value. -/
def State.reg (s : State) (off : Nat) : Nat := (s.regs.get 0#64 off).toNat ^^^ regReset off

/-- The RW fields of a register set. -/
def State.setReg (s : State) (off v : Nat) : State :=
  { s with regs := s.regs.set 0#64 off (BitVec.ofNat 64 (v ^^^ regReset off)) }

/-- Some bits of a register's RW fields changed to those of v. -/
def State.setBits (s : State) (off mask v : Nat) : State :=
  s.setReg off ((s.reg off &&& (mask ^^^ (2 ^ 64 - 1))) ||| (v &&& mask))

/-- The RW fields of a register, those with a row of their own among them: RG_CTL.EN and OB_SINK_PTR.CONS. -/
def allRw (off : Nat) : Nat :=
  rwMask off + (if (inBank off 0x010000 0x40 64).map (·.2) = some 0x10 then 1 else 0) +
    (if off = Reg.obSinkPtr then bitsMask 31 0 else 0)

/-- A host error in a register access (R8): the RW fields of the register may take any value. -/
def State.scramble (s : State) (off : Nat) : State :=
  let (v, s) := s.draw
  s.setBits off (allRw off) v

/-! ### Fields that the parts read -/

/-- Field [hi:lo] of a register. -/
def State.regFld (s : State) (off hi lo : Nat) : Nat := fld (s.reg off) hi lo

def State.ringEn (s : State) (r : Nat) : Bool := bitOf (s.reg (Reg.rgCtl r)) 0
def State.setRingEn (s : State) (r : Nat) (b : Bool) : State := s.setBits (Reg.rgCtl r) 1 (bitAt b 0)
/-- Slots of ring r (R277). -/
def State.ringSize (s : State) (r : Nat) : Nat := 2 ^ s.regFld (Reg.rgSq r) 60 56
def State.sqAddr (s : State) (r : Nat) : Nat := s.regFld (Reg.rgSq r) 51 0
def State.cqAddr (s : State) (r : Nat) : Nat := s.regFld (Reg.rgCq r) 51 0
/-- The outstanding limit of ring r (R72). -/
def State.ringLimit (s : State) (r : Nat) : Nat := s.regFld (Reg.rgCtl r) 27 16 + 1

/-- The works of ring r: every admitted task whose record is not written. -/
def State.ringWorks (s : State) (r : Nat) : List (Nat × Work) :=
  s.works.filter fun e => match e.2.src with
    | .ring r' _ => r' == r
    | _ => false

/-- RG_STATUS.OUTSTANDING. -/
def State.outstanding (s : State) (r : Nat) : Nat := (s.ringWorks r).length

/-- The agents of a stack: MA(2n) and MA(2n + 1) (R14). -/
def stackAgents (st : Nat) : List Nat := if st < 8 then [2 * st, 2 * st + 1] else []

/-- A stack is present once one of its agents has reached ACTIVE (R320). -/
def State.stackPresent (s : State) (st : Nat) : Bool := (stackAgents st).any fun n => (s.agent n).present

/-- The capacity of a stack in bytes (R226, R320). -/
def State.stackCapacity (s : State) (st : Nat) : Nat :=
  match (stackAgents st).find? fun n => (s.agent n).present with
  | some n => (s.agent n).capGib * 2 ^ 30
  | none => 0

/-- FN_STATUS.READY (R463). -/
def State.ready (s : State) : Bool :=
  s.pwr.engineUp && ((List.range 16).all fun n => (s.link n).resetDone) && s.slots.current.isSome &&
    !s.slots.activating

/-- The READY notices of a change from one state to the next (15, FN_NOTICE). -/
def State.noteReady (new old : State) : State :=
  if new.ready && !old.ready then new.raise Reg.fnNotice 1
  else if old.ready && !new.ready then new.raise Reg.fnNotice 2
  else new

/-- The target takes writes: its domain is out of reset and runs (R295, R423). -/
def State.targetOn (s : State) : Bool := s.pwr.engineUp && !s.pwr.stopped

/-- Step 1 of R391 keeps rings and peers waiting: an activation or a teardown drains the block. -/
def State.quiescing (s : State) : Bool := s.slots.activating || s.slots.cmd.any fun c => c.op == 6

/-- Engines and arrays issue: no supply excursion of the engine domain stops them (R425). -/
def State.issuing (s : State) : Bool := !s.pwr.supply.contains .engine

end Sys2Proof.Machine
end

