-- ==== Sys2Proof/Machine/Flags.lean ====
section
/-! DEFINITION. The flag computations: FN_STATUS.PENDING, fn_irq (R272, R459) and FN_HEALTH (R427's table). -/

namespace Sys2Proof.Machine

open Sys2Proof

/-- The notice registers of a group of PENDING with the enable register beside each (15, R465). -/
def noticeGroup : Nat → List (Nat × Nat)
  | 0 => [(0x20, 0x28), (0x108, 0x110)]
  | 1 => [(0x011000, 0x011008), (0x011010, 0x011018)]
  | 2 => [(0x020020, 0x020028)]
  | 3 => [(0x030800, 0x030808)]
  | 4 => [(0x040008, 0x040010)]
  | 5 => [(0x050008, 0x050010)]
  | 6 => [(0x060008, 0x060010)]
  | 7 => [(0x070018, 0x070020)]
  | 8 => (List.range 8).map fun n => (Reg.sa n + 0x08, Reg.sa n + 0x10)
  | 9 => (List.range 16).map fun n => (Reg.ma n + 0x28, Reg.ma n + 0x30)
  | _ => []

/-- PENDING bit w: a notice of group w is set and enabled (R459). -/
def State.pendingBit (s : State) (w : Nat) : Bool :=
  (noticeGroup w).any fun p => s.noticeBits p.1 &&& s.reg p.2 != 0

/-- FN_STATUS.PENDING. -/
def State.pendingField (s : State) : Nat :=
  (List.range 10).foldl (fun v w => v + bitAt (s.pendingBit w) w) 0

/-- fn_irq: the OR of the PENDING bits (R272, R459), low while the domain is off (R295). -/
def State.fnIrq (s : State) : Bool := s.targetOn && s.pendingField != 0

/-- FN_HEALTH.SEVERITY: the highest severity among the reports that are not acknowledged. -/
def State.severity (s : State) : Nat := s.sk.reports.foldl (fun m r => max m r.severity) 0

/-- FN_HEALTH.PARKED. -/
def State.anyParked (s : State) : Bool := s.works.any fun e => e.2.isParked

end Sys2Proof.Machine
end

