-- ==== Sys2Proof/Machine/ReadReg.lean ====
section
/-! DEFINITION. What a target read returns (R454, R455, R460): every register composed from the state.
Reads are no rows of the table; this is the view that statements about registers use. -/

namespace Sys2Proof.Machine

open Sys2Proof

/-- The ordinal of an ongoing phase: is a descriptor's task phased, and is it a write task (R73)? -/
def TaskDesc.phase (d : TaskDesc) : Option Bool :=
  match d.kind with
  | some .gather => some false
  | some .score => some false
  | some .scatter => some true
  | _ => none

/-- The dispatcher must drain before it admits a task to a ring (R73). -/
def Ring.mustDrain (r : Ring) (d : TaskDesc) : Bool :=
  d.drain || d.kind == some .fence ||
    (match d.phase, r.phase with
      | some a, some b => a != b
      | _, _ => false)

/-- The next fetched descriptor of a ring. -/
def Ring.nextDesc (r : Ring) : Option TaskDesc :=
  match r.fetched with
  | (_, .bytes b) :: _ => some (TaskDesc.ofBytes b)
  | _ => none

/-- A ring whose next task waits for a drain (RG_STATUS.DRAINING). -/
def State.draining (s : State) (r : Nat) : Bool :=
  match (s.ring r).nextDesc with
  | some d => (s.ring r).mustDrain d && s.outstanding r != 0
  | none => false

/-- A ring whose next task may be admitted as far as its limit and its drains go (R72, R73). -/
def State.admissible (s : State) (r : Nat) : Bool :=
  s.ringEn r && ((s.ring r).fetched.head?.any fun e => e.2 != .reading) && s.outstanding r < s.ringLimit r && !s.draining r

/-- RG_STATUS (09). -/
def State.rgStatus (s : State) (r : Nat) : Nat :=
  put (s.ring r).fetch 32 0 + put (s.outstanding r) 13 32 + bitAt (s.draining r) 45 +
    bitAt (s.ring r).epochStop 46

/-- The image that the fields of an image show: the current one, also while an engine domain that was reset has not loaded
it again (R388, R455). -/
def State.shown (s : State) : Cfg := if s.cfg = Cfg.empty then (s.slots.current.map Cfg.ofImage).getD s.cfg else s.cfg

/-- The free selector blocks of an array that are not reserved (R164). -/
def State.selFree (s : State) (a : Nat) : Nat :=
  let used (f : Work → Bool) : Nat := ((s.array a).selUsed.filter fun e => (s.work e.1).any f).foldl (fun n e => n + e.2.2) 0
  if s.slots.current.isNone then 0
  else 64 - max s.shown.reserve.sel (used fun w => w.cls == 0) - used fun w => w.cls != 0

/-- DEPTH of a pair (R172). -/
def State.depth (s : State) (p : Nat) : Nat := (s.cfg.sems.get default p).depth

/-- SA_STATUS, SA_STALL_PAIR and SA_SEM of array n (05). -/
def State.saReg (s : State) (n off : Nat) : Nat :=
  let a := s.array n
  if off = 0x0000 then
    bitAt (s.arr.batches.any (fun b => b.arr == n) || a.selUsed != []) 0 + put (s.selFree n) 7 8
  else if off = 0x0020 then
    match a.stallPair with
    | some p => put p 10 0 + bitAt true 15
    | none => 0
  else match inBank off 0x1000 8 128 with
    | some (m, 0) =>
      let p := s.sem (128 * n + m)
      put p.fill 16 0 + put p.space 16 16 + put (s.shown.sems.get default (128 * n + m)).depth 16 32 + bitAt p.stalled 48
    | _ => 0

/-- MA_SC_STATUS (06). -/
def State.scStatus (s : State) : Nat :=
  let ringOf (i : Nat) : Option Nat := match s.scatter i with
    | some sc => (s.work sc.work).map fun w => match w.src with
      | .ring r _ => r
      | _ => 0
    | none => none
  let v0 := ringOf 0
  let v1 := ringOf 1
  let waits := v0.isSome && v1.isSome && (List.range 64).any fun r =>
    s.admissible r && ((s.ring r).nextDesc.any fun d => d.kind == some .scatter)
  put (bitAt v0.isSome 0 + bitAt v1.isSome 0) 2 0 + bitAt waits 2 + bitAt v0.isSome 8 +
    put (v0.getD 0) 6 9 + bitAt v1.isSome 15 + put (v1.getD 0) 6 16

/-- Journal lines of an entry: a header line and ⌈E ÷ 8⌉ data lines (R191). -/
def Entry.lines (e : Entry) : Nat := 1 + ceilDiv e.pairs.length 8

/-- Lines that a Crate uses. -/
def Crate.lines (c : Crate) : Nat := c.entries.foldl (fun n e => n + e.lines) 0

/-- A Crate that is committing (R197). -/
def Crate.committing (c : Crate) : Bool := c.st == .logging || c.st == .applying || c.st == .refreshing

/-- MA_JRNL[n] (06). -/
def State.jrnl (s : State) (n : Nat) : Nat :=
  let a := s.agent n
  let opens := (a.crates.filter fun c => c.st == .open_ || c.st == .sealing).map Crate.lines
  put (a.crates.countP fun c => c.st == .free) 3 0 + bitAt (a.crates.any Crate.committing) 3 +
    put (opens.foldl max 0) 17 8 + put a.commits 32 32

/-- Blocks of valid placed rows over the active tiles (CF_LARDER.PLACED_BLOCKS). -/
def State.placedBlocks (s : State) : Nat :=
  (List.range 48).foldl (fun n p => ((s.engine p).placed.filter Placed.valid).foldl (fun n e =>
    n + ((s.cfg.table e.table).map TableDesc.blocks).getD 0) n) 0

/-- CF_LARDER, CF_THROTTLE, CF_PROMO and CF_COLD (07). -/
def State.cfTier (s : State) (off : Nat) : Nat :=
  if off = 0x020200 then
    if s.slots.current.isNone then 0
    else put s.shown.placedUnits 6 0 + put (32 - s.shown.placedUnits) 6 8 + put s.placedBlocks 21 16
  else if off = 0x020208 then
    (List.range 24).foldl (fun v st => v + put (s.eng.stackLevels.get 0 st) 2 (2 * st + 8)) (put s.eng.block 2 0)
  else if off = 0x020210 then
    put (s.shown.trans.frames16G + s.shown.trans.frames256M) 10 0 +
      put (s.mov.frames.countP fun e => match e.2 with | .held _ => true | _ => false) 10 10 +
      bitAt (s.mov.frames.any fun e => match e.2 with | .copying _ _ => true | _ => false) 20
  else put s.mov.cold.length 12 0 + put s.mov.flight.length 10 12

/-- The code of a channel state (08). -/
def ChanSt.code : ChanSt → Nat
  | .idle => 0 | .running => 1 | .faultWait => 2 | .barrier => 3 | .stopping => 4

/-- MV_CH_CTL, MV_CH_STATUS and MV_CH_FAULT of channel n (08). CLASS reads as the register holds it, also while a
Porter-owned channel serves a task of another class (R258; DESIGN CHOICE, log entry 74). -/
def State.mvReg (s : State) (n off : Nat) : Nat :=
  let c := s.chan n
  let k := s.shown.chan n
  if off = 0x08 then
    let img := if s.slots.current.isNone then 0
      else if n ≥ 28 then put 2 2 12
      else put k.domain 4 8 + (if k.porterOwned then put 1 2 12 + put k.porter 4 16 else 0)
    (if n < 28 then s.reg (Reg.mvCtl n) else 8) + img
  else if off = 0x10 then
    let waits := c.st == .running && c.cur.isNone && c.ahead.isEmpty &&
      s.mov.faults.any fun e => e.2.any fun t => t.waiters.any fun w => w.own == .chanDesc n
    put (if waits then 2 else c.st.code) 3 0 + put c.code 3 4 + put (4 - c.heads.length) 3 8 + put c.last 32 32
  else if off = 0x18 then
    match c.fault with
    | some (a, need) => put a 52 0 + put need 3 52 + bitAt true 63
    | none => 0
  else 0

/-- TC_STATUS (08). -/
def State.tcStatus (s : State) : Nat :=
  let es := s.mov.tc.filterMap (·.2)
  put es.length 11 0 + put (es.countP TcEnt.locked) 7 11 + put (s.mov.faults.countP fun e => e.2.isSome) 6 18

/-- PW_CN[c].STATUS (09). -/
def State.cnStatus (s : State) (c : Nat) : Nat :=
  let k := s.conn c
  let st := if bitOf (s.reg (Reg.pwCn c + 0x10)) 0 then (if k.lost then 2 else 1) else 0
  put st 2 0 + put k.sent.length 9 2 + put k.expiries 4 16

/-- Spare lanes left in a direction. -/
def LinkDir.spares (d : LinkDir) : Nat := 4 - min 4 (popcount 52 d.bad)

/-- The code of a link state (10). -/
def LinkSt.code : LinkSt → Nat
  | .down => 0 | .active => 1 | .degraded => 2 | .retrain => 3

/-- MA_LINK_STATUS to MA_REMAP of agent n (10). -/
def State.maReg (s : State) (n off : Nat) : Nat :=
  let l := s.link n
  let a := s.agent n
  if off = 0x00 then
    put l.st.code 2 0 + bitAt l.out.half 2 + bitAt l.inb.half 3 + put l.out.spares 3 4 + put l.inb.spares 3 7 +
      bitAt (a.hold != []) 10 + bitAt (s.pwr.engineUp && l.st == .down) 11 + put l.retrains 16 16
  else if off = 0x08 then put l.out.bad 52 0
  else if off = 0x10 then put l.inb.bad 52 0
  else if off = 0x18 then put a.capGib 8 0 + put a.stackNo 5 8 + bitAt a.present 13
  else if off = 0x20 then put a.remap.length 9 0 + put a.repaired 9 9
  else 0

/-- The code of a Porter state (11). -/
def PorterSt.code : PorterSt → Nat
  | .idle => 0 | .running => 1 | .waitSem => 2 | .waitTicket => 3 | .waitMiss => 4 | .halting => 5

/-- CSR TICKETS (R355): tickets in use. -/
def Porter.ticketMask (p : Porter) : Nat :=
  p.tickets.zipIdx.foldl (fun v e => v + bitAt (e.1 != .free) e.2) 0

/-- The ring and slot of a task. -/
def Work.ringSlot (w : Work) : Nat × Nat :=
  match w.src with
  | .ring r sl => (r, sl)
  | _ => (0, 0)

/-- The Porter that runs the mailbox of Porter m: itself, or its partner once it is retired (R414). -/
def State.runner (s : State) (m : Nat) : Nat := if (s.porter m).retired then m ^^^ 1 else m

/-- The entries of Porter m's own mailbox. -/
def State.mailOf (s : State) (m : Nat) : List Mail := (s.porter (s.runner m)).mail.filter fun e => e.porter == m

/-- PC_STATUS, PC_TASK and PC_PC of Porter m (11). -/
def State.pcReg (s : State) (m off : Nat) : Nat :=
  let p := s.porter m
  if off = 0x00 then
    put p.st.code 3 0 + put (s.mailOf m).length 3 8 + put p.ticketMask 16 16 + bitAt p.cacheEn 32 +
      put (p.lines.countP DLine.dirty) 11 33
  else if off = 0x08 then
    match p.cur with
    | some e =>
      let (r, sl) := ((s.work e.work).map Work.ringSlot).getD (0, 0)
      put sl 16 0 + put r 6 16 + bitAt true 22 + bitAt e.share.isSome 23 + put p.entry 8 24
    | none => 0
  else if off = 0x10 then put p.pc 16 0 + (if p.st = .waitSem then put p.pair 10 16 else 0)
  else 0

/-- CF_SLOTS (12). -/
def State.cfSlots (s : State) : Nat :=
  let l := s.slots
  (match l.stagedSt with | .empty => 0 | .loading => 1 | .ready => 2 | .bad => 3) +
    bitAt l.current.isSome 2 + bitAt l.attic.isSome 3 + bitAt l.activating 4 + bitAt l.scrubbing 5 +
    put l.lastStatus 8 8 + put l.lastOp 3 16 + put l.generation 32 32

/-- The DIGEST bytes of an image (R378). -/
def digestOf (img : Bytes) : Bytes := slice img 80 48

/-- The image of slot i: 0 staged, 1 current, 2 Attic. -/
def Slots.image (l : Slots) (i : Nat) : Option Bytes :=
  match i with
  | 0 => if l.stagedSt = .ready ∨ l.stagedSt = .bad then some l.staged else none
  | 1 => l.current
  | _ => l.attic

/-- FN_SPARE and FN_UNITS_OUT (13). -/
def State.fnSpare (s : State) : Nat :=
  let posOf (n : Nat) := match s.eng.tiles.getD n .spare with
    | .active p => p
    | _ => 0x3F
  put (posOf 48) 6 0 + put (posOf 49) 6 8 + put (s.eng.tiles.countP fun t => t == .spare) 2 14

def State.fnUnitsOut (s : State) : Nat :=
  let mask (n : Nat) (f : Nat → Bool) := (List.range n).foldl (fun v i => v + bitAt (f i) i) 0
  put (mask 12 fun m => (s.porter m).retired) 12 0 + put (mask 8 fun a => (s.array a).retired) 8 16 +
    put (mask 16 fun n => (s.agent n).out) 16 32

/-- FN_HEALTH (13). -/
def State.fnHealth (s : State) : Nat :=
  put s.severity 2 0 + bitAt s.anyParked 2 + bitAt s.sk.skLost 3 + put s.sk.reportsSent 16 16

/-- FN_STATUS (15). -/
def State.fnStatus (s : State) : Nat :=
  bitAt s.ready 0 + bitAt s.slots.activating 1 + put s.eng.block 2 2 + put s.pendingField 10 16 +
    (List.range 24).foldl (fun v st => v + bitAt (s.stackPresent st) (32 + st)) 0

/-- GPE_STATUS of tile n (15, R464). -/
def State.gpeStatus (s : State) (n : Nat) : Nat :=
  match s.eng.tiles.getD n .spare with
  | .isolated => 0x3F + put 2 2 6
  | .spare => 0x3F + put 1 2 6
  | .active p =>
    let e := s.engine p
    put p 6 0 + put e.epoch 8 8 + put e.slots.length 10 16 +
      put (e.reuse.foldl (fun k r => k + max 1 (ceilDiv r.data.length 256)) 0) 9 26

/-- OB_STATUS to OB_TEMP (14). -/
def State.obReg (s : State) (off : Nat) : Nat :=
  let o := s.shown.observe
  match off with
  | 0x060000 => bitAt (o.sinkBase != 0) 0 + bitAt (o.snapBase != 0) 1 + bitAt (o.mirrorBase != 0) 2
  | 0x060020 =>
    let n := s.obs.snap
    (match n.st with | .idle => 0 | .latching => 1 | .sweeping => 2 | .done => 3) + bitAt n.incomplete 2 +
      put n.source 7 8 + put n.seq 32 32
  | 0x060028 => s.reg Reg.obSinkPtr
  | 0x060030 => put s.obs.prod 32 0 + put o.sinkLog2 5 32
  | 0x060038 => put s.sk.hottest 16 0 + put s.sk.sensor 6 16
  | _ => 0

/-- SK_MB_STATUS (14). -/
def State.mbStatus (s : State) : Nat :=
  bitAt s.sk.mbBusy.isSome 0 + put s.sk.mbResult 8 8 + put s.sk.mbData.length 13 16 + put s.sk.nextLog 32 32

/-- The count of the selected table (R64). -/
def State.tblCount (s : State) (k : Nat) : Nat :=
  let t := s.reg Reg.cfTblSel
  if (s.cfg.table t).isNone then 0 else (s.obs.drops.get 0#64 (2 * t + k)).toNat

/-- The link of an agent carries traffic. -/
def Link.up (l : Link) : Bool := l.st == .active || l.st == .degraded

/-- An agent's stack is in service: its link carries traffic, and repair at reset has ended (R345). -/
def State.inService (s : State) (n : Nat) : Bool := (s.link n).up && (s.agent n).repairDone

/-- The agent whose bank holds a counter (R443). -/
def bankAgent (i : Nat) : Option Nat :=
  if agentCounter 0 0 ≤ i ∧ i < agentCounter 16 0 then some ((i - agentCounter 0 0) / 128) else none

/-- A counter as a read gives it (R440): that of an agent is the latest value that it has forwarded. An agent forwards
while its link carries traffic. -/
def State.counter (s : State) (i : Nat) : Word :=
  match bankAgent i with
  | some n => if (s.link n).up then s.obs.counters.get 0#64 i else s.obs.forwarded.get 0#64 i
  | none => s.obs.counters.get 0#64 i

/-- The link of an agent is about to stop: what its bank has forwarded stays (R440). -/
def State.keepBank (s : State) (n : Nat) : State :=
  if (s.link n).up then
    { s with obs := { s.obs with
        forwarded := (List.range 128).foldl (fun t j =>
          t.set 0#64 (agentCounter n j) (s.obs.counters.get 0#64 (agentCounter n j))) s.obs.forwarded } }
  else s

/-- The 8-byte register at an aligned offset; a doorbell page and an offset that holds no register read
zero (R271, R460). -/
def State.reg8 (s : State) (off : Nat) : Nat :=
  if w1cMask off ≠ 0 then s.noticeBits off &&& w1cMask off
  else match off with
  | 0x0000 => 0x0004_0001_464E_5244
  | 0x0008 => 0x30 + put 48 8 8 + put 2 4 16 + put 8 4 20 + put 12 4 24 + put 16 5 28 + put 24 5 33 + put 8 6 38
  | 0x0010 => s.fnStatus
  | 0x0018 => s.reg off &&& bitsMask 31 0
  | 0x0100 => s.fnHealth
  | 0x0118 => s.fnSpare
  | 0x0120 => s.fnUnitsOut
  | 0x011020 => put s.host.epoch 16 0 + bitAt s.host.portUp 16
  | 0x020000 => s.cfSlots
  | 0x020108 => s.tblCount 0
  | 0x020110 => s.tblCount 1
  | 0x030810 => s.tcStatus
  | 0x040000 => s.scStatus
  | 0x070010 => s.mbStatus
  | _ =>
    if 0x020200 ≤ off ∧ off ≤ 0x020218 then s.cfTier off
    else if 0x060000 ≤ off ∧ off < 0x060040 ∧ rwMask off = 0 then s.obReg off
    else if 0x071000 ≤ off ∧ off < 0x072000 then leAt s.sk.mbData (off - 0x071000) 8
    else match inBank off 0x010000 0x40 64, inBank off 0x020040 0x30 3, inBank off 0x030000 0x40 32,
        inBank off 0x030900 8 24 with
      | some (r, 0x10), _, _, _ => s.reg off &&& (rwMask (Reg.rgCtl r) + 1)
      | some (r, 0x18), _, _, _ => s.rgStatus r
      | some (r, 0x20), _, _, _ => put (s.ring r).prod 32 0 + put (s.ring r).cpl 32 32
      | _, some (i, k), _, _ => leAt (((s.slots.image i).map digestOf).getD []) k 8
      | _, _, some (n, k), _ => s.mvReg n k
      | _, _, _, some (n, _) => (s.mov.stackBase.get 0#64 n).toNat
      | _, _, _, _ =>
        match inBank off 0x040100 8 16, inBank off 0x051000 0x20 256, inBank off 0x068000 8 4096,
            inBank off 0x100000 0x10000 50 with
        | some (n, _), _, _, _ => s.jrnl n
        | _, some (c, 0x18), _, _ => s.cnStatus c
        | _, _, some (i, _), _ => (s.counter i).toNat
        | _, _, _, some (n, 0) => s.gpeStatus n
        | _, _, _, _ =>
          match inBank off 0x500000 0x10000 12, inBank off 0x600000 0x10000 8,
              inBank off 0x700000 0x10000 16 with
          | some (m, k), _, _ => s.pcReg m k
          | _, some (n, k), _ => if rwMask off ≠ 0 then s.reg off &&& rwMask off else s.saReg n k
          | _, _, some (n, k) => if rwMask off ≠ 0 then s.reg off &&& rwMask off else s.maReg n k
          | _, _, _ => s.reg off &&& rwMask off

/-- A target read of 4 or 8 naturally aligned bytes (R271, R454). -/
def State.readReg (s : State) (off size : Nat) : Nat :=
  let v := s.reg8 (off / 8 * 8) % 2 ^ 64
  if size = 8 then v else fld v (8 * (off % 8) + 31) (8 * (off % 8))

end Sys2Proof.Machine
end

