-- ==== Sys2Proof/Machine/Observe.lean ====
section
/-! DEFINITION. Tally items and the latching of an Inventory (R444 to R451). -/

namespace Sys2Proof.Machine

open Sys2Proof

/-! ### Observation identifiers (R429) -/

/-- What an observation identifier names. -/
inductive UnitId where
  | engine (n : Nat) | porter (m : Nat) | array (a : Nat) | agent (n : Nat)
  | dispatch | steer | mover | host | peer | keeper | reserved
  deriving DecidableEq, Repr

/-- The assignment of R429. -/
def UnitId.ofId (i : Nat) : UnitId :=
  if i < 50 then .engine i
  else if 64 ≤ i ∧ i < 76 then .porter (i - 64)
  else if 80 ≤ i ∧ i < 88 then .array (i - 80)
  else if 96 ≤ i ∧ i < 112 then .agent (i - 96)
  else match i with
    | 112 => .dispatch | 113 => .steer | 114 => .mover | 115 => .host | 116 => .peer | 127 => .keeper
    | _ => .reserved

/-- The kind of R429. -/
def UnitId.kind : UnitId → Nat
  | .engine _ => 0 | .porter _ => 1 | .array _ => 2 | .agent _ => 3 | .dispatch => 4 | .steer => 5
  | .mover => 6 | .host => 7 | .peer => 8 | .keeper => 9 | .reserved => 15

/-- CLOCK of a latched record (R449). -/
def UnitId.clock : UnitId → Nat
  | .agent _ => 2 | .host => 1 | .peer => 3 | .keeper => 4 | _ => 0

/-- Every identifier that names a unit. -/
def unitIds : List Nat := (List.range 128).filter fun i => UnitId.ofId i != .reserved

/-- The Tally lost and corrected counters of a unit, for the units that have a bank (R443). -/
def UnitId.tallyCounters : UnitId → Option (Nat × Nat)
  | .engine n => some (tileCounter n 13, tileCounter n 14)
  | .porter m => some (porterCounter m 11, porterCounter m 12)
  | .array a => some (arrayCounter a 11, arrayCounter a 12)
  | .agent n => some (agentCounter n 22, agentCounter n 23)
  | _ => none

/-! ### Tally -/

/-- n Tally items of a unit lost (R446). -/
def State.tallyLost (s : State) (u n : Nat) : State :=
  let f := s.fifo u
  let s := s.setFifo u { f with lost := satAdd 0xFFFFFFFF f.lost n }
  match (UnitId.ofId u).tallyCounters with
  | some (c, _) => s.countN c n
  | none => s

/-- The image selects an event of a unit (R452). -/
def State.records (s : State) (u event : Nat) : Bool :=
  bitOf s.cfg.observe.unitEn u && bitOf (s.cfg.observe.eventMask.getD (UnitId.ofId u).kind 0) event

/-- An event that the image may select (R444 to R446): the item enters the unit's FIFO of 256, which
overwrites its oldest item when it is full. The items of a packet stay in it until the packet is written. -/
def State.tally (s : State) (u event arg0 arg1 : Nat) : State :=
  if s.records u event then
    let (cyc, s) := s.draw
    let f := s.fifo u
    let it : Item := ⟨event, arg0 % 2 ^ 16, f.next % 2 ^ 32, cyc % 2 ^ 48, arg1 % 2 ^ 16⟩
    let full := 256 ≤ f.items.length + f.pending.length
    let s := if full then s.tallyLost u 1 else s
    let f := s.fifo u
    let old := if full then f.items.drop 1 else f.items
    s.setFifo u { f with items := old ++ [it], next := f.next + 1 }
  else s

/-- A NOTICE item: a unit of another kind than an engine or an agent has set a notice. The spec gives it no arguments, so
they are free values (R445; log entry 60). -/
def State.tallyNotice (s : State) (u : Nat) : State :=
  if s.records u 2 then
    let (a, s) := s.draw
    let (b, s) := s.draw
    s.tally u 2 a b
  else s

/-- A corrected word of a Tally FIFO (R446). -/
def State.tallyCorrected (s : State) (u : Nat) : State :=
  let f := s.fifo u
  let s := s.setFifo u { f with corrected := satAdd 0xFFFFFFFF f.corrected 1 }
  match (UnitId.ofId u).tallyCounters with
  | some (_, c) => s.count c
  | none => s

/-- An item of a Tally FIFO with an uncorrectable error is discarded and counts as lost; which one is open (R446; log
entry 2). -/
def State.tallyDiscard (s : State) (u : Nat) : State :=
  let (v, s) := s.draw
  let f := s.fifo u
  if f.items = [] then s
  else (s.setFifo u { f with items := f.items.eraseIdx (v % f.items.length) }).tallyLost u 1

/-- The bytes of an item (R444). -/
def Item.bytes (it : Item) (u : Nat) : Bytes :=
  leBytes 1 it.event ++ leBytes 1 u ++ leBytes 2 it.arg0 ++ leBytes 4 it.seq ++ leBytes 6 it.cycles ++
    leBytes 2 it.arg1

/-! ### Latched records: the contents that R449 lists, laid end to end in its order (log entry 11) -/

/-- A bitmap of n bits. -/
def bitmap (n : Nat) (f : Nat → Bool) : Bytes :=
  leBytes (n / 8) ((List.range n).foldl (fun v i => v + bitAt (f i) i) 0)

/-- The body of an engine tile. -/
def State.engineBody (s : State) (n : Nat) : Bytes :=
  match s.eng.tiles.getD n .spare with
  | .active p =>
    let e := s.engine p
    let occ (c : Nat) := e.slots.countP fun x => x.2.any fun f => f.cls == c
    leBytes 4 p ++ leBytes 4 e.epoch ++ bitmap 512 (fun i => (e.slots.get none i).isSome) ++
      (List.range 4).flatMap (fun c => leBytes 2 (occ c)) ++
      fit 2048 (e.reuse.flatMap fun r => leBytes 8 (put r.addr 52 0 + bitAt (r.cls == 0) 62 + bitAt true 63))
  | _ => fit 2128 (leBytes 4 0x3F)

/-- The unit of a ticket by its code in a wide instruction (R363), 0xFF for a free one. -/
def State.ticketUnit (s : State) (m t : Nat) : Nat :=
  let op := s.works.find? fun e => match e.2.src with
    | .porter _ m' t' _ => m' == m && t' == t && !e.2.ended
    | _ => false
  match op with
  | some e => if e.2.desc.kind == some .score then 1 else 0
  | none =>
    let mine (u : Option (Nat × Nat × Nat)) : Bool := u.any fun x => x.1 == m && x.2.2 == t
    if s.mov.chans.any fun e => mine e.2.user || e.2.heads.any fun h => mine h.user then 2
    else if (s.porter m).tickets.getD t .free == .free then 0xFF else 0

/-- A mailbox entry: the fields that PC_TASK gives a task, and the number of its share. -/
def State.mailWord (s : State) (e : Mail) : Nat :=
  let (r, sl) := ((s.work e.work).map Work.ringSlot).getD (0, 0)
  put sl 16 0 + put r 6 16 + bitAt true 22 + bitAt e.share.isSome 23 + put (e.share.getD 0) 32 32

/-- The body of a Porter, whose CSR CYCLES reads as cyc. -/
def State.porterBody (s : State) (m cyc : Nat) : Bytes :=
  let p := s.porter m
  leBytes 8 0 ++ p.g.flatMap (leBytes 8) ++ leBytes 8 p.pc ++ leBytes 8 ((p.cur.map Mail.porter).getD m) ++
    leBytes 8 (bitAt p.cacheEn 0) ++ leBytes 8 p.ticketMask ++ leBytes 8 cyc ++
    ((List.range 16).flatMap fun t => leBytes 1 (s.ticketUnit m t)) ++
    fit 32 ((s.mailOf m).flatMap fun e => leBytes 8 (s.mailWord e))

/-- The body of an array. -/
def State.arrayBody (s : State) (a : Nat) : Bytes :=
  (List.range 128).flatMap (fun m => leBytes 8 (s.saReg a (0x1000 + 8 * m))) ++
    ((s.array a).selUsed.flatMap fun e => leBytes 4 e.1 ++ leBytes 4 e.2.1 ++ leBytes 4 e.2.2) ++
    ((s.arr.batches.filter fun b => b.arr == a).flatMap fun b => leBytes 4 b.work ++ leBytes 4 b.done)

/-- The code of a Crate state, in the order of R197. -/
def CrateSt.code : CrateSt → Nat
  | .free => 0 | .open_ => 1 | .sealing => 2 | .sealed => 3 | .overflowed => 4 | .logging => 5
  | .applying => 6 | .refreshing => 7

/-- The body of an agent. -/
def State.agentBody (s : State) (n : Nat) : Bytes :=
  let a := s.agent n
  leBytes 8 (s.maReg n 0) ++ leBytes 8 (s.link n).out.bad ++ leBytes 8 (s.link n).inb.bad ++
    (a.crates.flatMap fun c => leBytes 1 c.st.code ++ leBytes 1 c.slot ++ leBytes 2 0 ++ leBytes 4 c.epoch ++
      leBytes 4 c.lines ++ leBytes 4 c.entries.length) ++
    fit 1024 (a.hold.flatMap fun h => leBytes 8 h.msg.addr ++ leBytes 1 h.msg.mtype ++ leBytes 1 h.msg.cls ++
      leBytes 2 h.msg.len ++ leBytes 4 h.msg.tag) ++ leBytes 4 a.dir.length ++ leBytes 4 a.remap.length ++
    fit 2048 (a.remap.flatMap fun r => leBytes 4 (r.1 / 4096) ++ leBytes 4 (r.2 / 4096))

/-- The sensor data of R439. -/
def Keeper.sensorData (k : Keeper) : Bytes :=
  k.temps.flatMap (leBytes 2) ++ fit 64 (k.supplies.flatMap (leBytes 2)) ++ k.eyes.flatMap (leBytes 2)

/-- The Storekeeper reads its monitors: the voltages of the 19 supplies in mV and the smallest eye margin of each link
and direction are what it measures, free values (R430, R439, R468; log entry 2). -/
def State.sense (s : State) : State :=
  let read (i : Nat) : Nat := (Config.freeValue (s.fresh + i)).toNat % 2 ^ 16
  { s with
    fresh := s.fresh + 51
    sk := { s.sk with supplies := (List.range 19).map read, eyes := (List.range 32).map fun i => read (19 + i) } }

/-- The body of a unit's latched record; cyc is the CSR CYCLES of a Porter. -/
def State.unitBody (s : State) (i cyc : Nat) : Bytes :=
  match UnitId.ofId i with
  | .engine n => s.engineBody n
  | .porter m => s.porterBody m cyc
  | .array a => s.arrayBody a
  | .agent n => s.agentBody n
  | .dispatch => (List.range 64).flatMap (fun r =>
      leBytes 4 (s.ring r).fetch ++ leBytes 4 (s.outstanding r) ++ leBytes 4 (s.ring r).cpl ++
        leBytes 4 (bitAt (s.draining r) 0)) ++
      (List.range 2).flatMap fun i => (((s.scatter i).map Scatter.cuts).getD []).flatMap (leBytes 4)
  | .steer => (List.range 64).flatMap (fun i => leBytes 2 (s.disp.tokens.get 0 i)) ++
      leBytes 2 s.disp.overflow.length
  | .mover => (List.range 32).flatMap (fun n => leBytes 8 (s.mvReg n 0x10)) ++
      leBytes 4 s.mov.cold.length ++ leBytes 4 s.mov.flight.length
  | .host => (List.range 4).flatMap fun c =>
      leBytes 4 (s.hiChan c).credits ++ leBytes 4 (s.hiChan c).beats ++
        leBytes 4 ((s.hiChan c).flight.countP fun e => e.2.any fun r => r.ty == .read) ++
        leBytes 4 s.host.epoch
  | .peer => (List.range 256).flatMap fun c => leBytes 8 (s.cnStatus c)
  | .keeper => s.sk.sensorData ++ leBytes 4 s.sk.nextLog
  | .reserved => []

/-- The frequency of a unit's clock in kHz (R16); an mclk lies anywhere in its range. -/
def UnitId.freqKhz (u : UnitId) (free : Nat) : Nat :=
  match u.clock with
  | 0 => 2000000 | 1 => 1600000 | 2 => 1200000 + free % 800001 | 3 => 1000000 | _ => 400000

/-- A latched record of 4 KiB (R449); CYCLES, that of a Porter's CSRs too, is a free value. -/
def State.latch (s : State) (i : Nat) (late : Bool) : Bytes × State :=
  let s := if i = 127 then s.sense else s
  let (cyc, s) := s.draw
  let (own, s) := s.draw
  let (v, s) := s.draw
  let freq := (UnitId.ofId i).freqKhz v
  let body := if late then [] else (s.unitBody i own).take 4032
  let u := UnitId.ofId i
  (fit 4096 (fit 64 (leBytes 1 i ++ leBytes 1 u.kind ++ leBytes 1 u.clock ++
    leBytes 1 (bitAt (!late) 0 + bitAt late 1) ++ leBytes 4 s.obs.snap.seq ++ leBytes 8 cyc ++
    leBytes 4 (s.fifo i).next ++ leBytes 4 freq ++ leBytes 4 body.length) ++ body), s)

/-- A latched record added to the writes of the Inventory. -/
def State.latchUnit (s : State) (i : Nat) (late : Bool) : State :=
  let (b, s) := s.latch i late
  s.modSnap fun n => { n with writes := n.writes ++ [(n.base + 4096 * i, b)], incomplete := n.incomplete || late }

/-! ### Copies (R450) -/

/-- A translation copy entry (R450). -/
def TcEnt.copyBytes (e : TcEnt) : Bytes :=
  leBytes 8 (1 + bitAt e.locked 1 + bitAt e.mot 2 + bitAt e.big 3 + put e.space 4 4 + put e.pasid 20 8 +
    bitAt e.r 28 + bitAt e.w 29 + bitAt e.a 30 + put e.touch 16 32) ++
    leBytes 8 (put (e.va / 2 ^ 28) 20 0 + put (e.pa / 2 ^ 28) 24 24)

/-- A fault table entry (R450): state, PASID, space, page address and waiter count. -/
def FaultEnt.copyBytes (e : FaultEnt) : Bytes :=
  fit 32 (leBytes 1 (if e.walking then 2 else 1) ++ leBytes 1 e.space ++ leBytes 2 0 ++ leBytes 4 e.pasid ++
    leBytes 8 e.va ++ leBytes 8 e.waiters.length)

/-- The header line of an entry (R191). -/
def Entry.headerLine (e : Entry) : Bytes :=
  fit 64 (leBytes 8 e.addr ++ leBytes 4 e.merged ++ leBytes 2 (e.pairs.length - 1) ++
    leBytes 1 (bitAt (e.pairs.any fun p => p.lo != 0) 0))

/-- The copies of the Farnum die (R450). -/
def State.dieCopies (s : State) (base : Nat) : List (Nat × Bytes) :=
  (List.range 1024).map (fun i => (base + 0x80000 + 16 * i, ((s.tcEnt i).map TcEnt.copyBytes).getD (zeros 16))) ++
    (List.range 32).map (fun i =>
      (base + 0x84000 + 32 * i, ((s.faultEnt i).map FaultEnt.copyBytes).getD (zeros 32))) ++
    (List.range 4096).map fun i => (base + 0x90000 + 8 * i, leBytes 8 (s.counter i).toNat)

/-- The copies of agent n (R450). -/
def State.agentCopies (s : State) (base n : Nat) (late : Bool) : List (Nat × Bytes) :=
  let at_ := base + 0x100000 + 0x400000 * n
  let a := s.agent n
  (at_, fit 64 (leBytes 1 (bitAt (!late) 0))) ::
    (if late then [] else
      ((List.range 4).flatMap fun k => ((a.crates.getD k Crate.empty).entries.zipIdx.map fun e =>
        (at_ + 0x10000 + 0x80000 * k + 64 * e.2, e.1.headerLine))) ++
      [(at_ + 0x210000, fit 65536 (a.touch.flatMap fun t => leBytes 8 t.1 ++ leBytes 4 t.2.1 ++ leBytes 4 t.2.2))])

/-- A unit of an agent latches with its copies. -/
def State.latchAgent (s : State) (n : Nat) (late : Bool) : State :=
  let s := s.latchUnit (96 + n) late
  s.modSnap fun k => { k with
    writes := k.writes ++ s.agentCopies k.base n late, waiting := k.waiting.filter (· != n) }

/-! ### The trigger -/

/-- An agent's link carries no traffic any more (R448, R450): an agent that has not latched is late, and the part of
one that has, not copied before the sweep, leaves COMPLETE = 0. -/
def State.dropPart (s : State) (n : Nat) : State :=
  if s.obs.snap.st ≠ .latching then s
  else if s.obs.snap.waiting.contains n then s.latchAgent n true
  else
    let lo := s.obs.snap.base + 0x100000 + 0x400000 * n
    let mine (w : Nat × Bytes) : Bool := lo ≤ w.1 && w.1 < lo + 0x400000
    s.modSnap fun k => { k with
      writes := (k.writes.filter fun w => !mine w) ++ [(lo, zeros 64)], incomplete := true }

/-- An Inventory trigger from a source (R447, R448): missed when one is in progress or the image gives no
area; otherwise every unit of the Farnum die latches, and each agent whose link is up waits for its next
CONTROL flit. The flag says whether it was taken. Whether a trigger that finds the units latching came in the eclk cycle
of the one that made them latch, and so makes one Inventory with it, is a free choice (log entry 2). -/
def State.snapTrigger (s : State) (source : Nat) : State × Bool :=
  let (v, s) := s.draw
  if s.obs.snap.st = .latching ∧ bitOf v 0 then
    (s.modSnap fun n => { n with source := n.source ||| 2 ^ source }, true)
  else if s.obs.snap.st ≠ .idle ∨ s.cfg.observe.snapBase = 0 then
    ((s.count 0x069).raise Reg.obNotice 8, false)
  else
    let agents := List.range 16
    let s := s.count 0x068
    let s := s.modSnap fun n => { n with
      st := .latching, incomplete := false, source := 2 ^ source, seq := (n.seq + 1) % 2 ^ 32
      base := s.cfg.observe.snapBase, writes := [], waiting := agents.filter fun k => (s.link k).up, unacked := 0 }
    let s := s.each (unitIds.filter fun i => i < 96 || 112 ≤ i) fun s i => s.latchUnit i false
    let s := s.modSnap fun n => { n with writes := n.writes ++ s.dieCopies n.base }
    (s.each (agents.filter fun k => !(s.link k).up) fun s k => s.latchAgent k true, true)

end Sys2Proof.Machine
end

