-- ==== Sys2Proof/Machine/Place.lean ====
section
/-! DEFINITION. Device addresses (R237), the owning agent (R314, R315), where a byte lies (R340), and the storing of
bytes. -/

namespace Sys2Proof.Machine

open Sys2Proof

/-- The space of a device address (R237). -/
def spaceOf (a : Nat) : Nat := fld a 51 48

/-- The stack of a Store Room address (R237). -/
def stackOf (a : Nat) : Nat := fld a 47 37

/-- The offset in the stack (R237). -/
def stackOff (a : Nat) : Nat := fld a 36 0

/-- The agent by address: MA(2n + b), with b bit [12] of the offset (R314, R315). -/
def homeAgent (a : Nat) : Nat := 2 * stackOf a + fld a 12 12

/-- The agent that acts for agent n: its partner while it is out of service (R419). -/
def State.ownerOf (s : State) (n : Nat) : Nat := if (s.agent n).out then n ^^^ 1 else n

/-- The agent that serves an address. -/
def State.ownerAgent (s : State) (a : Nat) : Nat := s.ownerOf (homeAgent a)

/-- The remap entries of a stack: its two agents hold the same, and one that was reset alone holds none until they are
installed again (R340, R343). -/
def State.remaps (s : State) (st : Nat) : List (Nat × Nat) := (stackAgents st).flatMap fun n => (s.agent n).remap

/-- Where a byte lies: a remapped unit goes to its frame (R340). -/
def State.phys (s : State) (a : Nat) : Nat :=
  if spaceOf a ≠ 0 then a
  else
    let off := stackOff a
    match (s.remaps (stackOf a)).find? fun e => e.1 == off / 4096 * 4096 with
    | some (_, frame) => a - off + frame + off % 4096
    | none => a

/-- One byte written. -/
def State.storeByte (s : State) (a : Nat) (b : Byte) : State :=
  { s with mem := Memory.put s.mem (s.phys a) b }

/-- Bytes written from an address on. -/
def State.store (s : State) : Nat → Bytes → State
  | _, [] => s
  | a, b :: bs => (s.storeByte a b).store (a + 1) bs

end Sys2Proof.Machine
end

