-- ==== Sys2Proof/Machine/Keep.lean ====
section
/-! DEFINITION. What the Storekeeper does for every part: log records (R431 to R433), board retire reports
(R398 to R400), Inventory triggers with their log record (R447), and the parking of work (R416). -/

namespace Sys2Proof.Machine

open Sys2Proof

/-! ### The log -/

/-- The 64 bytes of a log record (R431). -/
def LogRec.bytes (r : LogRec) : Bytes :=
  fit 64 (leBytes 4 r.seq ++ leBytes 8 r.time ++ leBytes 1 r.source ++ leBytes 1 r.severity ++
    leBytes 2 r.code ++ r.payload)

/-- The records that wait for the mirror reach it, in order, as far as the agents of their addresses are in service
(R433; log entry 65). -/
def State.mirrorGo (s : State) : State :=
  let ws := s.obs.mirror.takeWhile fun w => s.inService (s.ownerAgent w.1)
  ({ s with obs := { s.obs with mirror := s.obs.mirror.drop ws.length } }).each ws fun s w => s.store w.1 w.2

/-- A log record written, and then mirrored when the image gives a mirror (R431, R433). TIME is a free value
(log entry 2), since the model has no clock. -/
def State.log (s : State) (source severity code : Nat) (payload : Bytes) : State :=
  let (t, s) := s.draw
  let r : LogRec := ⟨s.sk.nextLog, t, source, severity, code, fit 48 payload⟩
  let s := s.count 0x06B
  let s := s.modSk fun k => { k with
    log := (if k.log.length < 1024 then k.log else k.log.drop 1) ++ [r]
    nextLog := (k.nextLog + 1) % 2 ^ 32 }
  let o := s.cfg.observe
  if o.mirrorBase = 0 then s
  else
    let w := (o.mirrorBase + 64 * (r.seq % 2 ^ o.mirrorLog2), r.bytes)
    { s with obs := { s.obs with mirror := s.obs.mirror ++ [w] } }.mirrorGo

/-- An Inventory trigger from a source (R447); an Inventory taken is logged once (R432). -/
def State.trigger (s : State) (source : Nat) : State × Bool :=
  let first := s.obs.snap.st == .idle
  let (s, ok) := s.snapTrigger source
  if ok && !first then (s, true)
  else if ok then (s.log 127 0 0x0040 (leBytes 4 s.obs.snap.seq ++ leBytes 1 source), true) else (s, false)

/-- A notice that the image may select as a trigger: bit k of SNAP_SOURCES (R447, source 2). -/
def State.snapNotice (s : State) (k : Nat) : State :=
  if bitOf s.cfg.observe.snapSources k then (s.trigger 2).1 else s

/-- A hardware set of notice bits of which some may trigger an Inventory: bit k of SNAP_SOURCES. -/
def State.notice (s : State) (off bits k : Nat) : State := (s.raise off bits).snapNotice k

/-! ### Reports -/

/-- The severity of a cause (R399). -/
def causeSeverity (cause : Nat) : Nat :=
  if cause ∈ [0x01, 0x02, 0x04, 0x05, 0x0F] then 1
  else if cause ∈ [0x03, 0x06, 0x07, 0x08, 0x0E] then 2
  else 3

/-- The observation identifier of the unit that a report concerns (R429, R431). -/
def causeSource (cause unit : Nat) : Nat :=
  if cause ∈ [0x01, 0x02] then unit
  else if cause ∈ [0x03, 0x04, 0x05, 0x06, 0x0B] then 96 + unit
  else if cause ∈ [0x07, 0x10] then 64 + unit
  else if cause = 0x08 then 80 + unit
  else if cause = 0x0D ∧ 0x0100 ≤ unit then unit - 0x0100
  else 127

/-- The 64-byte body of a report (R399). -/
def Report.bytes (r : Report) : Bytes :=
  fit 64 (leBytes 1 r.severity ++ leBytes 1 r.cause ++ leBytes 2 r.unit ++ leBytes 4 r.seq ++
    leBytes 8 r.time ++ leBytes 8 r.rings ++ leBytes 8 r.detail0 ++ leBytes 8 r.detail1 ++
    leBytes 4 r.parked ++ leBytes 8 r.streams)

/-- The first send of a report (R400): its notice, its counts, its log record, and the message with its
in-band interrupt (R434). -/
def State.sendReport (s : State) (r : Report) : State :=
  let s := (s.raise Reg.fnHealthNotice 1).count 0x066
  let s := s.modSk fun k => { k with
    reports := k.reports ++ [r], reportsSent := satAdd 0xFFFF k.reportsSent 1, out := k.out ++ [.interrupt, .report r] }
  let s := s.log (causeSource r.cause r.unit) r.severity 0x0001 (r.bytes.take 48)
  s.snapNotice 0

/-- What the sender of a report gives with it. -/
structure Note where
  unit : Nat
  rings : Nat := 0
  detail0 : Nat := 0
  detail1 : Nat := 0
  parked : Nat := 0
  streams : Nat := 0

/-- A report of a cause: sent at once, or when the Storekeeper runs again (R424). -/
def State.report (s : State) (cause : Nat) (n : Note) : State :=
  let (t, s) := s.draw
  let r : Report := ⟨causeSeverity cause, cause, n.unit, s.sk.nextReport, t, n.rings, n.detail0, n.detail1,
    n.parked, n.streams⟩
  let s := s.modSk fun k => { k with nextReport := (k.nextReport + 1) % 2 ^ 32 }
  if s.sk.up && !s.sk.skLost then s.sendReport r
  else s.modSk fun k => { k with waiting := k.waiting ++ [r] }

/-- The reports that waited for the Storekeeper are sent (R424). -/
def State.sendWaiting (s : State) : State :=
  let rs := s.sk.waiting
  (s.modSk fun k => { k with waiting := [] }).each rs State.sendReport

/-! ### Throttle levels and issue ramps (R29, R234 to R236) -/

/-- The fraction of eclk cycles in which classes 1 and 2, and class 3, may issue at a level, in 1/65,536 (R235). -/
def issueRate (level : Nat) : Nat × Nat :=
  match level with
  | 0 => (65536, 65536)
  | 1 => (49152, 49152)
  | 2 => (32768, 16384)
  | _ => (16384, 8192)

/-- The level at the issue points that k names: 0 those of the block, 1 + st those that concern stack st (R235). -/
def State.levelAt (s : State) (k : Nat) : Nat :=
  if k = 0 then s.eng.block else max s.eng.block (s.eng.stackLevels.get 0 (k - 1))

/-- The fractions that a ramp allows now: in step i of R29, which the model numbers i - 1, i eighths of the way. -/
def Ramp.now (r : Ramp) : Nat × Nat :=
  (((7 - r.step) * r.start + (r.step + 1) * r.target) / 8, ((7 - r.step) * r.start3 + (r.step + 1) * r.target3) / 8)

/-- A ramp of a position from some fractions to those of the level in force (R29). A ramp that has run its eight
steps is not kept. -/
def State.startRamp (s : State) (pos k : Nat) (from_ : Nat × Nat) : State :=
  let (t, t3) := issueRate (s.levelAt k)
  s.modEng fun e => { e with ramps := e.ramps.set Ramp.idle (pos + 64 * k) ⟨from_.1, t, from_.2, t3, 0⟩ }

/-- The issue of a position starts or resumes from nothing, at every issue point: a ramp that runs goes on from the
fraction that it allows at this instant (R29). -/
def State.rampFrom0 (s : State) (p : Nat) : State :=
  s.each (List.range 25) fun s k =>
    let r := s.eng.ramps.get Ramp.idle (p + 64 * k)
    s.startRamp p k (if r.step < 8 then r.now else (0, 0))

/-- Ramps at every position whose issue resumes after a drain (R29). -/
def State.rampAll (s : State) : State := s.each (List.range 48) State.rampFrom0

/-- A ramp under a level that has risen: the higher level holds at once, so that the ramp goes no further than it allows,
and ends where it has passed that (R236). -/
def Ramp.under (r : Ramp) (t : Nat × Nat) : Ramp :=
  if r.step = 8 ∨ t.1 ≤ r.now.1 then Ramp.idle else { r with target := min r.target t.1, target3 := min r.target3 t.2 }

/-- A throttle level set (R234, R236): none names the block. A change is logged (R432) and recorded (R445); a level
that enters 2 or higher sets BOUND_LOST; where the level in force falls, ramps begin at the fraction allowed at this
instant. -/
def State.setLevel (s : State) (st : Option Nat) (level : Nat) : State :=
  let old := match st with
    | none => s.eng.block
    | some n => s.eng.stackLevels.get 0 n
  if old = level then s
  else
    let ks := 0 :: (List.range 24).map (· + 1)
    let before := ks.map fun k => (k, s.levelAt k)
    let s := s.modEng fun e => match st with
      | none => { e with block := level }
      | some n => { e with stackLevels := e.stackLevels.set 0 n level }
    let fell := before.filter fun b => s.levelAt b.1 < b.2
    let rose := before.filter fun b => b.2 < s.levelAt b.1
    let s := s.each rose fun s b => s.modEng fun e => { e with
      ramps := (List.range 48).foldl (fun m p => m.modify Ramp.idle (p + 64 * b.1) fun r => r.under (issueRate (s.levelAt b.1))) e.ramps }
    let s := s.each fell fun s b => s.each (List.range 48) fun s p =>
      let r := s.eng.ramps.get Ramp.idle (p + 64 * b.1)
      s.startRamp p b.1 (if r.step < 8 then r.now else issueRate b.2)
    let code := st.getD 0xFF
    let s := if old < 2 ∧ 2 ≤ level then s.raise Reg.fnNotice 8 else s
    let s := s.log 127 0 0x0020 (leBytes 1 code ++ leBytes 1 level)
    s.each (List.range 50) fun s t => s.tally t 15 level code

/-! ### Works by ring -/

/-- The ring bit of a piece of work, when it is a ring task (or belongs to one). -/
def State.ringBit (s : State) (w : Nat) : Nat :=
  match (s.work w).map Work.src with
  | some (.ring r _) => 2 ^ r
  | some (.porter p _ _ _) =>
    match (s.work p).map Work.src with
    | some (.ring r _) => 2 ^ r
    | _ => 0
  | _ => 0

/-- RINGS of a report over some works (R399). -/
def State.ringMask (s : State) (ws : List Nat) : Nat := ws.foldl (fun m w => m ||| s.ringBit w) 0

/-- The class 0 stream bit of a piece of work. -/
def State.streamBit (s : State) (w : Nat) : Nat :=
  match (s.work w).map Work.src with
  | some (.class0 _ st) => 2 ^ st
  | _ => 0

/-- Some units have served a piece of work since their last good known-answer check (R408). -/
def State.served (s : State) (units : List Nat) (w : Nat) : State :=
  s.each units.eraseDups fun s u =>
    let h := s.unit u
    s.setUnit u { h with rings := h.rings ||| s.ringBit w, streams := h.streams ||| s.streamBit w }

/-- A piece of work parked for a cause (R416): it stays outstanding, with a notice, a count and a trigger.
One that is parked already takes the cause as one more. -/
def State.park (s : State) (w : Nat) (c : ParkCause) : State :=
  match s.work w with
  | some k =>
    if k.isParked then s.setWork w { k with parked := if k.parked.contains c then k.parked else k.parked ++ [c] }
    else (((s.setWork w { k with parked := [c] }).raise Reg.fnHealthNotice 2).count 0x007).snapNotice 1
  | none => s

/-! ### Peer packets -/

/-- The UDP payload of a peer packet (R303), with its CRC-32C. -/
def peerPacket (ty dconn psn ack sack addr len aux : Nat) (data : Bytes) : Bytes :=
  let h := leBytes 1 (1 + put ty 4 4) ++ zeros 1 ++ leBytes 2 dconn ++ leBytes 4 psn ++ leBytes 4 ack ++
    leBytes 4 sack ++ leBytes 8 addr ++ leBytes 2 len ++ leBytes 2 aux
  h ++ leBytes 4 (crc32c (h ++ zeros 4 ++ data)).toNat ++ data

/-- RCONN, PORT and the remote side of connection c (09). -/
def State.cnRconn (s : State) (c : Nat) : Nat := s.regFld (Reg.pwCn c + 0x10) 15 8
def State.cnPort (s : State) (c : Nat) : Nat := s.regFld (Reg.pwCn c + 0x10) 2 2
def State.cnValid (s : State) (c : Nat) : Bool := bitOf (s.reg (Reg.pwCn c + 0x10)) 0

/-- Block counter j of Peer Port p (R442). -/
def peerCounter (p j : Nat) : Nat := 0x020 + 16 * p + j

/-- A packet queued at the port of connection c. -/
def State.queuePeer (s : State) (c kind : Nat) (payload : Bytes) : State :=
  let p := s.cnPort c
  let q := s.port p
  s.setPort p { q with queue := q.queue ++ [⟨kind, c, payload, none, none⟩] }

/-- MAXDATA in bytes. -/
def State.maxData (s : State) : Nat := if bitOf (s.reg Reg.pwCtl) 1 then 4096 else 1024

/-! ### The end of a configuration command -/

/-- The UDP payload of a MGMT packet (R303, R310): TYPE 8, KEY_ID, SEQ, one MCTP message, and TAG over header bytes 0 to
27 and the body before it. -/
def mgmtPacket (dconn : Nat) (kb : Bytes) (key seq : Nat) (msg : Bytes) : Bytes :=
  let signed := leBytes 1 key ++ zeros 7 ++ leBytes 8 seq ++ msg
  let h := (peerPacket 8 dconn 0 0 0 0 (signed.length + 32) 0 []).take 28
  peerPacket 8 dconn 0 0 0 0 (signed.length + 32) 0 (signed ++ hmacSha256 kb (h ++ signed))

/-- A message sent to the board of connection c in the protected class (R310, R312), under a key and with a SEQ above
every one sent under it. How much above is a free value (log entry 55). -/
def State.sendMgmtPacket (s : State) (c key : Nat) (msg : Bytes) : State :=
  match s.sk.hmac.getD key none with
  | some (kb, _) =>
    let (v, s) := s.draw
    let seq := (s.sk.seqs.getD key 0 + 1 + v) % 2 ^ 64
    (s.modSk fun k => { k with seqs := k.seqs.set key seq }).queuePeer c 1
      (mgmtPacket (s.cnRconn c) kb key seq msg)
  | none => s

/-- A response to a management message (R435). It goes out over I3C, or answers the oldest message of the protected class
that waits at a Peer Port; which of them it answers is a free value (log entry 55). -/
def State.respond (s : State) (code status : Nat) (body : Bytes) : State :=
  let s := s.modSk fun k => { k with out := k.out ++ [.response code status body] }
  let (v, s) := s.draw
  let m := leBytes 1 code ++ leBytes 1 status ++ body
  match [0, 1].find? fun p => !(s.port p).mgmtIn.isEmpty with
  | some p =>
    if v % 2 = 0 || s.maxData < m.length + 48 then s
    else
      let q := s.port p
      (s.setPort p { q with mgmtIn := q.mgmtIn.drop 1 }).each (q.mgmtIn.take 1) fun s x =>
        s.sendMgmtPacket x.1 x.2.1 m
  | none => s

/-- A command ends (R390): LAST_STATUS, LAST_OP, CF_NOTICE.DONE, and the response to a management request (R435). A
restart leaves LAST_OP (R388). -/
def State.endCmd (s : State) (op status : Nat) (mgmt : Bool) : State :=
  let s := (s.modSlots fun l => { l with
    lastStatus := status, lastOp := if op = 0 then l.lastOp else op }).raise Reg.cfNotice 1
  if mgmt then s.respond 0x06 status [] else s

/-- A log record of an image that reached the staged slot, or failed (R432). -/
def State.logImage (s : State) (img : Bytes) (status : Nat) : State :=
  if status = 0 then s.log 127 0 0x0010 (slice img 24 8 ++ slice img 80 32)
  else s.log 127 0 0x0011 (leBytes 1 status)

/-- A STAGE ends without an image (R390). -/
def State.stageFails (s : State) (status : Nat) : State :=
  match s.slots.cmd with
  | some ⟨1, mgmt, _, _⟩ =>
    ((s.modSlots fun l => { l with stagedSt := .empty, staged := [], cmd := none }).logImage [] status).endCmd 1 status mgmt
  | _ => s

end Sys2Proof.Machine
end

