-- ==== Sys2Proof/Machine/Mailbox.lean ====
section
/-! DEFINITION. The Storekeeper mailbox (R439) and what the Storekeeper answers from its own data: log records,
sensors, firmware and key slots, and reports. -/

namespace Sys2Proof.Machine

open Sys2Proof

/-- The Storekeeper runs (R424). -/
def State.skOn (s : State) : Bool := s.sk.up && !s.sk.skLost

/-- The SVN of a firmware copy. -/
def Keeper.svn (k : Keeper) (copy : Nat) : Nat := if copy = 0 then k.svnA else k.svnB

/-- The log records from a SEQ on, at most count, and whether the first of them was already overwritten (R439). -/
def Keeper.logFrom (k : Keeper) (first count : Nat) : List LogRec × Bool :=
  let oldest := ((k.log.head?).map LogRec.seq).getD k.nextLog
  let d := posDiff first oldest
  if d < 2 ^ 31 then ((k.log.drop d).take count, false) else (k.log.take count, true)

/-- The records' bytes. -/
def logBytes (l : List LogRec) : Bytes := l.flatMap LogRec.bytes

/-- FW_INFO (R439). -/
def Keeper.fwInfo (k : Keeper) : Bytes :=
  let bits {α : Type} (l : List (Option α)) : Nat :=
    (l.zipIdx.filter fun e => e.1.isSome).foldl (fun v e => v + 2 ^ e.2) 0
  leBytes 1 k.active ++ zeros 3 ++ leBytes 4 k.svnA ++ leBytes 4 k.svnB ++ leBytes 4 k.minSvn ++
    leBytes 1 (bits k.signing) ++ leBytes 1 (bits k.hmac)

/-- REPORTS (R439): the reports not yet acknowledged, oldest first, at most 64. -/
def Keeper.reportBytes (k : Keeper) : Bytes := (k.reports.take 64).flatMap Report.bytes

/-- n free bytes (log entry 2). -/
def State.drawBytes (s : State) : Nat → Bytes × State
  | 0 => ([], s)
  | n + 1 =>
    let (v, s) := s.draw
    let (bs, s) := s.drawBytes n
    (BitVec.ofNat 8 v :: bs, s)

/-- A mailbox command ends with a result and data (R439). -/
def State.mbEnd (s : State) (result : Nat) (data : Bytes) : State :=
  (s.modSk fun k => { k with mbResult := result, mbData := data, mbBusy := none }).raise Reg.mbNotice 1

/-- A number of bytes that SK_MB_DATA can hold. -/
def anyCount (n : Nat) : Nat := n % 4097

/-- LOG_READ with a COUNT outside 1 to 64 is a host error: its result and data are open (R8). -/
def State.mbLogRead (s : State) (first count : Nat) : State :=
  if count = 0 ∨ 64 < count then
    let (r, s) := s.draw
    let (n, s) := s.draw
    let (bs, s) := s.drawBytes (anyCount n)
    s.mbEnd (r % 4) bs
  else
    let (l, cut) := s.sk.logFrom first count
    s.mbEnd (if cut then 3 else 0) (logBytes l)

/-- A mailbox command runs; OP codes that are not listed end with BAD_OP. -/
def State.mbRun (s : State) (op arg : Nat) : State :=
  match op with
  | 1 => s.mbLogRead (fld arg 31 0) (fld arg 38 32)
  | 2 => let s := s.sense; s.mbEnd 0 s.sk.sensorData
  | 3 => s.mbEnd 0 s.sk.fwInfo
  | 4 => s.mbEnd 0 s.sk.reportBytes
  | _ => s.mbEnd 2 []

/-- A write to SK_MB_CMD (R439): BUSY while a command waits, which changes nothing else. A command runs at once, or
once the Storekeeper runs again. -/
def State.mbCommand (s : State) (op : Nat) : State :=
  if s.sk.mbBusy.isSome then s.modSk fun k => { k with mbResult := 1 }
  else if s.skOn then s.mbRun op (s.reg Reg.mbArg)
  else
    let arg := s.reg Reg.mbArg
    s.modSk fun k => { k with mbBusy := some (op, arg) }

/-- A mailbox command that waited for the Storekeeper runs. -/
def State.mbResume (s : State) : State :=
  match s.sk.mbBusy with
  | some (op, arg) => s.mbRun op arg
  | none => s

end Sys2Proof.Machine
end

