-- ==== Sys2Proof/Machine/Route.lean ====
section
/-! DEFINITION. Rights on device addresses (R237 to R242), the bytes that a host error has left open (R8), reading of
memory, and the queueing of link messages (R331). -/

namespace Sys2Proof.Machine

open Sys2Proof

/-! ### Addresses -/

/-- The fields of an address lie inside the limits of R237. -/
def addrOk (a : Nat) : Bool :=
  match spaceOf a with
  | 0 => stackOf a < 24
  | 1 => fld a 47 30 == 0 && fld a 29 24 < 48 &&
      (if bitOf a 23 then fld a 22 0 < 512 * 1024 else true)
  | 2 => true
  | 3 => true
  | 8 => true
  | _ => false

/-- A Larder data address of a position (R237). -/
def larderAddr (pos off : Nat) : Nat := 2 ^ 48 + put pos 6 24 + off % 2 ^ 23

/-- The side array address of a Larder block's header (R237). -/
def sideAddr (pos block : Nat) : Nat := 2 ^ 48 + put pos 6 24 + 2 ^ 23 + 16 * block

/-! ### Bytes that a host error has left open (R8) -/

/-- Run i of the bytes ends here. -/
def Wild.last (r : Wild) : Nat := r.base + (r.count - 1) * r.stride + r.len

/-- A byte lies in a run. -/
def Wild.covers (r : Wild) (a : Nat) : Bool :=
  r.count != 0 && r.base ≤ a && a - r.base - min ((a - r.base) / r.stride) (r.count - 1) * r.stride < r.len

/-- Some run has a byte in the n bytes from a on. -/
def Wild.meetsRange (r : Wild) (a n : Nat) : Bool :=
  let i := if a < r.base + r.len then 0 else (a - r.base - r.len) / r.stride + 1
  r.count != 0 && r.len != 0 && n != 0 && i < r.count && r.base + i * r.stride < a + n

/-- Two sets of runs share a byte. -/
def Wild.meets (r q : Wild) : Bool :=
  r.base < q.last && q.base < r.last && (List.range r.count).any fun i => q.meetsRange (r.base + i * r.stride) r.len

/-- Two runs of one set share a byte. -/
def Wild.meetsSelf (r : Wild) : Bool := 1 < r.count && r.stride < r.len

/-- The address whose byte lies at a place of memory: a frame in use holds the bytes of its unit (R340); none for a
place that a remap has set aside. -/
def State.unphys (s : State) (a : Nat) : Option Nat :=
  if spaceOf a ≠ 0 then some a
  else
    let off := stackOff a
    let base := a - off
    match (s.remaps (stackOf a)).find? fun e => e.2 == off / 4096 * 4096 with
    | some e => some (base + e.1 + off % 4096)
    | none => if s.phys a = a then some a else none

/-- Zero written over a range. -/
def State.clearRange (s : State) (a n : Nat) : State :=
  { s with mem := s.mem.filter fun e => !((s.unphys e.1).any fun x => a ≤ x && x < a + n) }

/-! ### Rights -/

/-- The rights entry of an address in spaces 0x0 and 0x1: 1 R, 2 W, 4 A (R241). -/
def Domain.entry (d : Domain) (a : Nat) : Nat :=
  match spaceOf a with
  | 0 => d.rights.get 0 (512 * stackOf a + stackOff a / 2 ^ 28)
  | 1 => bitAt d.larderR 0 + bitAt d.larderW 1
  | _ => 0

/-- A domain holds some rights on n bytes of spaces 0x0 or 0x1; an address outside R237 lies outside
every right. Accesses are at most one granule long. -/
def Domain.allows (d : Domain) (a n need : Nat) : Bool :=
  let z := a + (n - 1)
  addrOk a && addrOk z && spaceOf a == spaceOf z && d.entry a &&& need == need && d.entry z &&& need == need

/-- Some bytes lie outside every hole: an address of the Store Room is inside the capacity of a stack that the package
has (R226). -/
def State.inPackage (s : State) (a n : Nat) : Bool :=
  spaceOf a != 0 || (s.stackPresent (stackOf a) && stackOff a + n ≤ s.stackCapacity (stackOf a))

/-- The rights of a domain; 16 is the firmware domain, which holds every right (R239). -/
def State.allows (s : State) (dom a n need : Nat) : Bool :=
  s.inPackage a n && (if dom = 16 then addrOk a else (s.cfg.domain dom).allows a n need)

/-! ### Open bytes (R8, R9) -/

/-- Runs that a host error of a domain opens. -/
def State.runsOf (s : State) (dom : Nat) (rs : List Wild) : List OpenRun :=
  rs.map fun r => ⟨r, if dom = 16 then none else some (s.cfg.domain dom)⟩

/-- Bytes become open, in so far as a domain holds write or atomic rights on them (R8, R9). -/
def State.openBytes (s : State) (dom : Nat) (rs : List Wild) : State := { s with wild := s.wild ++ s.runsOf dom rs }

/-- A byte is open. -/
def OpenRun.covers (r : OpenRun) (a : Nat) : Bool :=
  r.run.covers a && r.by_.all fun d => addrOk a && d.entry a &&& 6 != 0

/-- A byte is open. -/
def State.isWild (s : State) (a : Nat) : Bool := s.wild.any fun r => r.covers a

/-- Some bytes of an address as a reader finds them: the open ones are free (log entry 7). -/
def State.asRead (s : State) (a : Nat) (bs : Bytes) : Bytes :=
  if s.wild = [] then bs
  else bs.zipIdx.map fun e => if s.isWild (a + e.2) then Config.freeByte s.fresh (a + e.2) else e.1

/-- n bytes of the Store Room or the Larder. -/
def State.load (s : State) (a n : Nat) : Bytes :=
  s.asRead a ((List.range n).map fun i => Memory.byte s.mem (s.phys (a + i)))

/-! ### Splitting -/

/-- Bytes cut at every multiple of m of their address. -/
def splitGo (m : Nat) : Nat → Nat → Bytes → List (Nat × Bytes)
  | 0, _, _ => []
  | _, _, [] => []
  | f + 1, a, bs =>
    let n := m - a % m
    (a, bs.take n) :: splitGo m f (a + n) (bs.drop n)

/-- Bytes at an address, cut at every multiple of m. -/
def splitAt (m a : Nat) (bs : Bytes) : List (Nat × Bytes) := splitGo m bs.length a bs

/-- A range of n bytes at an address, cut at every multiple of m. -/
def rangesGo (m : Nat) : Nat → Nat → Nat → List (Nat × Nat)
  | 0, _, _ => []
  | f + 1, a, n =>
    if n = 0 then []
    else let k := min n (m - a % m); (a, k) :: rangesGo m f (a + k) (n - k)

/-- A range cut at every multiple of m. -/
def ranges (m a n : Nat) : List (Nat × Nat) := rangesGo m n a n

/-! ### Link messages -/

/-- A link direction changed. -/
def State.modDir (s : State) (n : Nat) (d : Dir) (f : LinkDir → LinkDir) : State :=
  s.modLink n fun l => match d with
    | .out => { l with out := f l.out }
    | .inb => { l with inb := f l.inb }

/-- A link direction. -/
def State.dir (s : State) (n : Nat) (d : Dir) : LinkDir :=
  match d with
  | .out => (s.link n).out
  | .inb => (s.link n).inb

/-- A message queued on a direction of a link. -/
def State.queueMsg (s : State) (n : Nat) (d : Dir) (m : Msg) (own : Owner := .none) : State :=
  s.modDir n d fun q => { q with queue := q.queue ++ [⟨m, own⟩] }

/-- A message with no body (R331). -/
def mkMsg (mtype vc cls flags len tag addr : Nat) (body : Bytes := []) : Msg :=
  { mtype, vc, cls, flags, len, tag, addr, body }

/-- The virtual channel of a class's reads and writes (R332). -/
def vcOf (cls : Nat) : Nat := if cls = 0 then 0 else 1

/-- A slot and epoch in ADDR, as ABORT, GO, SEALED and CRATE_ACK carry them (R333): the epoch in [31:0]
and the slot in [32] (DESIGN CHOICE, log entry 12). -/
def slotEpoch (slot epoch : Nat) : Nat := put epoch 32 0 + put slot 1 32

/-- A write of at most 4 KiB sent to an agent: WR with its tag, kept until its acknowledgement. -/
def State.sendWr (s : State) (own : Owner) (cls a : Nat) (data : Bytes) (fence : Bool) : State :=
  let tag := s.net.nextTag
  let m := mkMsg 0x03 (vcOf cls) cls (bitAt fence 0) data.length tag a data
  let s := { s with net := { s.net with
      nextTag := (tag + 1) % 2 ^ 32, sent := s.net.sent.set none tag (some ⟨m, own⟩) } }
  s.queueMsg (s.ownerAgent a) .out m own

/-- A flush sent to an agent (R290). -/
def State.sendFlush (s : State) (own : Owner) (n : Nat) : State :=
  let tag := s.net.nextTag
  let m := mkMsg 0x04 1 1 0 0 tag n
  let s := { s with net := { s.net with
      nextTag := (tag + 1) % 2 ^ 32, sent := s.net.sent.set none tag (some ⟨m, own⟩) } }
  s.queueMsg n .out m own

/-- A message of virtual channel 2 toward an agent: COMMIT, ABORT, GO, EVICT, REFRESH_ACK, GRAD. -/
def State.sendCtl (s : State) (n mtype cls addr : Nat) (body : Bytes := []) (tag : Nat := 0) : State :=
  s.queueMsg n .out (mkMsg mtype 2 cls 0 body.length tag addr body)

end Sys2Proof.Machine
end

