-- ==== Sys2Proof/Machine/Opened.lean ====
section
/-! DEFINITION. What a table reaches in the Store Room and the Larder (R52, R65, R182, R243), and the bytes that a
write opens when it strikes a table that it must not (R7, R8). -/

namespace Sys2Proof.Machine

open Sys2Proof

/-! ### Where the rows of a table lie -/

/-- The tables whose rows a scatter changes: the named one, or both components (R182). -/
def Cfg.updated (c : Cfg) (td : TableDesc) : List TableDesc :=
  if td.hashMode = 2 then [c.table td.compQ, c.table td.compR].filterMap id else [td]

/-- The rows of a table that fall to the j-th of its k stacks, SPLIT placement (R65). -/
def TableDesc.rowsOn (td : TableDesc) (k j : Nat) : Nat :=
  let l := 2 ^ td.splitLog2
  let nb := ceilDiv td.rowCount l
  if nb ≤ j then 0
  else
    let mine := (nb - 1 - j) / k + 1               -- blocks of this stack
    if (nb - 1) % k = j then (mine - 1) * l + (td.rowCount - (nb - 1) * l) else mine * l

/-- The granules of 256 MiB that hold any byte of any row (R182). -/
def TableDesc.granules (td : TableDesc) : List Nat :=
  let span (st off rows : Nat) : List Nat :=
    if rows = 0 then []
    else
      let last := off + (rows - 1) * td.stride + td.rowBytes - 1
      (List.range (last / 2 ^ 28 + 1 - off / 2 ^ 28)).map fun i => 512 * st + off / 2 ^ 28 + i
  if td.placeMode = 0 then span (stackOf td.base) (stackOff td.base) td.rowCount
  else
    let ss := setBits 24 td.stackMask
    ss.zipIdx.flatMap fun e => span e.1 td.base (td.rowsOn ss.length e.2)

/-- The rows of a table in the Store Room, by stack. -/
def TableDesc.runs (td : TableDesc) : List Wild :=
  if spaceOf td.base ≠ 0 then []
  else if td.placeMode = 0 then [⟨td.base, td.rowBytes, td.stride, td.rowCount⟩]
  else
    let ss := setBits 24 td.stackMask
    ss.zipIdx.map fun e => ⟨2 ^ 37 * e.1 + td.base, td.rowBytes, td.stride, td.rowsOn ss.length e.2⟩

/-- The tables on which a domain holds write or atomic rights. -/
def State.rightTables (s : State) (dom : Nat) : List Wild :=
  (s.cfg.tables.filterMap (·.2)).flatMap fun td =>
    if td.granules.any fun g => dom == 16 || (s.cfg.domain dom).rights.get 0 g &&& 6 != 0 then td.runs else []

/-! ### Frames and channels -/

/-- The Store Room address of a frame of the promotion pool; the 16 GiB frames come first (R381). -/
def Cfg.frameAddr (c : Cfg) (f : Nat) : Nat :=
  let big := c.trans.frames16G
  c.trans.poolBase + (if f < big then f * 2 ^ 34 else big * 2 ^ 34 + (f - big) * 2 ^ 28)

/-- A promotion covers an address of a PASID. -/
def Promo.covers (p : Promo) (pasid a : Nat) : Bool :=
  let size := if p.big then 2 ^ 34 else 2 ^ 28
  p.space == spaceOf a && p.pasid == pasid && p.va == a % 2 ^ 48 / size * size

/-- The piece of work that a channel's list belongs to. -/
def State.chanWork (s : State) (ch : Nat) : Option Work := (s.chan ch).user.bind fun u => s.work u.2.1

/-- The domain of a channel (R239). -/
def State.chanDomain (s : State) (ch : Nat) : Nat :=
  if 28 ≤ ch then 16
  else match s.chanWork ch with
    | some k => k.domain
    | none => (s.cfg.chan ch).domain

/-! ### Destinations (R7, R8) -/

/-- The task that launched an operation. -/
def Work.launcher (k : Work) : Option Nat :=
  match k.src with
  | .porter p _ _ _ => some p
  | _ => none

/-- The pair that an operation writes into, when it has one. -/
def Work.link (w : Work) : Option Nat :=
  match w.src with
  | .porter _ _ _ l => l
  | _ => none

/-- Destinations of a piece of work still count (R7): an operation counts until it has completed. -/
def Work.live (k : Work) : Bool := !(k.ended && k.launcher.isSome)

/-- PORTERS of a PORTER task (R348). -/
def TaskDesc.porterMask (d : TaskDesc) : Nat := fld d.param0 19 8

/-- The count of bags of a task (R81, R353). -/
def TaskDesc.bags (d : TaskDesc) : Nat :=
  if d.bagMode = 0 then (if d.bagLen = 0 then 0 else ceilDiv d.indexCount d.bagLen) else d.bagCount

/-- How an index of a table turns into rows. -/
def TableDesc.shape (td : TableDesc) : IdxShape :=
  match td.hashMode with
  | 1 => if td.hash2 then .two else .one
  | 2 => .composed td.composeAdd
  | _ => .one

/-- What decides how the bags of a task are pooled (R89, R120). -/
def TaskDesc.poolSpec (d : TaskDesc) (td : TableDesc) : PoolSpec :=
  { pf := poolFmt td.fmt, mode := d.pool, ieee := d.ieee, shape := td.shape, elements := td.elements
    concatN := d.concatN }

/-- The result size of a bag (R90). -/
def TaskDesc.resultSize (d : TaskDesc) (td : TableDesc) : Nat :=
  let c := d.poolSpec td
  Sys2Proof.Machine.resultSize d.out c.pf c.width

/-- Outputs of a sample in INTERACT mode (R165). -/
def ScoreParam.outputs (p : ScoreParam) : Nat := if p.self then p.f * (p.f + 1) / 2 else p.f * (p.f - 1) / 2

/-- The result size of an array output (R90). -/
def TaskDesc.outSize (d : TaskDesc) (n : Nat) : Nat := Sys2Proof.Machine.resultSize d.out FFmt.fp32 n

/-- The projection set that a task names. -/
def Cfg.projSet (c : Cfg) (n : Nat) : Option ProjSet := c.proj.find? fun p => p.set == n

/-- Values in the result of a task and its bytes, for one bag or sample. -/
def State.resultOf (s : State) (d : TaskDesc) : Nat × Nat :=
  let arr (n : Nat) : Nat × Nat := (n, d.outSize n)
  match d.kind, s.cfg.table d.table with
  | some .gather, some td => ((d.poolSpec td).width, d.resultSize td)
  | some .score, _ =>
    if d.score.mode = 0 then (0, 16 * d.score.k)
    else if d.score.mode = 1 then arr d.score.outputs
    else if d.score.mode = 2 then arr ((s.cfg.projSet d.score.set).map ProjSet.p |>.getD 0)
    else (0, 0)
  | _, _ => (0, 0)

/-- The destinations of a piece of work: its results, its side records, its statistics record and its trailer. -/
def State.dests (s : State) (k : Work) : List Wild :=
  let d := k.desc
  let (n, len) := s.resultOf d
  if k.doorbell.isSome then [⟨d.result, roundUp len 16 + 16, 0, 1⟩]
  else
    let bags := match k.link with
      | some p => s.depth p
      | none => if d.kind == some .score && d.score.mode != 0 then d.bagCount else d.bags
    (if len = 0 then [] else [⟨d.result, len, d.rstride, bags⟩]) ++ (if d.sideEn then [⟨d.side, 8, 8, bags⟩] else []) ++
      (if d.statsEn then [⟨d.stats, 64 + 32 * n, 0, 1⟩] else [])

/-- The destinations of the mover lists that a Porter launched for a task. -/
def State.listDests (s : State) (w : Nat) : List Wild :=
  s.mov.chans.flatMap fun e => if e.2.user.any (fun u => u.2.1 == w) then e.2.dests else []

/-- A piece of work commits a host error (R8): its destinations are open, and the tables on which it holds write or
atomic rights. -/
def State.openDests (s : State) (w : Nat) : State :=
  match s.work w with
  | some k => s.openBytes k.domain (s.dests k ++ s.listDests w ++ s.rightTables k.domain)
  | none => s

/-! ### Writes that a host error forbids (R52, R243) -/

/-- A write of n bytes strikes a table on which a live SCATTER task holds atomic rights (R52). -/
def State.tableHit (s : State) (a n : Nat) : Bool :=
  s.works.any fun e => e.2.desc.kind == some .scatter && !e.2.unread && match s.cfg.table e.2.desc.table with
    | some td => (s.cfg.updated td).any fun t => t.runs.any fun r => r.meetsRange a n
    | none => false

/-- Larder bytes that hold a placed or a cached row (R243). Where the row cache keeps its rows is the block's own
affair: a position whose cache holds any row counts every block of its cached part. -/
def State.holdsRow (s : State) (a n : Nat) : Bool :=
  spaceOf a == 1 &&
    let size := if bitOf a 23 then 16 else 256
    let first := a % 2 ^ 23 / size
    let last := (a % 2 ^ 23 + (n - 1)) / size
    let e := s.engine (fld a 29 24)
    (e.placed.any fun p => first < p.block + max 1 ((s.cfg.table p.table).getD default).blocks && p.block ≤ last) ||
      (e.cache != [] && 1024 * s.cfg.placedUnits ≤ last)

/-- Rows that a position caches may hold anything: a write has struck the part of its Larder that caches, or the Cellar
rows that they copy. -/
def Engine.openCache (e : Engine) (draw : Nat) (f : CacheEnt → Bool) : Engine :=
  let open_ (c : CacheEnt) : CacheEnt :=
    { c with data := c.data.zipIdx.map fun b => Config.freeByte draw (c.addr + b.2) }
  { e with cache := e.cache.map fun c => if f c then open_ c else c }

/-- The bytes of a table in the Cellar. -/
def TableDesc.cellar (td : TableDesc) : Wild := ⟨td.base, td.rowBytes, td.stride, td.rowCount⟩

/-- The tables that a piece of work reads. -/
def State.readTables (s : State) (k : Work) : List TableDesc :=
  match s.cfg.table k.desc.table with
  | some td => s.cfg.updated td
  | none => []

/-- A write of a domain is about to change n bytes of the Cellar from a on. Where a table of the image lies there, that is
a host error of the overlapping-destinations kind (R233): the destinations of the tasks that read it are open, and so
are the copies of those bytes in row caches and in the promotion pool. -/
def State.struckCellar (s : State) (dom a n : Nat) : State :=
  let pasid := (s.cfg.domain dom).pasid
  let hit (td : TableDesc) : Bool := spaceOf td.base == 2 && td.cellar.meetsRange a n
  if (s.cfg.tables.all fun t => !t.2.any hit) then s
  else
    let readers := s.works.filter fun e => !e.2.unread && (s.cfg.domain e.2.domain).pasid == pasid &&
      (s.readTables e.2).any hit
    let s := s.each (readers.map (·.1)) State.openDests
    let s := s.each (List.range 48) fun s p => s.modEngine p fun e => e.openCache s.fresh fun c =>
      spaceOf c.addr == 2 && c.pasid == pasid && c.addr < a + n && a < c.addr + c.data.length
    s.openBytes 16 (s.mov.frames.filterMap fun f => match f.2 with
      | .held p => if p.covers pasid a then
          some ⟨s.cfg.frameAddr f.1 + a % (if p.big then 2 ^ 34 else 2 ^ 28), n, 0, 1⟩ else none
      | _ => none)

/-- A write of a domain is about to change n bytes from a on. Where it strikes a table of a live SCATTER task or a
Larder row, a host error of the overlapping-destinations kind, those bytes and the tables that the domain may write are
open (R8, R52, R243); where it strikes a Cellar table, what R233 lets that reach. One that strikes the buffers that a
live SCATTER task reads (R185) opens nothing: the task reads what stands there (DESIGN CHOICE, log entry 7). The
Storekeeper's own channels place rows. -/
def State.struck (s : State) (dom a n : Nat) : State :=
  if dom = 16 then s
  else if spaceOf a = 2 then s.struckCellar dom a n
  else if s.tableHit a n then s.openBytes dom (⟨a, n, 0, 1⟩ :: s.rightTables dom)
  else if s.holdsRow a n then
    (s.openBytes dom (⟨a, n, 0, 1⟩ :: s.rightTables dom)).modEngine (fld a 29 24) fun e =>
      e.openCache s.fresh fun _ => true
  else s

/-- A Porter's store of n bytes at a, for work w, writes what another live task, an operation or a list writes too (R7):
what these reach is open, and so are the bytes of the store. -/
def State.checkStore (s : State) (w dom a n : Nat) : State :=
  let works := s.works.filter fun e => e.1 != w && e.2.live && e.2.link.isNone && (s.dests e.2).any fun q => q.meetsRange a n
  let lists := s.mov.chans.filter fun e => e.2.dests.any fun q => q.meetsRange a n
  if works = [] && lists.isEmpty then s
  else
    let s := lists.foldl (fun s e => (s.openBytes (s.chanDomain e.1) e.2.dests).setChan e.1 { s.chan e.1 with broken := true }) s
    (s.each (works.map (·.1)) State.openDests).openBytes dom [⟨a, n, 0, 1⟩]

end Sys2Proof.Machine
end

