-- ==== Sys2Proof/Machine/Works.lean ====
section
/-! DEFINITION. How work ends early, is rewound and replayed (R101, R104, R173, R207, R208, R351), and what
a denied access does to the part that made it (R242). -/

namespace Sys2Proof.Machine

open Sys2Proof

/-! ### Engines -/

/-- A change to every engine position. -/
def State.eachEngine (s : State) (f : Engine → Engine) : State :=
  s.each (List.range 48) fun s p => s.modEngine p f

/-- Fetch slots that no longer wait: a slot whose row is still to return stays busy until then (R411). -/
def Engine.kill (e : Engine) (f : FSlot → Bool) : Engine :=
  { e with slots := e.slots.filterMap fun x => match x.2 with
      | some k => if f k then (if k.joined || k.data.isSome then none else some (x.1, some { k with dead := true }))
          else some x
      | none => none }

/-- The fetch slots of some work stop waiting. -/
def State.killSlots (s : State) (f : FSlot → Bool) : State := s.eachEngine fun e => e.kill f

/-- A tag of a row fetch (R97): slot, position and placement epoch. -/
def fetchTag (slot pos epoch : Nat) : Nat := put slot 9 0 + put pos 6 9 + put epoch 8 15

/-! ### Semaphore pairs -/

/-- A pair returned to FILL = 0 and SPACE = DEPTH (R172, R173). -/
def State.resetPair (s : State) (p : Nat) : State := s.setSem p ⟨0, s.depth p, false⟩

/-- A side of a pair is Porter m. -/
def SemCfg.hasPorter (c : SemCfg) (m : Nat) : Bool :=
  (c.prod.kind == 2 && c.prod.id == m) || (c.cons.kind == 2 && c.cons.id == m)



/-! ### Built-in links (R23, R172) -/

/-- The array that an engine position feeds; a retired array's positions feed its partner (R163, R415). -/
def State.feedOf (s : State) (pos : Nat) : Nat :=
  let a := s.cfg.feed.getD pos 0
  if (s.array a).retired then a ^^^ 1 else a

/-- The link of a pair that engines, arrays and result queues operate, by its sides' numbers: false from an engine
position to an array, true from an array to the result queue of a position. -/
def SemCfg.builtIn (c : SemCfg) : Option (Bool × Nat × Nat) :=
  if c.depth = 0 then none
  else if c.prod.kind = 1 ∧ c.cons.kind = 3 then some (false, c.prod.id, c.cons.id)
  else if c.prod.kind = 3 ∧ c.cons.kind = 4 then some (true, c.prod.id, c.cons.id)
  else none

/-- The open bags of classes 1 to 3 that arrays score: class 0 has capacity of its own (R21, R171; log entry 68). -/
def State.scoredBags (s : State) : List Bag :=
  (s.works.filter fun e => !e.2.ended && e.2.cls != 0 && e.2.desc.kind == some .score).flatMap fun e =>
    (e.2.bags.map (·.2)).filter fun b => !b.committed

/-- The result queue of a bag: that of the position that took its first index. -/
def Bag.queuePos (b : Bag) : Option Nat := b.taken.head?.map Taken.engine

/-- The slots of a built-in link that its producer has taken: candidates that an array has not scored, or bags of which
an array has begun its list and which have not committed (R163; log entry 68). -/
def State.linkTaken (s : State) (l : Bool × Nat × Nat) : Nat :=
  if l.1 then s.scoredBags.countP fun b => b.queuePos == some l.2.2 && b.cands.any fun c => c.arr == l.2.1 && c.score.isSome
  else s.scoredBags.foldl (fun n b => n + b.cands.countP fun c => c.pos == l.2.1 && c.arr == l.2.2 && c.score.isNone) 0

/-- An array has scored the last candidate that a bag sends it. -/
def Bag.listed (b : Bag) (arr : Nat) : Bool :=
  b.len != 0 && b.len ≤ b.taken.length && (b.taken.countP fun t => t.res.survives) ≤ b.cands.length &&
    b.cands.all fun c => c.arr != arr || c.score.isSome

/-- The slots of a built-in link that are full: a candidate comes whole, and an array's list of a bag is whole with its
last candidate. -/
def State.linkFill (s : State) (l : Bool × Nat × Nat) : Nat :=
  if l.1 then s.scoredBags.countP fun b => b.queuePos == some l.2.2 && (b.cands.any fun c => c.arr == l.2.1) && b.listed l.2.1
  else s.linkTaken l

/-- The pairs of the built-in links follow what the links hold (R172); a pair whose counts change is no longer
stalled (R174). -/
def State.syncLinks (s : State) : State :=
  s.each s.cfg.sems fun s e =>
    match e.2.builtIn with
    | some l =>
      let n := s.linkFill l
      let m := e.2.depth - s.linkTaken l
      if (s.sem e.1).fill = n ∧ (s.sem e.1).space = m then s else s.setSem e.1 ⟨n, m, false⟩
    | none => s

/-- A built-in link has no SPACE. -/
def State.linkFull (s : State) (l : Bool × Nat × Nat) : Bool :=
  s.cfg.sems.any fun e => e.2.builtIn == some l && (s.sem e.1).space == 0

/-- A side of a built-in link waits on it (R174): its producer has something to send and no SPACE, or its consumer
expects something and there is no FILL. f picks the work. -/
def State.linkWaits (s : State) (l : Bool × Nat × Nat) (f : Nat → Bool) : Bool :=
  let bags := (s.works.filter fun e => f e.1 && !e.2.ended && !e.2.isParked && e.2.cls != 0 &&
    e.2.desc.kind == some .score).flatMap fun e => (e.2.bags.map (·.2)).filter fun b => !b.committed
  let full := s.linkFull l
  let none_ := s.linkFill l == 0
  if l.1 then
    bags.any fun b => b.queuePos == some l.2.2 && b.cands.any fun c => c.arr == l.2.1 && c.score.isNone && (full || none_)
  else
    (s.engine l.2.1).slots.any fun x => x.2.any fun v => s.feedOf l.2.1 == l.2.2 && v.cls != 0 && !v.dead && f v.work &&
      ((s.work v.work).any fun k => k.desc.kind == some .score) && (if v.data.isSome then full else none_)

/-! ### Families of works -/

/-- The task that an operation belongs to; a task is its own. -/
def State.root (s : State) (w : Nat) : Nat :=
  match (s.work w).map Work.src with
  | some (.porter p _ _ _) => p
  | _ => w

/-- The operations that the Porters of a task launched. -/
def State.kids (s : State) (w : Nat) : List Nat :=
  (s.works.filter fun e => match e.2.src with
    | .porter p _ _ _ => p == w
    | _ => false).map (·.1)

/-- The Porters that run a task now. -/
def State.portersOf (s : State) (w : Nat) : List Nat :=
  (List.range 12).filter fun m => (s.porter m).cur.any fun e => e.work == w

/-- The Porters, by the numbers that the image's links have, whose links a task holds: those that it names or that run for
it, but for one that runs for another task now (R173, R414; log entry 64). -/
def State.heldPorters (s : State) (w : Nat) : List Nat :=
  let runs (m : Nat) (mine : Bool) : Bool := (List.range 12).any fun q => (s.porter q).cur.any fun e =>
    e.porter == m && (e.work == w) == mine
  let named (m : Nat) : Bool := (s.work w).any fun k => k.desc.kind == some .porter && bitOf k.desc.porterMask m
  (List.range 12).filter fun m => runs m true || (named m && !runs m false)

/-- The pairs that a task holds: those that its operations link to, and those with one of its Porters as a
side (R173; DEDUCED, log entry 13). -/
def State.heldPairs (s : State) (w : Nat) : List Nat :=
  (s.kids w).filterMap (fun k => ((s.work k).map Work.link).getD none) ++
    (s.cfg.sems.filter fun e => (s.heldPorters w).any e.2.hasPorter).map (·.1)

/-- An operation with LINK = 1 has a bag that waits for SPACE (R174, R365). -/
def Work.waitsSpace (k : Work) : Bool :=
  k.link.isSome && !k.ended && !k.isParked && (List.range k.desc.bags).any fun b => !(k.bags.get default b).space

/-- A task waits on a pair whose STALLED bit is set (R174). -/
def State.waitsStalled (s : State) (w : Nat) : Bool :=
  ((s.portersOf w).any fun m => (s.porter m).st == .waitSem && (s.sem (s.porter m).pair).stalled) ||
    ((s.kids w).any fun k => match s.work k with
      | some v => v.waitsSpace && v.link.any fun p => (s.sem p).stalled && (s.sem p).space == 0
      | none => false) ||
    s.cfg.sems.any fun e => (s.sem e.1).stalled && e.2.builtIn.any fun l => s.linkWaits l fun k => s.root k == w

/-! ### Peer connections: the receiver's side -/

/-- A PSN lies below EXP, modulo 2^32 (R305). -/
def Conn.below (k : Conn) (p : Nat) : Bool := 0 < posDiff k.exp p && posDiff k.exp p ≤ 2 ^ 31

/-- A PSN has been received: it lies below EXP or is recorded above it. -/
def Conn.recorded (k : Conn) (p : Nat) : Bool := k.below p || k.got.contains p

/-- ACK_PSN (R306): EXP, or the lowest PSN below it whose local writes are not acknowledged. -/
def Conn.ackPsn (k : Conn) : Nat :=
  (k.ackable.filter k.below).foldl (fun b p => if posDiff k.exp b < posDiff k.exp p then p else b) k.exp

/-- SACK (R303, R306). -/
def Conn.sack (k : Conn) : Nat :=
  (List.range 32).foldl (fun v i =>
    let p := (k.ackPsn + 1 + i) % 2 ^ 32
    v + bitAt (k.recorded p && !k.ackable.contains p) i) 0

/-- EXP advances past every PSN already recorded, by fuel. -/
def Conn.advance : Nat → Conn → Conn
  | 0, k => k
  | f + 1, k =>
    if k.got.contains k.exp then Conn.advance f { k with got := k.got.erase k.exp, exp := (k.exp + 1) % 2 ^ 32 } else k

/-- A PSN received (R305). -/
def Conn.record (k : Conn) (p : Nat) : Conn := Conn.advance 256 { k with got := p :: k.got }

/-! ### Acknowledgements -/

/-- An acknowledgement leaves (R306): it covers every applied packet but those whose local writes are not acknowledged,
which still want one. -/
def Conn.acknowledged (k : Conn) : Conn :=
  { k with since := 0, owes := !k.ackable.isEmpty, due := k.due.filter k.ackable.contains }

/-- An ACK (R304, R306): it acknowledges what has been applied until now. -/
def State.sendAck (s : State) (c : Nat) : State :=
  let k := s.conn c
  (s.setConn c k.acknowledged).queuePeer c 0
    (peerPacket 3 (s.cnRconn c) 0 k.ackPsn k.sack 0 0 0 [])

/-- The ACK that a rule of R306 asks for: the 16th packet does at once, and an arrival out of order or one that fills a
hole does once its own local writes are acknowledged. -/
def State.dueAck (s : State) (c : Nat) : State :=
  let k := s.conn c
  if 16 ≤ k.since || k.due.any (fun n => !k.ackable.contains n) then s.sendAck c else s

/-- A NAK of a packet (R309); a duplicate of the packet is answered by it again. Its SACK is 0 (R303; DESIGN CHOICE, log
entry 77). -/
def State.sendNak (s : State) (c psn code : Nat) : State :=
  let k := s.conn c
  let s := s.setConn c { k with
    serve := k.serve.filter fun r => r.psn != psn, naks := (psn, code) :: k.naks.filter fun n => n.1 != psn }
  s.queuePeer c 0 (peerPacket 4 (s.cnRconn c) 0 psn 0 0 0 code [])

/-- A packet is refused: one NAK, however many of its accesses were denied (R309). -/
def State.refuse (s : State) (c psn code : Nat) : State :=
  if (s.conn c).naks.any fun n => n.1 == psn then s else s.sendNak c psn code

/-! ### Owners' waits -/

/-- Accesses of some owners go on for nobody: what they bring is discarded. -/
def State.disown (s : State) (f : Owner → Bool) : State :=
  let req (r : HiReq) : HiReq := if f r.own then { r with own := .none } else r
  let acc (a : Access) : Access := if f a.own then { a with own := .none } else a
  let s := s.each (List.range 5) fun s c =>
    let q := s.hiChan c
    s.setHiChan c { q with queue := q.queue.map req, flight := q.flight.map fun e => (e.1, e.2.map req) }
  s.modMov fun m => { m with
    faults := m.faults.map fun e => (e.1, e.2.map fun t => { t with waiters := t.waiters.map acc }), port := m.port.map acc }

/-- Fetched descriptors that were not admitted are discarded, those among them that still come (R281). -/
def State.dropFetched (s : State) (r : Nat) : State :=
  (s.setRing r { s.ring r with fetched := [] }).disown fun o => match o with
    | .descr r' _ => r' == r
    | _ => false

/-- n writes of a piece of work wait for issue (host) and acknowledgement. -/
def State.workQueued (s : State) (w : Option Nat) (n : Nat) (host : Bool) : State :=
  match w with
  | some w => s.modWork w fun k =>
      if host then { k with unissued := k.unissued + n, hostUnacked := k.hostUnacked + n }
      else { k with storeUnacked := k.storeUnacked + n }
  | none => s

/-- A write of a piece of work was issued. -/
def State.workIssued (s : State) (w : Option Nat) : State :=
  match w with
  | some w => s.modWork w fun k => { k with unissued := k.unissued - 1 }
  | none => s

/-- A write of a piece of work was acknowledged. -/
def State.workAcked (s : State) (w : Option Nat) (host : Bool) : State :=
  match w with
  | some w => s.modWork w fun k =>
      if host then { k with hostUnacked := k.hostUnacked - 1 } else { k with storeUnacked := k.storeUnacked - 1 }
  | none => s

/-- n requests of an owner wait for issue (host) or acknowledgement (Store Room). -/
def State.ownQueued (s : State) (own : Owner) (n : Nat) (host : Bool) : State :=
  match own with
  | .result w => s.workQueued (some w) n host
  | .chanWrite ch w => (s.modChan ch fun c => { c with unacked := c.unacked + n }).workQueued w n host
  | .porter m w => (s.modPorter m fun p => { p with unacked := p.unacked + n }).workQueued (some w) n host
  | .flush w => s.modWork w fun k => { k with flushes := k.flushes + n }
  | .snap => s.modSnap fun k => { k with unacked := k.unacked + n }
  | .peer c psn => let k := s.conn c
      s.setConn c { k with ackable := k.ackable ++ List.replicate n psn }
  | _ => s

/-- A write of an owner was issued on an initiator channel (R287). -/
def State.ownIssued (s : State) (own : Owner) : State :=
  match own with
  | .result w => s.workIssued (some w)
  | .chanWrite _ w => s.workIssued w
  | _ => s

/-- A write or flush of an owner was acknowledged. -/
def State.ownAcked (s : State) (own : Owner) (host : Bool) : State :=
  match own with
  | .result w => s.workAcked (some w) host
  | .chanWrite ch w => (s.modChan ch fun c => { c with unacked := c.unacked - 1 }).workAcked w host
  | .porter m w => (s.modPorter m fun p => { p with unacked := p.unacked - 1 }).workAcked (some w) host
  | .flush w => s.modWork w fun k => { k with flushes := k.flushes - 1 }
  | .snap => s.modSnap fun k => { k with unacked := k.unacked - 1 }
  | .peer c psn => let k := s.conn c
      (s.setConn c { k with ackable := k.ackable.erase psn }).dueAck c
  | _ => s

/-! ### Access records of a piece of work -/

/-- An access is made for a piece of work. -/
def Owner.isWork (o : Owner) (w : Nat) : Bool :=
  match o with
  | .work v => v == w
  | .result v => v == w
  | _ => false

/-- An access is made by a mover channel. -/
def Owner.isChan (o : Owner) (ch : Nat) : Bool :=
  match o with
  | .chanRead c _ => c == ch
  | .chanWrite c _ => c == ch
  | .chanDesc c => c == ch
  | _ => false

/-- An access that ends without being issued: a write counts no longer in any wait of its owner. -/
def State.unqueue (s : State) (a : Access) : State :=
  if a.write && a.len != 0 then (s.ownIssued a.own).ownAcked a.own true else s

/-- Waiters leave the fault table and the translation port; the walks go on (R265). -/
def State.leaveFaults (s : State) (f : Access → Bool) : State :=
  let gone := (s.mov.faults.flatMap fun e => ((e.2.map FaultEnt.waiters).getD []).filter f) ++ s.mov.port.filter f
  let s := s.modMov fun m => { m with
    faults := m.faults.map fun e => (e.1, e.2.map fun t => { t with waiters := t.waiters.filter fun a => !f a })
    port := m.port.filter fun a => !f a }
  s.each gone State.unqueue

/-! ### Scatter slots -/

/-- The agents due a record of epoch e (R195), each by the half of the stack that it has. -/
def Scatter.due (sc : Scatter) (e : Nat) : List Nat :=
  (List.range 16).filter fun n => sc.counts.any fun c => c.1 == e && c.2.1 == n && c.2.2 != 0

/-- Records of epoch e sent to agent n. -/
def Scatter.sentTo (sc : Scatter) (e n : Nat) : Nat :=
  (sc.counts.filter fun c => c.1 == e && c.2.1 == n).foldl (fun k c => k + c.2.2) 0

/-- Epoch e was cut, and every agent due a record has acknowledged it (R194, R209). -/
def Scatter.done (sc : Scatter) (e : Nat) : Bool :=
  sc.committed.contains e && (sc.due e).all fun n => sc.acked.contains (e, n)

/-- The lowest epoch that some agent has not acknowledged (R207). -/
def Scatter.base (sc : Scatter) : Nat :=
  ((List.range (sc.cuts.length + 1)).find? fun e => !sc.done e).getD sc.cuts.length

/-- P_e: the first position of epoch e; P_0 = 0 (R194). -/
def Scatter.start (sc : Scatter) (e : Nat) : Nat := if e = 0 then 0 else sc.cuts.getD (e - 1) 0

/-- The epoch of a position (R194). -/
def Scatter.epochOf (sc : Scatter) (p : Nat) : Nat := sc.cuts.countP fun c => c ≤ p

/-- The scatter slot of a piece of work, when it holds one. -/
def State.scatterSlot (s : State) (w : Nat) : Option Nat :=
  [0, 1].find? fun i => (s.scatter i).any fun sc => sc.work == w

/-- A message about the Crates of a slot: a slot and epoch lie in its ADDR (R333). -/
def Msg.ofSlot (m : Msg) (i : Nat) : Bool :=
  [0x06, 0x07, 0x0A, 0x15, 0x16, 0x17, 0x1A].contains m.mtype && bitOf m.addr 32 == (i == 1)

/-- A gradient record of a slot (R188). -/
def Msg.gradOf (m : Msg) (i : Nat) : Bool := m.mtype == 0x05 && bitOf (leAt m.body 12 1) 0 == (i == 1)

/-- A gradient record, COMMIT or GO of a slot, of an epoch from e on. -/
def Msg.fromEpoch (m : Msg) (i e : Nat) : Bool :=
  (m.gradOf i && e ≤ leAt m.body 8 4) || (m.ofSlot i && e ≤ fld m.addr 31 0)

/-- ABORT of every open Crate of a scatter slot from an epoch on, and the merge cache rows of those
epochs dropped (R207). ABORT goes to every agent whose link is not DOWN; one that is DOWN discards by itself, and what
waits for its link is not sent. -/
def State.abortCrates (s : State) (i e : Nat) (last : Nat) : State :=
  let s := s.eachEngine fun g => { g with merge := g.merge.filter fun r => !(r.slot == i && e ≤ r.epoch) }
  s.each (List.range 16) fun s n =>
    if (s.link n).st == .down then
      s.modDir n .out fun q => { q with queue := q.queue.filter fun m => !m.msg.fromEpoch i e }
    else s.each ((List.range (last + 1)).filter fun k => e ≤ k) fun s k => s.sendCtl n 0x07 0 (slotEpoch i k)

/-- A direction of a link still carries, or may carry, a message about a slot. -/
def LinkDir.busyWith (d : LinkDir) (i : Nat) : Bool :=
  d.queue.any (fun m => m.msg.ofSlot i || m.msg.gradOf i) || d.inbox.any (fun m => m.ofSlot i || m.gradOf i) ||
    d.streams.any (· != []) || d.retry.any (fun f => fld (leAt f.bytes 0 1) 3 0 == 1) || d.partials.any (· != [])

/-- A row record of the commit log (R199). -/
def logRow (a : Nat) (img : Bytes) : Bytes := fit 64 (leBytes 8 a ++ leBytes 2 img.length) ++ padTo 64 img

/-- The row records of a commit log (R199), by fuel: each address with its image, and their bytes. -/
def State.logRows (s : State) : Nat → Nat → List (Nat × Bytes)
  | 0, _ => []
  | f + 1, a =>
    let h := s.load a 64
    let n := leAt h 8 2
    (fld (leAt h 0 8) 51 0, s.load (a + 64) n) :: s.logRows f (a + 64 + roundUp n 64)

/-- A valid seal that is not marked done, with the logged rows (R199). -/
def State.validSeal (s : State) (n : Nat) : Option (Nat × Nat × List (Nat × Bytes)) :=
  match (s.agent n).logBase with
  | some base =>
    let z := s.load (base + 64) 64
    let rows := s.logRows (min 8192 (leAt z 8 4)) (base + 128)
    let bytes := rows.flatMap fun r => logRow r.1 r.2
    if leAt z 0 1 = 0x5A ∧ leAt z 2 1 = 0 ∧ leAt z 12 4 = (crc32c bytes).toNat ∧ rows.length = leAt z 8 4 then
      some (leAt z 1 1, leAt z 4 4, rows)
    else none
  | none => none

/-- A Crate of the slot, of an epoch from e on, is still at an agent, or a message about the slot is under way, or an
acknowledgement is not handled, or a sealed log waits for its agent (R199, R207, R208; DEDUCED, log entry 15). -/
def State.crateBusy (s : State) (i : Nat) (e : Nat := 0) : Bool :=
  (List.range 16).any fun n =>
    ((s.agent n).crates.any fun c => c.st != .free && c.slot == i && e ≤ c.epoch) ||
      ((s.agent n).acks.any fun a => a.1 == i && e ≤ a.2) ||
      ((s.validSeal n).any fun z => z.1 == i && e ≤ z.2.1) ||
      ((s.link n).st != .down && ((s.dir n .out).busyWith i || (s.dir n .inb).busyWith i))

/-- Epoch e waits for its replay. -/
def Scatter.holds (sc : Scatter) (e : Nat) : Bool := sc.hold.any fun h => h ≤ e

/-- The positions of a bag before one are kept by a replay, with the rows that have arrived for them, and how many it has
read at most (R207, R209). -/
def Bag.upTo (b : Bag) (p : Nat) : Bag :=
  { b with taken := b.taken.filter fun t => t.pos < p, arrivals := b.arrivals.filter fun a => a.pos < p }

/-- A share whose offsets or lengths are read again (R207). -/
def Share.reread (sh : Share) : Share := if sh.desc.bagMode = 1 ∨ sh.desc.bagMode = 2 then { sh with closed := [] } else sh

/-- A scatter task replays from the start of an epoch (R196, R207): its open Crates from there on are aborted, its fixed
cuts stay, what was acknowledged stays acknowledged, and its buffers are read again. -/
def State.replayFrom (s : State) (w e : Nat) : State :=
  match s.scatterSlot w, s.work w with
  | some i, some k =>
    match s.scatter i with
    | some sc =>
      let p := sc.start e
      let keep (x : Nat × Nat) : Bool := x.1 < e || sc.acked.contains x
      let sc' := { sc with
        wantCut := false, issued := sc.issued.filter (· < p), hold := some (min e (sc.hold.getD e))
        counts := sc.counts.filter fun c => keep (c.1, c.2.1)
        reports := sc.reports.filter fun r => r.1 < e, committed := sc.committed.filter (· < e)
        sealedBy := sc.sealedBy.filter keep, gone := sc.gone.filter (· < e) }
      let s := (s.abortCrates i e sc.cuts.length).setScatter i (some sc')
      let s := s.killSlots fun f => f.work == w && p ≤ f.pos
      s.setWork w { k with staged := [], shares := k.shares.map Share.reread, bags := k.bags.map fun b => (b.1, b.2.upTo p) }
    | none => s
  | _, _ => s

/-- A scatter task replays from the start of the lowest epoch that is not acknowledged everywhere (R207). -/
def State.replayScatter (s : State) (w : Nat) : State :=
  match (s.scatterSlot w).bind s.scatter with
  | some sc => s.replayFrom w sc.base
  | none => s

/-- A scatter task that ends early: open Crates are discarded, and those in LOGGING or later complete
(R208). -/
def State.endScatter (s : State) (w : Nat) : State :=
  match s.scatterSlot w with
  | some i =>
    match s.scatter i with
    | some sc => (s.abortCrates i sc.base sc.cuts.length).setScatter i (some { sc with ending := true })
    | none => s
  | none => s

/-! ### Units that work on a task (R445) -/

/-- What an item of a task says in its arguments: ring and slot, or tag and stream of a class 0 request. -/
def Work.itemArgs (k : Work) : Nat × Nat :=
  match k.src, k.doorbell with
  | .class0 _ stream, some d => (d.tag, stream)
  | _, _ => k.ringSlot

/-- A tile or an array begins on a task: its first item of the task is TASK_START, at a tile CLASS0_ACCEPT for a class 0
request (R445; log entry 60). -/
def State.unitStarts (s : State) (w u : Nat) : State :=
  let w := s.root w
  match s.work w with
  | some k =>
    if k.units.contains u then s
    else (s.modWork w fun k => { k with units := k.units ++ [u] }).tally u
      (if k.doorbell.isSome && u < 64 then 13 else 0) k.itemArgs.1 k.itemArgs.2
  | none => s

/-- The tiles and arrays that have begun on a task record its end: TASK_END, at a tile CLASS0_DONE for a class 0 request
(R445; log entry 60). -/
def State.unitsEnd (s : State) (k : Work) : State :=
  s.each k.units fun s u =>
    if k.doorbell.isSome && u < 64 then s.tally u 14 k.itemArgs.1 k.status else s.tally u 1 k.itemArgs.1 k.itemArgs.2

/-! ### Rewinding a bag (R101) -/

/-- A bag whose packet has not committed is rewound: its fetches stop waiting, its selector blocks free, and
the space of its link returns (R172). Nothing of it reached a destination; it is gathered again. -/
def State.rewindBag (s : State) (w b cause : Nat) : State :=
  match s.work w with
  | some k =>
    let g := k.bags.get default b
    if g.committed then s
    else
      let s := s.killSlots fun f => f.work == w && f.bag == b
      let s := s.each (List.range 8) fun s a =>
        let x := s.array a
        s.setArray a { x with selUsed := x.selUsed.filter fun u => !(u.1 == w && u.2.1 == b) }
      let s := s.modBatches fun l => l.filter fun x => !(x.work == w && x.first ≤ b && b < x.first + x.count)
      let s := s.modMcast fun l => l.filter fun x => !(x.work == w && x.bag == b)
      let s := match k.link with
        | some p => if g.space then
            let q := s.sem p
            if q.fill + q.space < s.depth p then s.setSem p { q with space := q.space + 1, stalled := false } else s
          else s
        | none => s
      let s := match g.taken with
        | t :: _ =>
          let s := s.countTile t.engine 6 1
          match s.tileOf t.engine with
          | some n => s.tally n 3 b cause
          | none => s
        | [] => s
      (s.setWork w { k with bags := k.bags.set default b { (default : Bag) with peak := g.peak } }).syncLinks
  | none => s

/-- Every open bag of a piece of work that some test picks is rewound, and its batches begin again; a
scatter task replays (R207). cause counts the replay: 0 move to a spare, 1 data error, 2 link loss, 3 supply
excursion, 4 Porter or array retirement (R442). -/
def State.rewindWork (s : State) (w cause : Nat) (f : Bag → Bool := fun _ => true) : State :=
  match s.work w with
  | some k =>
    if k.ended then s
    else if (s.scatterSlot w).isSome then ((s.replayScatter w).count 0x006).count (0x008 + cause)
    else
      let bs := (k.bags.filter fun b => !b.2.committed && f b.2).map (·.1)
      if bs = [] then s
      else
        let s := s.each bs fun s b => (s.rewindBag w b cause).count (0x008 + cause)
        (s.count 0x006)
  | none => s

/-! ### Ending work -/

/-- A line of a Porter's data cache written back to the Store Room, for a piece of work. -/
def State.writeBack (s : State) (m w : Nat) (own : Owner) (l : DLine) : State :=
  let k := (s.work w).getD default
  (((s.struck k.domain l.addr 64).ownQueued own 1 false).sendWr own k.cls l.addr l.data k.desc.fence).count (porterCounter m 7)

/-- CFLUSH.ALL as a Porter leaves a program (R376): its dirty lines go to the Store Room, and the task waits for
their acknowledgement. -/
def State.leaveCache (s : State) (m : Nat) : State :=
  match (s.porter m).cur with
  | some e =>
    let dirty := (s.porter m).lines.filter DLine.dirty
    let s := s.each dirty fun s l => s.writeBack m e.work (.result e.work) l
    s.modPorter m fun p => { p with lines := [] }
  | none => s

/-- A Porter stops: its program ends with no HALT, and its tickets free (R351). -/
def State.stopPorter (s : State) (m : Nat) : State :=
  s.modPorter m fun p => { p with
    st := .idle, cur := none, tickets := List.replicate 16 .free, lines := [], run := none, miss := none
    released := false }

/-- A channel that copies a page for a promotion stops: the frame is not made valid (R232). It is free again once nothing
writes into it. -/
def State.copyFails (s : State) (ch : Nat) : State :=
  let c := s.chan ch
  let ds := c.cur.toList ++ c.ahead.filterMap fun e => e.2.map MoverDesc.ofBytes
  s.modMov fun m => { m with frames := m.frames.map fun f => match f.2 with
    | .copying _ _ => if ds.any fun d => d.dst == s.cfg.frameAddr f.1 then (f.1, .draining) else f
    | _ => f }

/-- A channel that is not idle stops with a code (R256): it issues no further burst, leaves the fault table
and discards its queued heads. A start of firmware's that waits is no head of a list, and goes on (R257; log entry
63). -/
def State.stopChan (s : State) (ch code : Nat) (fault : Option (Nat × Nat) := none) : State :=
  if (s.chan ch).st = .idle then s
  else
    ((s.leaveFaults fun a => a.own.isChan ch).copyFails ch).modChan ch fun c => { c with
      st := .stopping, stop := some (c.stop.getD code), heads := if 28 ≤ ch then c.heads else []
      gone := c.gone ++ if 28 ≤ ch then [] else c.heads.filterMap Head.user
      fault := if c.fault.isSome then c.fault else fault }

/-- The lists of some users leave a channel: a queued head goes, and one that runs stops. The heads of others stay, and
the end of the list that stops is nobody's (R351, R352). -/
def State.dropLists (s : State) (mine : Nat × Nat × Nat → Bool) : State :=
  s.each (List.range 28) fun s ch =>
    let heads := (s.chan ch).heads
    let keep := heads.filter fun h => !h.user.any mine
    let s := if (s.chan ch).user.any mine then
        (s.stopChan ch 2).modChan ch fun c => { c with user := c.user.map fun u => (u.1, u.2.1, 32) }
      else s
    s.modChan ch fun c => { c with heads := keep, gone := c.gone.filter fun u => !(mine u || keep.any fun h => h.user == some u) }

/-- One piece of work ends early with a status: nothing more of it runs. -/
def State.endOne (s : State) (w st : Nat) : State :=
  match s.work w with
  | some k =>
    if k.ended then s
    else
      let s := s.killSlots fun f => f.work == w
      let s := s.each (List.range 8) fun s a =>
        let x := s.array a
        s.setArray a { x with selUsed := x.selUsed.filter fun u => u.1 != w }
      let s := (s.modBatches fun l => l.filter fun b => b.work != w).modMcast fun l => l.filter fun x => x.work != w
      let s := s.modDisp fun d => { d with overflow := d.overflow.filter (· != w) }
      let s := s.leaveFaults fun a => a.own.isWork w
      let s := s.endScatter w
      let s := s.each (List.range 12) fun s m =>
        let s := if (s.porter m).cur.any fun e => e.work == w then s.stopPorter m else s
        s.modPorter m fun p => { p with mail := p.mail.filter fun e => e.work != w }
      let s := s.dropLists fun u => u.2.1 == w
      let keep := (s.scatterSlot w).isSome
      (s.modWork w fun k => { k with
        ended := true, status := st, parked := [], staged := [], porters := 0, mailbox := 0
        bags := if keep then k.bags else k.bags.filter fun b => b.2.committed }).syncLinks
  | none => s

/-- A piece of work ends early: with an operation of a Porter ends the whole task, and every operation of it
(R351), and its Porters flush their caches (R376); the links that it holds are emptied (R173). -/
def State.endWork (s : State) (w st : Nat) : State :=
  let r := s.root w
  let pairs := s.heldPairs r
  let s := if st = 1 ∨ st = 3 then s.each (s.portersOf r) State.leaveCache else s
  let s := s.each (r :: s.kids r) fun s k => s.endOne k st
  s.each pairs State.resetPair

/-- A software abort of a task (R282, R462): ABORTED_BY_HOST, or STALLED under R174. -/
def State.abortTask (s : State) (w : Nat) : State :=
  s.endWork w (if s.waitsStalled w then 4 else 2)

/-! ### Denied accesses -/

/-- The work of the engine slot that a fetch tag names. -/
def State.tagWork (s : State) (tag : Nat) : Option Nat :=
  match (s.engine (fld tag 14 9)).slots.get none (fld tag 8 0) with
  | some f => some f.work
  | none => none

/-- A descriptor read that came to an end: its slot takes the bytes, or is unreadable (R71). -/
def Ring.gotDesc (g : Ring) (slot : Nat) (d : DescSt) : Ring :=
  { g with fetched := g.fetched.map fun e => if e.1 = slot ∧ e.2 = .reading then (slot, d) else e }

/-- A channel ends with ACCESS_VIOLATION (R242, R256): it stops, or, when its list has completed, only reports it. -/
def State.failChan (s : State) (ch addr need : Nat) : State :=
  let c := s.chan ch
  if c.st = .idle then
    let s := s.setChan ch { c with code := 1, fault := if c.fault.isSome then c.fault else some (addr, need) }
    (s.raise Reg.mvNotice (2 ^ ch)).tallyNotice 114
  else s.stopChan ch 1 (some (addr, need))

/-- A write of a channel was refused; the task whose list made it ends with it (R351). -/
def State.failWrite (s : State) (ch : Nat) (w : Option Nat) (addr need : Nat) : State :=
  let s := s.failChan ch addr need
  match w with
  | some w => s.endWork w 1
  | none => s

/-- An access that lacks its right, or that the surroundings refused, ends what made it (R242, R275). A class 0
request whose destination refuses a write has no trailer (R96); a peer's packet gets a NAK of code 3 (R309; where the
surroundings refused, DESIGN CHOICE, log entry 77). -/
def State.denied (s : State) (own : Owner) (addr need : Nat) : State :=
  match own with
  | .work w => s.endWork w 1
  | .result w => match s.work w with
    | some k => if k.doorbell.isSome then (s.setWork w { k with dead := true }).endWork w 1 else s.endWork w 1
    | none => s
  | .descr r slot => s.setRing r ((s.ring r).gotDesc slot .unreadable)
  | .cold tag =>
    let s := s.modMov fun m => { m with
      flight := m.flight.map fun f => if f.c.tag = tag then { f with bad := true } else f }
    match s.tagWork tag with
    | some w => s.endWork w 1
    | none => s
  | .chanRead ch k => (s.failChan ch addr need).modChan ch fun c => { c with reads := c.reads.filter fun r => r.num != k }
  | .chanWrite ch w => s.failWrite ch w addr need
  | .chanDesc ch => s.modChan ch fun c => match c.reading with
      | some a => { c with ahead := c.ahead ++ [(a, none)], reading := none }
      | none => c
  | .peer c psn => s.refuse c psn 3
  | .flush w => s.endWork w 1
  | .record w => s.modWork w fun k => { k with recordLost := true }
  | _ => s

end Sys2Proof.Machine
end

