-- ==== Sys2Proof/Machine/Access.lean ====
section
/-! DEFINITION. Accesses to buffers and results: the translation port with its fault table (R259 to R266),
the choice of an initiator channel (R276), and reads and writes in every space (R240 to R242). -/

namespace Sys2Proof.Machine

open Sys2Proof

/-! ### The translation copy table -/

/-- The page size of an entry. -/
def TcEnt.size (e : TcEnt) : Nat := if e.big then 2 ^ 34 else 2 ^ 28

/-- An entry matches an access (R259). -/
def TcEnt.covers (e : TcEnt) (pasid space va : Nat) : Bool :=
  e.space == space && e.pasid == pasid && e.va == va / e.size * e.size

/-- The rights of a page: 1 R, 2 W, 4 A. -/
def TcEnt.rights (e : TcEnt) : Nat := bitAt e.r 0 + bitAt e.w 1 + bitAt e.a 2

/-- The entry that an access hits. -/
def State.tcFind (s : State) (pasid space va : Nat) : Option (Nat × TcEnt) :=
  s.mov.tc.findSome? fun e => e.2.bind fun t => if t.covers pasid space va then some (e.1, t) else none

/-- An entry becomes the most recently used. -/
def State.touchTc (s : State) (i : Nat) : State :=
  s.modMov fun m => { m with lru := i :: m.lru.filter (· != i) }

/-- The place of a new entry: a free one, else the least recently used that is not locked (R259). -/
def State.tcPlace (s : State) : Option Nat :=
  match (List.range 1024).find? fun i => (s.tcEnt i).isNone with
  | some i => some i
  | none => s.mov.lru.reverse.find? fun i => (s.tcEnt i).any fun e => !e.locked

/-- An entry filled; when every entry is locked the fill has no place. -/
def State.tcFill (s : State) (e : TcEnt) : State :=
  match s.tcPlace with
  | some i => (s.setTc i (some e)).touchTc i
  | none => s

/-! ### Initiator channels -/

/-- The pool of requests that found no channel with a credit (R276); it is kept as channel 4. -/
def hiPool : Nat := 4

/-- The channel of a request that may take any: one with a credit and the fewest waiting requests, the lower
number on a tie; the pool when none has a credit (R276). -/
def State.pickChan (s : State) : Nat :=
  ((List.range 4).foldl (fun (b : Option Nat) c =>
    if (s.hiChan c).credits = 0 then b
    else match b with
      | some d => if (s.hiChan c).queue.length < (s.hiChan d).queue.length then some c else b
      | none => some c) none).getD hiPool

/-- A translated access becomes a request (R273, R274); serial is the order of its translation. -/
def State.requestAt (s : State) (a : Access) (pa serial : Nat) : State :=
  let c := match a.chan with
    | some c => c % 4
    | none => s.pickChan
  let ty : HiType := if a.write then (if a.fence then .writePc else .write) else .read
  let q := s.hiChan c
  let r : HiReq := ⟨ty, a.own, a.cls, a.domain, a.addr, pa, a.len, a.data, serial, false⟩
  s.setHiChan c { q with queue := q.queue ++ [r] }

/-- An access translated now becomes a request. -/
def State.request (s : State) (a : Access) (pa : Nat) : State :=
  (s.modMov fun m => { m with serial := m.serial + 1 }).requestAt a pa s.mov.serial

/-! ### The fault table -/

/-- An access that misses waits in the fault table, or at the port while that is full (R264, R265). -/
def State.waitEntry (s : State) (a : Access) : State :=
  let pasid := (s.cfg.domain a.domain).pasid
  let sp := spaceOf a.addr
  let va := a.addr % 2 ^ 48 / 2 ^ 28 * 2 ^ 28
  let hit := s.mov.faults.find? fun e => e.2.any fun t => t.pasid == pasid && t.space == sp && t.va == va
  match hit with
  | some (i, some t) => s.setFault i (some { t with waiters := t.waiters ++ [a] })
  | _ =>
    match (List.range 32).find? fun i => (s.faultEnt i).isNone with
    | some i => s.setFault i (some ⟨false, false, pasid, sp, va, [a]⟩)
    | none => ((s.modMov fun m => { m with port := m.port ++ [a] }).raise Reg.mvNotice (2 ^ 32)).count 0x01A |>.tallyNotice 114

/-- A miss, counted once (R264, R442). -/
def State.miss (s : State) (a : Access) : State := (s.count 0x015).waitEntry a

/-- The 64-byte granules of a row (R228). -/
def Cold.granules (c : Cold) : Nat × Nat :=
  let a := c.addr / 64 * 64
  (a, roundUp (c.addr + c.len) 64 - a)

/-- A cold fetch translated in a page: the page's touch count rises once (R259). -/
def State.countTouch (s : State) (a : Access) (i : Nat) (e : TcEnt) : State :=
  match a.own with
  | .cold tag =>
    if s.mov.flight.any (fun f => f.c.tag == tag && f.c.granules.1 == a.addr) || a.addr % 2 ^ 48 == e.va then
      s.setTc i (some { e with touch := satAdd 0xFFFF e.touch 1 })
    else s
  | _ => s

/-- An access to a translated space: it hits, is denied, or misses (R242, R264), and an address outside these spaces lies
outside every right (R112, R237). The firmware domain's accesses are not translated (R257). An access of no bytes only
waits for its page, for a mover channel. -/
def State.accessOr (s : State) (a : Access) (miss : State → Access → State) : State :=
  if spaceOf a.addr ≠ 2 ∧ spaceOf a.addr ≠ 3 then (s.unqueue a).denied a.own a.addr (if a.write then 2 else 1)
  else if a.domain = 16 then s.request a (a.addr % 2 ^ 48)
  else
    let va := a.addr % 2 ^ 48
    match s.tcFind (s.cfg.domain a.domain).pasid (spaceOf a.addr) va with
    | some (i, e) =>
      let s := (s.touchTc i).countTouch a i e
      let need := if a.write then 2 else 1
      if e.rights &&& need = 0 then (s.unqueue a).denied a.own a.addr need
      else if a.len = 0 then
        match a.own with
        | .chanRead ch _ => s.modChan ch fun c => if c.st = .faultWait then { c with st := .running } else c
        | .chanWrite ch _ => s.modChan ch fun c => if c.st = .faultWait then { c with st := .running } else c
        | _ => s
      else s.request a (e.pa + va % e.size)
    | none => miss s a

/-- An access. -/
def State.access (s : State) (a : Access) : State := s.accessOr a State.miss

/-! ### Writes -/

/-- Runs of at most 256 bytes, from the first byte on, that do not cross a page (R246, R274). -/
def hostRanges (a n : Nat) : List (Nat × Nat) :=
  (ranges (2 ^ 28) a n).flatMap fun p =>
    (List.range (ceilDiv p.2 256)).map fun i => (p.1 + 256 * i, min 256 (p.2 - 256 * i))

/-- The same runs of some bytes. -/
def hostPieces (a : Nat) (data : Bytes) : List (Nat × Bytes) :=
  (hostRanges a data.length).map fun p => (p.1, slice data (p.1 - a) p.2)

/-- A write of some bytes in a class and domain: to the Store Room by WR messages split at 4 KiB (R315), to
the Larder at once (R25), with no translation fault in either (R227), to a translated space through the translation port. The flag says that it was not
denied; a write that lacks its right, or passes the last address (R112), has no effect but the denial (R242). -/
def State.writeOut (s : State) (own : Owner) (cls dom a : Nat) (data : Bytes) (fence : Bool)
    (chan : Option Nat) : State × Bool :=
  if data = [] then (s, true)
  else if 2 ^ 52 < a + data.length then (s.denied own a 2, false)
  else if spaceOf a = 0 then
    if s.allows dom a data.length 2 then
      let ps := splitAt 4096 a data
      (((s.struck dom a data.length).ownQueued own ps.length false).each ps fun s p => s.sendWr own cls p.1 p.2 fence, true)
    else (s.denied own a 2, false)
  else if spaceOf a = 1 then
    if s.allows dom a data.length 2 then ((s.struck dom a data.length).store a data, true) else (s.denied own a 2, false)
  else if spaceOf a = 2 ∨ spaceOf a = 3 then
    let ps := hostPieces a data
    (((s.struck dom a data.length).ownQueued own ps.length true).each ps fun s p =>
      s.access ⟨own, dom, cls, true, p.1, p.2.length, p.2, fence, chan⟩, true)
  else (s.denied own a 2, false)

/-! ### Reads -/

/-- What a reader finds. -/
inductive Found where
  | bytes (b : Bytes)
  | wait
  | denied
  deriving DecidableEq, Repr

/-- Every agent that holds a piece of some bytes is in service (R315). -/
def State.reach (s : State) (a n : Nat) : Bool :=
  spaceOf a != 0 || (ranges 4096 a n).all fun p => s.inService (s.ownerAgent p.1)

/-- Bytes of the Store Room or the Larder read at once (log entry 14): rights alone decide, and no translation fault is
taken on them (R227). A Store Room read waits while the link of the agent of one of its pieces carries nothing. -/
def State.readNow (s : State) (dom a n : Nat) : Found :=
  if n = 0 then .bytes []
  else if !s.allows dom a n 1 then .denied
  else if !s.reach a n then .wait
  else .bytes (s.load a n)

/-- The requests of an owner that are not answered overlap some bytes. -/
def State.readPending (s : State) (f : Owner → Bool) (a n : Nat) : Bool :=
  let hit (o : Owner) (b k : Nat) : Bool := f o && b < a + n && a < b + k
  (s.hi.any fun e => (e.2.queue.any fun r => r.ty == .read && hit r.own r.dev r.len) ||
    (e.2.flight.any fun r => r.2.any fun r => r.ty == .read && hit r.own r.dev r.len)) ||
  (s.mov.faults.any fun e => e.2.any fun t => t.waiters.any fun w => !w.write && hit w.own w.addr w.len) ||
  (s.mov.port.any fun w => !w.write && hit w.own w.addr w.len)

/-- Reads of a range of a translated space issued for an owner. -/
def State.readOut (s : State) (own : Owner) (cls dom a n : Nat) (chan : Option Nat) : State :=
  s.each (hostRanges a n) fun s p => s.access ⟨own, dom, cls, false, p.1, p.2, [], false, chan⟩

/-- One byte that the readers of a work hold. -/
def stagedByte (st : List (Nat × Bytes)) (a : Nat) : Option Byte :=
  st.findSome? fun e => if e.1 ≤ a ∧ a < e.1 + e.2.length then e.2[a - e.1]? else none

/-- The stack of some Store Room bytes that has not kept its contents (R421). -/
def State.lostStack (s : State) (a n : Nat) : Option Nat :=
  if spaceOf a = 0 then
    ((ranges 4096 a n).find? fun p => (s.agent (s.ownerAgent p.1)).noContents).map fun p => stackOf p.1
  else none

/-- Buffer bytes that a piece of work reads. Bytes of a translated space come through the translation port:
the first call issues the reads, and the work waits until the data has arrived (R24, log entry 14). -/
def State.workRead (s : State) (w a n : Nat) : Found × State :=
  match s.work w with
  | some k =>
    if a + n > 2 ^ 52 then (.denied, s)
    else if spaceOf a = 2 ∨ spaceOf a = 3 then
      let bs := (List.range n).map fun i => stagedByte k.staged (a + i)
      if bs.all Option.isSome then (.bytes (bs.map fun b => b.getD 0#8), s)
      else if s.readPending (fun o => o == .work w) a n then (.wait, s)
      else (.wait, s.readOut (.work w) k.cls k.domain a n none)
    else match s.readNow k.domain a n, s.lostStack a n with
      | .bytes _, some st => (.wait, s.park w (.contents st))
      | x, _ => (x, s)
  | none => (.wait, s)

/-- A value that a piece of work reads; a read outside its rights ends the work (R242). -/
def State.withBytes (s : State) (w a n : Nat) (f : Bytes → State → State) : State :=
  match s.workRead w a n with
  | (.bytes b, s) => f b s
  | (.wait, s) => s
  | (.denied, s) => s.endWork w 1

/-! ### The end of a walk (R265) -/

/-- A waiter whose page is known is tried again. -/
def State.resumeAll (s : State) (as : List Access) : State := s.each as State.access

/-- Accesses that waited at the port for a free entry are tried again, oldest first; each has missed once (R264). -/
def State.retryPort (s : State) : State :=
  let as := s.mov.port
  (s.modMov fun m => { m with port := [] }).each as fun s a =>
    match (List.range 32).find? fun i => (s.faultEnt i).isNone with
    | some _ => s.accessOr a State.waitEntry
    | none => s.modMov fun m => { m with port := m.port ++ [a] }

/-- A channel that has an outstanding wait for a page. -/
def State.waitPage (s : State) (ch dom cls a : Nat) (write : Bool) : State :=
  let own := if write then Owner.chanWrite ch none else .chanRead ch (s.chan ch).nextRead
  (s.modChan ch fun c => { c with st := .faultWait }).miss ⟨own, dom, cls, write, a, 0, [], false, none⟩

end Sys2Proof.Machine
end

