-- ==== Sys2Proof/Machine/Operands.lean ====
section
/-! DEFINITION. From a task to its rows: placement (R65), resolution of an index (R54, R55), routing in the
Compartment tree (R66, R383), and where the bags, indices, weights and results of a task lie (R80 to R90). -/

namespace Sys2Proof.Machine

open Sys2Proof

/-! ### Rows -/

/-- place of R65: the device address of row r. -/
def TableDesc.place (td : TableDesc) (r : Nat) : Nat :=
  if td.placeMode = 0 then (td.base + r * td.stride) % 2 ^ 52
  else
    let k := popcount 24 td.stackMask
    let b := r >>> td.splitLog2
    let lo := r % 2 ^ td.splitLog2
    let st := nthSetBit 24 td.stackMask (b % k)
    let local_ := (b / k) * 2 ^ td.splitLog2 + lo
    (st * 2 ^ 37 + td.base + local_ * td.stride) % 2 ^ 52

/-- shared_row of R55. -/
def sharedRow (x seed n : Nat) : Nat :=
  let a := seed ||| 1
  let t := (a * x + seed) % 2 ^ 64
  (t >>> 24) % n

/-- One resolved row of a table. -/
def TableDesc.loc (td : TableDesc) (r : Nat) : Nat × Nat × Nat := (td.id, r, td.place r)

/-- resolve of R54. -/
def Cfg.resolve (c : Cfg) (td : TableDesc) (x : Nat) : Resolved :=
  if td.sentinelEn && x == td.sentinel then .missing
  else match td.hashMode with
  | 0 => if td.rowCount ≤ x then .invalid else .rows [td.loc x]
  | 1 =>
    let r0 := sharedRow x td.seed0 td.rowCount
    if td.hash2 then .rows [td.loc r0, td.loc (sharedRow x td.seed1 td.rowCount)] else .rows [td.loc r0]
  | _ =>
    if td.rowCount ≤ x then .invalid
    else match c.table td.compQ, c.table td.compR with
    | some tq, some tr =>
      let q := x / td.divisor
      let r := x % td.divisor
      if tq.rowCount ≤ q ∨ tr.rowCount ≤ r then .invalid else .rows [tq.loc q, tr.loc r]
    | _, _ => .invalid



/-! ### Routing -/

/-- route_hash of R383. -/
def routeHash (x : Nat) : Nat := (x * 0x9E3779B97F4A7C15 % 2 ^ 64) >>> 32

/-- The entry of a Compartment for a table (R383). -/
def Cfg.routeEntry (c : Cfg) (node t : Nat) : Option Route :=
  let n := c.tree.getD node default
  (((c.routes.drop n.routeFirst).take n.routeCount).find? fun r => r.lo ≤ t && t ≤ r.hi)

/-- The ordinals that a mask of 16 bits names. -/
def Route.ordinals (r : Route) : List Nat := setBits 16 r.children

/-- The engine position that an index of a table reaches from a node, by fuel; steer chooses the ordinal at a
steering Compartment. -/
def Cfg.routeGo (c : Cfg) (t x : Nat) (scatter : Bool) (steer : Nat → List Nat → Nat) : Nat → Nat → Option Nat
  | 0, _ => none
  | f + 1, node =>
    let n := c.tree.getD node default
    match n.engine with
    | some p => some p
    | none =>
      match c.routeEntry node t with
      | none => none
      | some r =>
        let os := r.ordinals
        let hashed := os.getD (routeHash x % os.length) 0
        let o := match r.mode with
          | .table => os.getD 0 0
          | .hash => hashed
          | .steer => if scatter then hashed else steer node os
        match (c.children node)[o]? with
        | some child => c.routeGo t x scatter steer f child
        | none => none

/-- The engine position that serves an index (R383). -/
def Cfg.route (c : Cfg) (t x : Nat) (scatter : Bool) (steer : Nat → List Nat → Nat) : Option Nat :=
  c.routeGo t x scatter steer (c.tree.length + 1) 0

/-- The steering Compartment that an index of a table meets, with its ordinals: the table's REPL_NODE. -/
def Cfg.steerNode (c : Cfg) (td : TableDesc) : Option (Nat × List Nat) :=
  if td.replicated then
    (c.routeEntry td.replNode td.id).bind fun r => if r.mode = .steer then some (td.replNode, r.ordinals) else none
  else none

/-- Row fetches queued below a node (R66): the busy fetch slots of its positions (DESIGN CHOICE, log entry 70). -/
def State.queuedBelow (s : State) (node : Nat) : Nat :=
  (s.cfg.positionsBelow node).foldl (fun n p => n + (s.engine p).slots.length) 0

/-- The replica child of R66: the fewest fetches queued, the lowest ordinal on a tie. -/
def State.pickReplica (s : State) (node : Nat) (os : List Nat) : Nat :=
  let q (o : Nat) := s.queuedBelow ((s.cfg.children node).getD o 0)
  (os.foldl (fun (b : Option Nat) o =>
    match b with
    | none => some o
    | some d => if q o < q d then some o else b) none).getD 0

/-! ### Bags -/

/-- The share that holds a bag of a work, with the bag's number in the share. -/
def Work.shareOf (w : Work) (b : Nat) : Option (Nat × Share × Nat) :=
  (w.shares.zipIdx.find? fun e => e.1.first ≤ b && b < e.1.first + e.1.count).map fun e =>
    (e.2, e.1, b - e.1.first)

/-- A FIXED bag (R81). -/
def TaskDesc.fixedRange (d : TaskDesc) (b : Nat) : Range :=
  ⟨b * d.bagLen, min d.bagLen (d.indexCount - b * d.bagLen), false⟩

/-- A bag from its start and its end, cut at INDEX_COUNT (R82). -/
def TaskDesc.clip (d : TaskDesc) (start stop : Nat) : Range :=
  if stop ≤ d.indexCount then ⟨start, stop - start, false⟩
  else ⟨start, d.indexCount - start, true⟩

/-- Where the next unread bag of a share starts, and whether the cut was passed (R82). -/
def Share.nextStart (sh : Share) : Nat × Bool :=
  match sh.closed.getLast? with
  | some r => (r.start + r.len, r.cut)
  | none => (0, false)

/-- A share of a work changed. -/
def State.setShare (s : State) (w i : Nat) (sh : Share) : State :=
  s.modWork w fun k => { k with shares := k.shares.set i sh }

/-- One more bag range of an OFFSETS or JAGGED share: the readers read its entry, unless the cut has been
passed (R81, R82). An entry that R83 calls malformed gives none. -/
def State.readRange (s : State) (w i : Nat) (sh : Share) : Option State :=
  let d := sh.desc
  let (start, past) := sh.nextStart
  let b := sh.closed.length
  let add (r : Range) (s : State) : State := s.setShare w i { sh with closed := sh.closed ++ [r] }
  if past then some (add ⟨d.indexCount, 0, true⟩ s)
  else if d.bagMode = 1 then
    match s.workRead w (d.offsets + 4 * b) 8 with
    | (.bytes bs, s) =>
      let lo := leAt bs 0 4
      let hi := leAt bs 4 4
      if hi < lo ∨ 0xFFFFFF < hi - lo then none else some (add (d.clip (min lo d.indexCount) hi) s)
    | (.wait, s) => some s
    | (.denied, s) => some (s.endWork w 1)
  else
    match s.workRead w (d.offsets + 4 * b) 4 with
    | (.bytes bs, s) =>
      let n := leAt bs 0 4
      if 0xFFFFFF < n then none else some (add (d.clip start (start + n)) s)
    | (.wait, s) => some s
    | (.denied, s) => some (s.endWork w 1)

/-- The range of a bag, when it is known: FIXED bags always are, PROGRAM bags once the program closed them or
ended without (an empty bag with CUT = 1, R82), OFFSETS and JAGGED bags once their entry was read. -/
def Share.range (sh : Share) (lb : Nat) : Option Range :=
  if sh.desc.bagMode = 0 then some (sh.desc.fixedRange lb)
  else if sh.desc.bagMode = 3 && sh.stream.ended && sh.closed.length ≤ lb then some ⟨sh.emits.length, 0, true⟩
  else sh.closed[lb]?

/-- Ranges read up to a bag, by fuel: the state, and false for a malformed entry. -/
def State.readRangesGo (s : State) (w i lb : Nat) : Nat → Option State
  | 0 => some s
  | f + 1 =>
    match (s.work w).bind fun k => k.shares[i]? with
    | some sh =>
      if (sh.range lb).isSome || sh.desc.bagMode == 3 then some s
      else
        match s.readRange w i sh with
        | none => none
        | some s' =>
          match (s'.work w).bind fun k => k.shares[i]? with
          | some sh' => if sh'.closed.length = sh.closed.length then some s' else s'.readRangesGo w i lb f
          | none => some s'
    | none => some s

/-- Ranges read up to a bag of a share. -/
def State.readRanges (s : State) (w i lb : Nat) : Option State := s.readRangesGo w i lb (lb + 1)

/-! ### Indices and weights -/

/-- Is there a position p in the share now (R80)? In PROGRAM mode it was emitted. -/
def Share.hasPos (sh : Share) (p : Nat) : Bool := sh.desc.bagMode != 3 || p < sh.emits.length

/-- The index at a position (R53, R80): inline, emitted, or in the index buffer. -/
def State.readIndex (s : State) (w : Nat) (sh : Share) (p : Nat) : Found × State :=
  match s.work w with
  | some k =>
    let inl := match k.doorbell with
      | some d => !d.ptr
      | none => false
    if inl then
      (.bytes (leBytes 8 (((k.doorbell.map Doorbell.inline).getD []).getD p 0)), s)
    else
      let a := if sh.desc.bagMode = 3 then (sh.emits.getD p default).addr else sh.desc.index + p * sh.desc.idxBytes
      s.workRead w a sh.desc.idxBytes
  | none => (.wait, s)

/-- The weight at a position (R80, R87): none stands for 1.0. -/
def State.readWeight (s : State) (w : Nat) (sh : Share) (p : Nat) : Found × State :=
  let f := sh.desc.wfmt
  if sh.desc.bagMode = 3 then
    match (sh.emits.getD p default).wgt with
    | some a => s.workRead w a (f.bits / 8)
    | none => (.bytes [], s)
  else s.workRead w (sh.desc.weights + p * (f.bits / 8)) (f.bits / 8)

/-- A weight from the bytes read. -/
def weightOf (f : Fmt) (b : Bytes) : Option Weight := if b = [] then none else some ⟨f, leNat b⟩

/-! ### Results -/

/-- Where bag lb of a share writes; a link writes into its slots (R80, R365). -/
def Share.resultAddr (sh : Share) (lb : Nat) (slot : Nat) (link : Bool) : Nat :=
  sh.desc.result + (if link then slot else lb) * sh.desc.rstride

/-- A malformed descriptor of a GATHER or SCATTER task, as far as its own words show it (R70, R76 to R83,
R90): reserved fields and encodings, a FIXED task with no bag length, a result stride that is too small. -/
def TaskDesc.badGather (d : TaskDesc) (td : TableDesc) : Bool :=
  d.cls == 0 || (PoolMode.ofCode d.poolCode).isNone || (OutFmt.ofCode d.outCode).isNone ||
    (d.bagMode == 0 && d.bagLen == 0 && d.indexCount != 0) || d.rstride % 16 != 0 ||
    d.rstride < d.resultSize td || 16384 < d.resultSize td ||
    (d.ieee && td.fmt != .fp32 && td.fmt != .fp64)

/-- IEEE mode needs both components of a composed table in FP32 or FP64 (R134). -/
def Cfg.badIeee (c : Cfg) (d : TaskDesc) (td : TableDesc) : Bool :=
  d.ieee && (c.updated td).any fun t => t.fmt != .fp32 && t.fmt != .fp64

/-! ### Table validity (R43) -/

/-- The fields of a table that only some storage modes and placements use are zero in the others (R39 to R42). -/
def TableDesc.badUnused (td : TableDesc) : Bool :=
  let hash := td.hash2 || td.composeAdd || td.seed0 != 0 || td.seed1 != 0
  let comp := td.divisor != 0 || td.compQ != 0 || td.compR != 0
  (match td.hashMode with
    | 0 => hash || comp
    | 1 => comp || (!td.hash2 && td.seed1 != 0)
    | _ => td.hash2 || td.seed0 != 0 || td.seed1 != 0) ||
    (td.placeMode == 0 && (td.stackMask != 0 || td.splitLog2 != 0)) ||
    (!td.replicated && (td.replM1 != 0 || td.replNode != 0)) || (!td.sentinelEn && td.sentinel != 0)

/-- The rows of a table lie where R43 allows: inside one stack, or inside its part of each, or in the Cellar. -/
def State.badPlacing (s : State) (td : TableDesc) : Bool :=
  let fits (st off rows : Nat) : Bool := s.stackPresent st && off + rows * td.stride ≤ s.stackCapacity st
  if td.placeMode = 0 then
    (match spaceOf td.base with
    | 0 => !fits (stackOf td.base) (stackOff td.base) td.rowCount
    | 2 => 3 * 2 ^ 48 < td.base + td.rowCount * td.stride || td.atomic || td.migrateEn || td.replicated
    | _ => true)
  else
    let ss := Machine.setBits 24 td.stackMask
    td.placeMode != 1 || ss.length < 2 || 2 ^ 37 ≤ td.base || 40 < td.splitLog2 ||
      !(ss.zipIdx.all fun e => fits e.1 td.base (td.rowsOn ss.length e.2))

/-- A table with storage of its own breaks a rule of R43. -/
def State.badStored (s : State) (td : TableDesc) : Bool :=
  9 < td.fmtCode || td.hint == 3 || td.elements == 0 || 4096 < td.dataBytes || 8192 < td.elements ||
    (td.fmtCode == 7 && td.elements % 2 != 0) || ((td.fmtCode == 6 || td.fmtCode == 7 || td.migrateEn) && !td.hdr) ||
    td.stride < td.rowBytes || td.stride == 0 || 65536 < td.stride || td.base % 64 != 0 || s.badPlacing td ||
    (td.atomic && !([0, 2, 3].contains td.fmtCode)) ||
    (td.replicated && (!td.migrateEn || td.replM1 == 0 || (s.cfg.children td.replNode).length ≤ td.replM1)) ||
    td.badUnused || td.spare

/-- A malformed table (R43): Farnum does not check it, and a task that names it commits a host error. The Header row
holds of a COMPOSED table too, so that none has format INT8 or INT4. -/
def State.badTable (s : State) (td : TableDesc) : Bool :=
  match td.hashMode with
  | 2 =>
    9 < td.fmtCode || td.fmtCode == 6 || td.fmtCode == 7 || td.hint == 3 || 4096 < td.dataBytes || td.hdr || td.migrateEn || td.replicated || td.atomic ||
      td.stride != 0 || td.base != 0 || td.placeMode != 0 || td.divisor == 0 || td.badUnused || td.spare ||
      (match s.cfg.table td.compQ, s.cfg.table td.compR with
      | some q, some r =>
        q.hashMode != 0 || r.hashMode != 0 || s.badStored q || s.badStored r || q.elements != td.elements ||
          r.elements != td.elements || q.rowCount - 1 < (td.rowCount - 1) / td.divisor || r.rowCount < td.divisor
      | _, _ => true)
  | 3 => true
  | _ => s.badStored td

/-- The table that a task names is malformed. -/
def State.badNamed (s : State) (t : Nat) : Bool := (s.cfg.table t).any s.badTable

/-! ### What a host error leaves open (R8) -/

/-- n free values. -/
def State.drawN (s : State) : Nat → List Nat × State
  | 0 => ([], s)
  | n + 1 =>
    let (v, s) := s.draw
    let (l, s) := s.drawN n
    (v :: l, s)

/-- A task or request with a host error in its descriptor, its program or its buffers goes no further (R8): what it
reaches is open, and so are the STATUS and the counts that it ends with (DESIGN CHOICE, log entry 7). -/
def State.openWork (s : State) (w : Nat) : State :=
  let r := s.root w
  let s := s.each (r :: s.kids r) State.openDests
  let (v, s) := s.drawN 8
  let x (i : Nat) : Nat := v.getD i 0
  (s.endWork r (x 0 % 5)).modWork r fun k => { k with
    tally := ⟨x 1 % 2 ^ 32, x 2 % 2 ^ 32, x 3 % 2 ^ 32, x 4 % 2 ^ 32, bitOf (x 5) 0⟩
    answer := if k.doorbell.isSome then some (x 6 % 8, x 7 % 2 ^ 24) else none }

/-- Two live tasks or requests write bytes in common, or one writes some twice (R7): what they reach is open. -/
def State.checkOverlap (s : State) (w : Nat) : State :=
  match s.work w with
  | some k =>
    let mine := s.dests k
    let others := s.works.filter fun e => e.1 != w && e.2.live && e.2.link.isNone && (s.dests e.2).any fun q => mine.any q.meets
    let self := mine.any Wild.meetsSelf || mine.zipIdx.any fun e => (mine.drop (e.2 + 1)).any e.1.meets
    let lists := s.mov.chans.filter fun e => e.2.dests.any fun q => mine.any q.meets
    if others = [] && lists.isEmpty && !self then s
    else
      let s := lists.foldl (fun s e => (s.openBytes (s.chanDomain e.1) e.2.dests).setChan e.1 { s.chan e.1 with broken := true }) s
      (s.each (others.map (·.1)) State.openDests).openDests w
  | none => s

end Sys2Proof.Machine
end

