-- ==== Sys2Proof/Machine/Target.lean ====
section
/-! DEFINITION. What target writes do to rings: doorbells (R279), ring enables (R277, R281) and aborts (R282, R462); and
what a plain register write may change (R454, R455). -/

namespace Sys2Proof.Machine

open Sys2Proof

/-- The bits of an 8-byte register that an access of a size at an offset reaches (R454). -/
def halfMask (off size : Nat) : Nat :=
  if size = 8 then bitsMask 63 0 else if off % 8 = 4 then bitsMask 63 32 else bitsMask 31 0

/-- An access of 4 or 8 naturally aligned bytes (R271). -/
def aligned (off size : Nat) : Bool := (size == 4 || size == 8) && off % size == 0

/-- RO fields that are not reserved, in registers that have RW fields. -/
def roMask (off : Nat) : Nat :=
  match inBank off 0x030000 0x40 32 with
  | some (_, 8) => bitsMask 13 8 + bitsMask 19 16
  | _ => 0

/-- The RW bits that a plain write may change now: firmware channels take no write (R257), and the class of
a Porter-owned channel is not software's (R258). -/
def State.writable (s : State) (off : Nat) : Nat :=
  match inBank off 0x030000 0x40 28 with
  | some (n, 8) => if (s.cfg.chan n).porterOwned then 3 else rwMask off
  | _ => rwMask off

/-- A change that is a host error: ring addresses while the ring is enabled or has outstanding tasks, the
limit while it is enabled (R281), a valid connection or window entry (R302), and reserved encodings (R6). -/
def State.badChange (s : State) (off mask old new : Nat) : Bool :=
  let changed := (old ^^^ new) &&& rwMask off != 0
  match inBank off 0x010000 0x40 64, inBank off 0x030000 0x40 28, inBank off 0x051000 0x20 256,
      inBank off 0x053000 0x10 256, inBank off 0x054000 0x10 256 with
  | some (r, 0), _, _, _, _ =>
    (changed && (s.ringEn r || s.outstanding r != 0)) ||
      (mask &&& bitsMask 60 56 != 0 && (fld new 60 56 < 4 || 16 < fld new 60 56))
  | some (r, 8), _, _, _, _ => changed && (s.ringEn r || s.outstanding r != 0)
  | some (r, 0x10), _, _, _, _ => changed && s.ringEn r
  | _, some (n, 8), _, _, _ => mask &&& 0xC != 0 && !(s.cfg.chan n).porterOwned && fld new 3 2 == 0
  | _, _, some (c, 0x10), _, _ => changed && s.cnValid c && bitOf new 0
  | _, _, some (c, _), _, _ => changed && s.cnValid c
  | _, _, _, some (_, 0), _ => changed && bitOf old 0 && bitOf new 0
  | _, _, _, some (w, _), _ => changed && bitOf (s.reg (Reg.pwOb w)) 0
  | _, _, _, _, some (_, 0) => changed && bitOf old 52 && bitOf new 52
  | _, _, _, _, some (w, _) => changed && bitOf (s.reg (Reg.pwIb w)) 52
  | _, _, _, _, _ => false

/-! ### Ring doorbell pages and ring registers -/

/-- A doorbell write with no effect (R279). -/
def State.dbIgnored (s : State) : State := ((s.raise Reg.rgEvent 2).tallyNotice 115).count 0x01E

/-- A host error at a ring's doorbell page or registers (R8): its positions take any value, and its completion ring, the
destinations of its tasks and the tables that they may change are open. -/
def State.wildRing (s : State) (r : Nat) : State :=
  let s := s.openBytes (s.cfg.ringDomain r) [⟨s.cqAddr r, 32, 32, s.ringSize r⟩]
  let s := s.each ((s.ringWorks r).map (·.1)) State.openDests
  let (v, s) := s.drawN 4
  let x (i : Nat) : Nat := v.getD i 0 % 2 ^ 32
  s.setRing r { s.ring r with prod := x 0, cons := x 1, cpl := x 2, fetch := x 3, fetched := [] }

/-- A write to a register of a ring doorbell page: with no effect while READY = 0 or the ring is disabled, and a host
error during activation or in any other form (R26, R279, R463). -/
def State.onRing (s : State) (page : Nat) (size : Nat) (data : Word) (f : Nat → Nat → State) : State :=
  match s.cfg.page page with
  | .ring r =>
    if s.slots.activating then s.wildRing r
    else if !s.ready || !s.ringEn r then s.dbIgnored
    else if !(size == 4 || size == 8) || (size == 8 && data.toNat / 2 ^ 32 != 0) then s.wildRing r
    else f r (data.toNat % 2 ^ 32)
  | _ => s.dbIgnored

/-- SQ_PROD (R279). -/
def State.sqProd (s : State) (page : Nat) (size : Nat) (data : Word) : State :=
  s.onRing page size data fun r v =>
    let g := s.ring r
    if posDiff v g.cpl ≤ s.ringSize r ∧ posDiff g.prod g.cpl ≤ posDiff v g.cpl then s.setRing r { g with prod := v }
    else s.wildRing r

/-- CQ_CONS (R279). -/
def State.cqCons (s : State) (page : Nat) (size : Nat) (data : Word) : State :=
  s.onRing page size data fun r v =>
    let g := s.ring r
    if posDiff v g.cons ≤ posDiff g.cpl g.cons then s.setRing r { g with cons := v } else s.wildRing r

/-- RG_CTL.EN from 0 to 1: the positions start at zero (R73, R277, R293). -/
def State.ringOn (s : State) (r : Nat) : State :=
  if s.ringEn r then s else (s.setRing r Ring.init).setRingEn r true

/-- RG_CTL.EN from 1 to 0 (R281). -/
def State.ringOff (s : State) (r : Nat) : State := if s.ringEn r then (s.dropFetched r).setRingEn r false else s

/-- The outstanding tasks of a ring that an abort names. -/
def State.abortList (s : State) (r : Nat) (f : Nat → Bool) : List Nat :=
  ((s.ringWorks r).filter fun e => match e.2.src with
    | .ring _ sl => f sl
    | _ => false).map (·.1)

/-- A write to RG_ABORT (R282). -/
def State.abortRing (s : State) (r slot : Nat) (all : Bool) : State :=
  s.each (s.abortList r fun sl => all || sl == slot) State.abortTask

/-- A write of 1 to FN_CTL.ABORT_ALL (R462). -/
def State.abortEvery (s : State) : State := s.each (List.range 64) fun s r => s.abortRing r 0 true

/-! ### Connections -/

/-- Both sequence spaces of a connection start at zero (R299). -/
def State.startConn (s : State) (c : Nat) : State := s.setConn c Conn.init

end Sys2Proof.Machine
end

