-- ==== Sys2Proof/Machine/PeerOps.lean ====
section
/-! DEFINITION. Peer connections: outbound windows (R300), and the sequenced packets of a sender (R303, R307). -/

namespace Sys2Proof.Machine

open Sys2Proof

/-! ### The sender's side -/

/-- Sequenced packets that the connections of a port have not had acknowledged. -/
def State.portUnacked (s : State) (p : Nat) : Nat :=
  (s.peer.conns.filter fun e => s.cnPort e.1 == p).foldl (fun n e => n + e.2.sent.length) 0

/-- A connection may send one more sequenced packet (R305, R307): the receiver drops one 256 or more past its
EXP, so the PSN stays within 256 of the last ACK_PSN too. -/
def State.peerRoom (s : State) (c : Nat) : Bool :=
  let k := s.conn c
  k.sent.length < 256 && posDiff k.next k.una < 256 && s.portUnacked (s.cnPort c) < 4096

/-- A sequenced packet that is to be sent, before it has its PSN. -/
def Sent.new (ty addr len aux : Nat) (src : Option Nat) (data : Bytes) : Sent :=
  { psn := 0, ty := ty, addr := addr, len := len, aux := aux, src := src, data := data, ch := none, work := none, dno := 0
    started := false, resent := false }

/-- The packets of a connection that wait, as many as the limits of R307 allow, take the next PSNs and wait at its
port, by fuel. -/
def State.drainGo (s : State) (c : Nat) : Nat → State
  | 0 => s
  | f + 1 =>
    let k := s.conn c
    match k.want with
    | p :: rest =>
      if s.peerRoom c then
        let s := s.setConn c { k with
          next := (k.next + 1) % 2 ^ 32, want := rest, sent := k.sent ++ [{ p with psn := k.next }] }
        let q := s.port (s.cnPort c)
        (s.setPort (s.cnPort c) { q with queue := q.queue ++ [⟨2, c, [], some k.next, none⟩] }).drainGo c f
      else s
    | [] => s

/-- The waiting packets of a connection that have room go to its port. -/
def State.drainSeq (s : State) (c : Nat) : State := s.drainGo c (s.conn c).want.length

/-- A sequenced packet sent on a connection, after those that wait for room. -/
def State.sendSeq (s : State) (c : Nat) (p : Sent) : State :=
  let k := s.conn c
  (s.setConn c { k with want := k.want ++ [p] }).drainSeq c

/-- A packet goes on with one more burst (R300): the bytes follow its own, of the same descriptor, they fit into MAXDATA,
and it has not left. -/
def Sent.joins (x p : Sent) (most : Nat) : Bool :=
  !x.started && x.ty == p.ty && x.ch.map (·.1) == p.ch.map (·.1) && x.ch.isSome && x.dno == p.dno &&
    x.addr + x.len == p.addr && x.len + p.len ≤ most

/-- The two as one packet. -/
def Sent.join (x p : Sent) : Sent :=
  { x with len := x.len + p.len, data := x.data ++ p.data
           src := if x.src.isSome && p.src == x.src.map (· + x.len) then x.src else none }

/-- A packet of a mover channel: it joins the connection's last packet where R300 lets it, else it is one of its own. -/
def State.sendMover (s : State) (c : Nat) (p : Sent) : State :=
  let k := s.conn c
  match k.want.getLast?, k.sent.getLast? with
  | some x, _ =>
    if x.joins p s.maxData then s.setConn c { k with want := k.want.dropLast ++ [x.join p] } else s.sendSeq c p
  | none, some x =>
    if x.joins p s.maxData then s.setConn c { k with sent := k.sent.dropLast ++ [x.join p] } else s.sendSeq c p
  | none, none => s.sendSeq c p

/-- The READ_ID of the packet that a READ_REQ of a channel will join, or the connection's next (R300). -/
def State.readId (s : State) (c : Nat) (p : Sent) : Nat :=
  let k := s.conn c
  match (k.want.getLast?).orElse fun _ => k.sent.getLast? with
  | some x => if x.joins p s.maxData then x.aux else k.nextRead
  | none => k.nextRead

/-- A READ_REQ for a part of a burst (R300, R304). -/
def State.sendRead (s : State) (c ch burst a : Nat) (p : Sent) : State :=
  let id := s.readId c p
  let k := s.conn c
  (s.setConn c { k with
    reads := k.reads ++ [⟨id, ch, some burst, a, p.len⟩]
    nextRead := if id = k.nextRead then (id + 1) % 2 ^ 16 else k.nextRead }).sendMover c { p with aux := id }

/-- A READ_REQ for a channel's descriptor at a, in a packet of its own (R255, R300). -/
def State.sendDesc (s : State) (c ch a addr : Nat) : State :=
  let k := s.conn c
  let p := { Sent.new 1 addr 64 k.nextRead none [] with ch := some (ch, a) }
  (s.setConn c { k with
    reads := k.reads ++ [⟨k.nextRead, ch, none, a, 64⟩], nextRead := (k.nextRead + 1) % 2 ^ 16 }).sendSeq c p

/-- The outbound window of a space 0x8 access (R300): its connection and the ADDR of its packets, when the
window grants the right (1 R, 2 W) on n bytes. -/
def State.outWindow (s : State) (a n need : Nat) : Option (Nat × Nat) :=
  let w := fld a 47 40
  let off := fld a 39 0
  let ctl := s.reg (Reg.pwOb w)
  let c := fld ctl 15 8
  if bitOf ctl 0 && ctl &&& (2 * need) != 0 && off + n ≤ fld (s.reg (Reg.pwOb w + 8)) 39 0 + 1 && s.cnValid c then
    some (c, off + put (fld ctl 23 16) 8 40)
  else none

/-- Packets of a mover channel's bursts that are not acknowledged, and their reads that are not answered (R307); a
descriptor's own packet carries the number 0. -/
def State.chanPackets (s : State) (ch : Nat) : Bool :=
  s.peer.conns.any fun e => (e.2.sent ++ e.2.want).any (fun p => p.dno != 0 && p.ch.any fun x => x.1 == ch) ||
    e.2.reads.any fun r => r.ch == ch && r.burst.isSome

/-- The same on connections that are not LOST: a channel that is aborted waits for no LOST one (R308). -/
def State.chanPacketsLive (s : State) (ch : Nat) : Bool :=
  s.peer.conns.any fun e => !e.2.lost &&
    ((e.2.sent ++ e.2.want).any (fun p => p.ch.any fun x => x.1 == ch) || e.2.reads.any fun r => r.ch == ch)

end Sys2Proof.Machine
end

