-- ==== Sys2Proof/Machine/Score.lean ====
section
/-! DEFINITION. What the scoring arrays compute: dot products on every path (R155 to R158), the selector
(R161, R162), interaction (R165) and projection (R166, R168). -/

namespace Sys2Proof.Machine

open Sys2Proof

/-- The operand pairings of R155: row side and query side. -/
def pairOk (row query : Fmt) : Bool :=
  match query with
  | .int8 => row == .int8 || row == .int4
  | .bf16 => row == .int8 || row == .int4 || row == .bf16 || row == .fp16 || row == .fp32 || row == .fp64 ||
      row == .lns16
  | .fp8e4m3 => row == .fp8e4m3 || row == .fp8e5m2
  | .fp8e5m2 => row == .fp8e4m3 || row == .fp8e5m2
  | .lns8 => row == .lns8
  | _ => false

/-- The formats of query and input vectors (R151). -/
def queryFmt : Nat → Option Fmt
  | 2 => some .bf16 | 4 => some .fp8e4m3 | 5 => some .fp8e5m2 | 6 => some .int8 | 9 => some .lns8
  | _ => none

/-- Bytes of a vector: an INT8 vector starts with a 16-byte header (R153). -/
def vectorBytes (f : Fmt) (n : Nat) : Nat := (if f = .int8 then 16 else 0) + f.dataBytes n

/-- A query or input vector from its bytes: SCALE, ZERO_POINT and ROW_SUM of an INT8 header count, its flags
do not (R153). -/
def vectorOfBytes (f : Fmt) (n : Nat) (b : Bytes) : RowVal :=
  let r := RowVal.ofBytes f (f = .int8) n b
  { r with hdr := { r.hdr with flags := 0, version := 0, optAcc := 0 } }

/-- A query vector held by the block. -/
def QVec.val (q : QVec) : RowVal := vectorOfBytes ((queryFmt q.fmtCode).getD .bf16) q.elements q.bytes

/-- The code that a row-side element enters a float path with: dequantised and rounded to BF16, but for FP8
and LNS8 (R155). -/
def rowSideValue (f : Fmt) (c : Nat) : FV :=
  match f with
  | .fp16 | .fp32 | .fp64 | .lns16 =>
    FFmt.bf16.decode (FFmt.bf16.encode .nearest ((poolFmt f).decode ((poolFmt f).encode .nearest (f.value c))))
  | f => f.value c

/-- The exact product of a row-side code and a query code on a float path (R156). -/
def scoreProduct (rf qf : Fmt) (r q : Nat) : FV :=
  match rf, qf with
  | .lns8, .lns8 => (lnsDecode 8 r).mul (lnsDecode 8 q)
  | _, _ => (rowSideValue rf r).mul (qf.value q)

/-- A ZERO_ROW row enters as zeros (R155). -/
def zeroed (r : RowVal) : RowVal :=
  if r.hdr.zeroRow then
    { r with hdr := { r.hdr with scale := 0x3F800000, zeroPoint := 0, rowSum := 0 }
             codes := r.codes.map fun _ => 0 }
  else r

/-- ROW_SUM differs from the sum of the stored codes (R137). -/
def RowVal.badSum (r : RowVal) : Bool :=
  (r.fmt == .int8 || r.fmt == .int4) &&
    sext 32 r.hdr.rowSum != (r.codes.map (sext r.fmt.bits)).foldl (fun (a b : Int) => a + b) 0

/-- One score: the dot product of a row-side vector and a query-side vector, FP32 (R157, R158). -/
def scoreVec (row query : RowVal) : Nat :=
  let r := zeroed row
  let rInt := r.codes.map (sext r.fmt.bits)
  match r.fmt, query.fmt with
  | .int8, .int8 | .int4, .int8 =>
    scaledInt query.hdr.scale r.hdr.scale
      (dotInt (query.codes.map (sext 8)) rInt query.hdr.zp r.hdr.zp (sext 32 query.hdr.rowSum)
        (sext 32 r.hdr.rowSum))
  | .int8, _ | .int4, _ =>
    let ints := rInt.map fun i => FV.fin (decide (i < 0)) i.natAbs 0
    let xs := query.codes.map query.fmt.value
    let s1 := FFmt.fp32.decode (dotProducts ((xs.zip ints).map fun p => p.1.mul p.2))
    let s2 := FFmt.fp32.decode (dotProducts (xs.map fun x => x.mul (.fin false 1 0)))
    let z := r.hdr.zp
    let zf : FV := .fin (decide (z < 0)) z.natAbs 0
    FFmt.fp32.encode .nearest ((FFmt.fp32.decode r.hdr.scale).mul (s1.add (zf.mul s2).neg))
  | _, _ =>
    if r.hdr.zeroRow then
      dotProducts (query.codes.map fun c => (FV.fin false 0 0).mul (query.fmt.value c))
    else dotProducts ((r.codes.zip query.codes).map fun p => scoreProduct r.fmt query.fmt p.1 p.2)

/-! ### The selector -/

/-- The rank of a score: +infinity, finite, −infinity, not-a-number (R161). -/
def scoreClass (c : Nat) : Nat :=
  match FFmt.fp32.decode c with
  | .inf false => 0
  | .fin .. => 1
  | .inf true => 2
  | .nan => 3

/-- Score a of row i ranks before score b of row j (R161). -/
def ranksBefore (a i b j : Nat) : Bool :=
  let ca := scoreClass a
  let cb := scoreClass b
  if ca ≠ cb then ca < cb
  else
    let x := FFmt.fp32.decode a
    let y := FFmt.fp32.decode b
    if ca = 1 && !x.eq y then y.lt x else i < j

/-- Score a ranks strictly above score b, whatever their rows (R161). -/
def scoreAbove (a b : Nat) : Bool :=
  scoreClass a < scoreClass b ||
    (scoreClass a == 1 && scoreClass b == 1 && (FFmt.fp32.decode b).lt (FFmt.fp32.decode a))

/-- A candidate put into a ranked list; a row that is there already keeps its highest-ranked score (R161). -/
def rankInsert (row score : Nat) (l : List (Nat × Nat)) : List (Nat × Nat) :=
  if l.any fun e => e.1 == row && !scoreAbove score e.2 then l
  else
    let rest := l.filter fun x => x.1 != row
    (rest.takeWhile fun x => ranksBefore x.2 x.1 score row) ++ [(row, score)] ++
      (rest.dropWhile fun x => ranksBefore x.2 x.1 score row)

/-- The distinct rows of some (row, score) pairs in the order of R161. -/
def ranked (cs : List (Nat × Nat)) : List (Nat × Nat) := cs.foldl (fun l c => rankInsert c.1 c.2 l) []

/-- The result of a bag: k entries of 16 bytes (R162). -/
def topKBytes (k : Nat) (cs : List (Nat × Nat)) : Bytes :=
  fit (16 * k) (((ranked cs).take k).flatMap fun e =>
    leBytes 8 (e.1 % 2 ^ 40 + 2 ^ 63) ++ leBytes 4 e.2 ++ zeros 4)

/-! ### Interaction and projection -/

/-- The pairs of R165 in output order. -/
def interactPairs (f : Nat) (self : Bool) : List (Nat × Nat) :=
  (List.range f).flatMap fun i => ((List.range f).filter fun j => if self then i ≤ j else i < j).map fun j => (i, j)

/-- The outputs of one sample (R165). -/
def interactOut (vs : List RowVal) (self : Bool) : List Nat :=
  (interactPairs vs.length self).map fun p => scoreVec (vs.getD p.1 default) (vs.getD p.2 default)

/-- Column c of a projection set as a row-side vector (R155, R166). -/
def ProjSet.column (p : ProjSet) (c : Nat) : RowVal :=
  let tile := slice p.tiles (c / 64 * p.tileBytes) p.tileBytes
  let k := p.cols.getD c default
  { fmt := p.fmt
    hdr := { (default : RowHdr) with scale := k.scale, zeroPoint := k.zeroPoint, rowSum := k.columnSum }
    codes := (List.range p.e).map fun e => p.fmt.codeAt tile (e * 64 + c % 64) }

/-- The outputs of a sample for one column tile (R168). -/
def ProjSet.tileOut (p : ProjSet) (t : Nat) (x : RowVal) : List Nat :=
  ((List.range 64).filter fun c => 64 * t + c < p.p).map fun c => scoreVec (p.column (64 * t + c)) x

end Sys2Proof.Machine
end

