-- ==== Sys2Proof/Machine/Admit.lean ====
section
/-! DEFINITION. The dispatcher: descriptor fetch (R71), admission of each kind of task (R69 to R73) and class
0 requests (R94, R95, R108, R154). -/

namespace Sys2Proof.Machine

open Sys2Proof

/-- A share that holds every bag of a task. -/
def Share.whole (d : TaskDesc) : Share := ⟨none, 0, d.bags, d, true, true, StreamU.init, [], []⟩

/-- A new piece of work with one share. -/
def Work.start (src : WorkSrc) (cls domain : Nat) (d : TaskDesc) (epoch : Nat) : Work :=
  { src := src, cls := cls, domain := domain, desc := d, raw := [], doorbell := none, unread := false, status := 0
    ended := false, shares := [Share.whole d], bags := [], staged := [], query := none
    tally := ⟨0, 0, 0, 0, false⟩, answer := none, stats := none, statsDone := false
    hostUnacked := 0
    storeUnacked := 0, unissued := 0, flushed := false, flushes := 0, porters := 0, mailbox := 0
    parked := [], epoch := epoch, dead := false, recordLost := false, units := [] }

/-- Statistics with every channel empty (R146). -/
def Stats.init (channels : Nat) : Stats := ⟨0, 0, 0, List.replicate channels ChStat.empty⟩

/-! ### Descriptor fetch -/

/-- The address of submission slot of a position (R277). -/
def State.slotAddr (s : State) (r pos : Nat) : Nat := s.sqAddr r + 128 * (pos % s.ringSize r)

/-- One slot of a burst: read at once from the Store Room, or through the translation port; a slot that lacks
the read right is unreadable (R71). -/
def State.fetchSlot (s : State) (r pos : Nat) : State :=
  let slot := pos % s.ringSize r
  let a := s.slotAddr r pos
  let dom := s.cfg.ringDomain r
  let add (d : DescSt) (s : State) : State := s.setRing r { s.ring r with fetched := (s.ring r).fetched ++ [(slot, d)] }
  if spaceOf a = 2 ∨ spaceOf a = 3 then
    (add .reading s).readOut (.descr r slot) 1 dom a 128 (some (r % 4))
  else match s.readNow dom a 128 with
    | .bytes b => add (.bytes b) s
    | _ => add .unreadable s

/-- DESCRIPTOR_FETCH: a burst of at most 16 consecutive slots below PROD (R71), while the ring is enabled and
no earlier burst waits for admission. A burst waits while the link of an agent that holds a slot of it carries
nothing. -/
def execDescriptorFetch (r : RingId) (s : State) : Out :=
  let g := s.ring r
  let n := min 16 (posDiff g.prod g.fetch)
  let up := (List.range n).all fun i =>
    let a := s.slotAddr r ((g.fetch + i) % 2 ^ 32)
    s.reach a 128
  if !s.targetOn || s.quiescing || !s.ringEn r || g.fetched != [] || n = 0 || !up then .next s
  else
    let s := s.each (List.range n) fun s i => s.fetchSlot r ((g.fetch + i) % 2 ^ 32)
    .next (s.setRing r { s.ring r with fetch := (g.fetch + n) % 2 ^ 32 })

/-! ### Admission -/

/-- The class of a ring's next task; a descriptor that was not read has none, and counts as the lowest (DESIGN CHOICE,
log entry 49). -/
def State.nextClass (s : State) (r : Nat) : Nat := ((s.ring r).nextDesc.map TaskDesc.cls).getD 0

/-- A free scatter slot. -/
def State.freeScatter (s : State) : Option Nat := [0, 1].find? fun i => (s.scatter i).isNone

/-- A ring whose next task can be admitted now: a SCATTER task needs a free slot, and only its own ring waits for it
(R190). -/
def State.canAdmit (s : State) (r : Nat) : Bool :=
  s.admissible r && !((s.ring r).nextDesc.any (fun d => d.kind == some .scatter) && s.freeScatter.isNone)

/-- The ring that is admitted from next: the lowest class first, round robin among rings of a class (R72). -/
def State.admitPick (s : State) : Option Nat :=
  [0, 1, 2, 3].findSome? fun c =>
    ((List.range 64).map fun i => (s.disp.nextRing.get 0 c + i) % 64).find? fun r => s.canAdmit r && s.nextClass r == c

/-- A slot whose descriptor was not read is admitted as a task that runs nothing (R71); its record is written in class 1
(DESIGN CHOICE, log entry 49). -/
def State.admitUnread (s : State) (r slot : Nat) : State :=
  let w := { Work.start (.ring r slot) 1 (s.cfg.ringDomain r) (TaskDesc.ofBytes []) s.host.epoch with
    unread := true, status := 1, ended := true }
  let (_, s) := s.newWork w
  s.setRing r { s.ring r with fetched := (s.ring r).fetched.drop 1 }

/-- The dispatcher works: the engine domain runs and no activation drains it. -/
def State.dispatching (s : State) : Bool := s.targetOn && s.slots.current.isSome && !s.slots.activating

/-- Admission of the next task of a ring, when it is of a kind and its turn has come (R72, R73). ready says
whether the kind can be admitted now (a reserved kind can by any of these commands), bad whether its
descriptor is malformed, which is a host error of the task (R7, R8), and start changes the new piece of work. -/
def State.admitTask (s : State) (r : Nat) (kind : TaskDesc → Bool) (ready : TaskDesc → Bool) (bad : TaskDesc → Bool)
    (start : Nat → TaskDesc → State → State) : Out :=
  let g := s.ring r
  if !s.dispatching || !s.ringEn r then .next s
  else match g.fetched with
  | (slot, .unreadable) :: _ =>
    if s.outstanding r < s.ringLimit r then .next (s.admitUnread r slot) else .next s
  | (slot, .bytes b) :: rest =>
    let d := TaskDesc.ofBytes b
    if !(kind d || d.kind.isNone) || s.admitPick != some r || !ready d then .next s
    else
      let drained := g.mustDrain d
      let (w, s) := s.newWork { Work.start (.ring r slot) d.cls (s.cfg.ringDomain r) d s.host.epoch with raw := b }
      let s := s.setRing r { g with fetched := rest, phase := if d.phase.isSome then d.phase else g.phase }
      let s := s.modDisp fun x => { x with nextRing := x.nextRing.set 0 d.cls ((r + 1) % 64) }
      let s := s.count d.cls
      let s := if drained then s.count 0x005 else s
      let s := s.tally 112 0 r slot
      .next (if d.cls = 0 ∨ d.kind.isNone ∨ bad d ∨ reservedTask b then s.openWork w else start w d (s.checkOverlap w))
  | _ => .next s

/-! ### Preparation (R353) -/

/-- The positions to which the tree can route a table from a node, by fuel. -/
def Cfg.reachGo (c : Cfg) (t : Nat) : Nat → Nat → List Nat
  | 0, _ => []
  | f + 1, node =>
    match (c.tree.getD node default).engine with
    | some p => [p]
    | none =>
      match c.routeEntry node t with
      | none => []
      | some r => r.ordinals.flatMap fun o => match (c.children node)[o]? with
        | some k => c.reachGo t f k
        | none => []

/-- The Porter groups that can serve a table, in increasing number. -/
def Cfg.groupsOf (c : Cfg) (t : Nat) : List Nat :=
  let ps := c.reachGo t (c.tree.length + 1) 0
  (List.range 12).filter fun m => ps.any fun p => p / 4 == m

/-- The preparation entry of a table, when it is valid (R353). -/
def Cfg.prepEntry (c : Cfg) (t : Nat) : Option Nat :=
  match c.prep.get none t with
  | some e => if c.entry e = 0xFFFFFFFF then none else some e
  | none => none

/-- The shares of a task with PREP = 1. -/
def Cfg.prepShares (c : Cfg) (d : TaskDesc) : List Share :=
  let gs := c.groupsOf d.table
  let k := gs.length
  gs.zipIdx.map fun e =>
    let first := e.2 * d.bags / k
    ⟨some e.1, first, (e.2 + 1) * d.bags / k - first, d, false, false, StreamU.init, [], []⟩

/-- A new task takes its shares: one whole share, or the preparation shares. -/
def State.takeShares (s : State) (w : Nat) (d : TaskDesc) : State :=
  if d.prep then
    let shs := s.cfg.prepShares d
    s.modWork w fun k => { k with
      shares := shs, mailbox := shs.foldl (fun m sh => m + bitAt true (sh.porter.getD 0)) 0 }
  else s

/-- A task with PREP = 1 whose table has no valid PREP record is malformed (R353). -/
def Cfg.badPrep (c : Cfg) (d : TaskDesc) : Bool := d.prep && (c.prepEntry d.table).isNone

/-! ### GATHER, SCATTER, SCORE, FENCE, PORTER -/

/-- A malformed GATHER descriptor (R31, R83, R90, R142, R144). -/
def State.badGatherTask (s : State) (d : TaskDesc) : Bool :=
  match s.cfg.table d.table with
  | none => true
  | some td => s.badTable td || d.badGather td || s.cfg.badIeee d td || s.cfg.badPrep d ||
      (d.outInt && !d.statsEn) || (d.statsEn && d.stats % 64 != 0)

/-- A GATHER task begins. -/
def State.startGather (w : Nat) (d : TaskDesc) (s : State) : State :=
  let s := s.takeShares w d
  match s.cfg.table d.table with
  | some td => if d.statsEn then
      s.modWork w fun k => { k with stats := some (Stats.init (d.poolSpec td).width) }
    else s
  | none => s

/-- GATHER (R79). -/
def execGather (r : RingId) (s : State) : Out :=
  s.admitTask r (fun d => d.kind == some .gather) (fun _ => true) s.badGatherTask State.startGather

/-- The gradient size of R180. -/
def TaskDesc.gradBytes (d : TaskDesc) (td : TableDesc) : Nat :=
  let f := (Fmt.ofCode d.upd.gfmt).getD .fp32
  f.dataBytes (td.elements * (if d.upd.perBag && d.pool == .concat then d.concatN else 1))

/-- A malformed SCATTER descriptor (R50, R181). -/
def State.badScatter (s : State) (d : TaskDesc) : Bool :=
  match s.cfg.table d.table with
  | none => true
  | some td =>
    let u := d.upd
    s.badTable td || u.op == 3 || !([0, 2, 3].contains u.gfmt) || (u.perBag && (PoolMode.ofCode d.poolCode).isNone) ||
      (u.perBag && d.pool == .max) || d.result % 16 != 0 || d.rstride % 16 != 0 || d.rstride < d.gradBytes td ||
      !([0, 1, 3].contains (spaceOf d.result)) || !(FFmt.fp32.isFin u.alpha) || !(FFmt.fp32.isFin u.eps) ||
      (FFmt.fp32.decode u.eps).lt (.fin false 0 0) ||
      (u.op == 2 && (s.cfg.updated td).any fun t => !t.hdr) || s.cfg.badPrep d ||
      (d.bagMode == 0 && d.bagLen == 0 && d.indexCount != 0)

/-- The update rights of a scatter task: ATOMIC on its tables and the atomic right on every granule (R182). -/
def State.mayUpdate (s : State) (dom : Nat) (td : TableDesc) : Bool :=
  let ts := s.cfg.updated td
  (td.hashMode != 2 || ts.length == 2) && ts.all fun t =>
    t.atomic && spaceOf t.base == 0 && t.granules.all fun g => bitOf ((s.cfg.domain dom).rights.get 0 g) 2

/-- A scatter slot at the admission of its task: no epoch limit, nothing issued (R190, R196). -/
def Scatter.init (w : Nat) : Scatter :=
  { work := w, cuts := [], limit := none, wantCut := false, issued := [], counts := [], reports := []
    committed := [], sealedBy := [], gone := [], acked := [], ending := false, hold := none }

/-- SCATTER: admission into a free slot, after the update rights are checked (R182, R190). -/
def execScatter (r : RingId) (s : State) : Out :=
  s.admitTask r (fun d => d.kind == some .scatter) (fun _ => s.freeScatter.isSome) s.badScatter fun w d s =>
    match s.cfg.table d.table, s.freeScatter with
    | some td, some i =>
      if s.mayUpdate (s.cfg.ringDomain r) td then (s.setScatter i (some (Scatter.init w))).takeShares w d
      else s.endWork w 1
    | _, _ => s

/-- A SCORE task in a mode. -/
def TaskDesc.isScore (d : TaskDesc) (mode : Nat) : Bool := d.kind == some .score && d.score.mode == mode

/-- A malformed CANDIDATE descriptor (R153, R155, R160). -/
def State.badCandidate (s : State) (d : TaskDesc) : Bool :=
  match s.cfg.table d.table, queryFmt d.score.qfmt with
  | some td, some q =>
    s.badTable td || td.hashMode != 0 || !pairOk td.fmt q || d.score.vstride % 16 != 0 || d.weights % 16 != 0 ||
      !([0, 1, 3].contains (spaceOf d.weights)) || d.score.k > 1024 || d.rstride % 16 != 0 ||
      d.rstride < 16 * d.score.k || !(d.outCode == 0 || d.outCode == 0xF) || s.cfg.badPrep d ||
      (d.bagMode == 0 && d.bagLen == 0 && d.indexCount != 0)
  | _, _ => true

/-- SCORE_CANDIDATE (R160). -/
def execScoreCandidate (r : RingId) (s : State) : Out :=
  s.admitTask r (fun d => d.isScore 0) (fun _ => true) s.badCandidate fun w d s => s.takeShares w d

/-- A malformed INTERACT or PROJECT descriptor, for n outputs a sample (R142, R144, R153). -/
def TaskDesc.badArray (d : TaskDesc) (n : Nat) : Bool :=
  (queryFmt d.score.qfmt).isNone || d.index % 16 != 0 || d.score.vstride % 16 != 0 ||
    !([0, 1].contains (spaceOf d.index)) || d.score.elem = 0 || 4096 < d.score.elem ||
    (OutFmt.ofCode d.outCode).isNone || d.rstride % 16 != 0 || d.rstride < d.outSize n || 16384 < d.outSize n ||
    (d.outInt && !d.statsEn) || (d.statsEn && d.stats % 64 != 0)

/-- The samples of an INTERACT or PROJECT task: its one share holds BAG_COUNT of them. -/
def State.startArray (w n : Nat) (d : TaskDesc) (s : State) : State :=
  s.modWork w fun k => { k with
    shares := [{ Share.whole d with count := d.bagCount }]
    stats := if d.statsEn then some (Stats.init n) else none }

/-- INTERACT (R165). -/
def execInteract (r : RingId) (s : State) : Out :=
  s.admitTask r (fun d => d.isScore 1) (fun _ => true)
    (fun d => d.badArray d.score.outputs || (d.score.f == 1 && !d.score.self))
    fun w d s => s.startArray w d.score.outputs d

/-- A malformed PROJECT descriptor (R153, R155). -/
def Cfg.badProject (c : Cfg) (d : TaskDesc) : Bool :=
  match c.projSet d.score.set, queryFmt d.score.qfmt with
  | some p, some q => d.badArray p.p || p.e != d.score.elem || !pairOk p.fmt q
  | _, _ => true

/-- An array that holds a tile of a set is retired: what needs it is parked (R415). -/
def State.retiredIn (s : State) (p : ProjSet) : Option Nat :=
  ((List.range (min p.n p.tileCount)).map (p.first + ·)).find? fun a => (s.array a).retired

/-- PROJECT (R168); a set with a tile in a retired array parks the task (R415). -/
def execProject (r : RingId) (s : State) : Out :=
  s.admitTask r (fun d => d.isScore 2) (fun _ => true) s.cfg.badProject fun w d s =>
    match s.cfg.projSet d.score.set with
    | some p =>
      let s := s.startArray w p.p d
      match s.retiredIn p with
      | some a => s.park w (.array a)
      | none => s
    | none => s

/-- The bytes of a QLOAD vector, when they are here: the slot switches to the new copy (R154). -/
def State.tryQload (s : State) (w : Nat) : State :=
  match s.work w with
  | some k =>
    if k.ended || k.query.isSome || !k.desc.isScore 3 then s
    else match queryFmt k.desc.score.qfmt with
      | none => s
      | some f =>
        let p := k.desc.score
        s.withBytes w k.desc.weights (vectorBytes f p.elem) fun b s =>
          let q : QVec := ⟨p.qfmt, p.elem, b⟩
          let s := s.setWork w { k with query := some q }
          s.modDisp fun d => { d with queries := d.queries.set none p.set (some q) }
  | none => s

/-- A malformed QLOAD descriptor (R151, R153). -/
def TaskDesc.badQload (d : TaskDesc) : Bool :=
  (queryFmt d.score.qfmt).isNone || d.weights % 16 != 0 || !([0, 1, 3].contains (spaceOf d.weights)) ||
    d.score.elem = 0 || 4096 < d.score.elem

/-- QLOAD (R154): the reader reads the vector; the slot switches once its last byte has arrived. -/
def execQload (r : RingId) (s : State) : Out :=
  s.admitTask r (fun d => d.isScore 3) (fun _ => true) TaskDesc.badQload fun w _ s => s.tryQload w

/-- A FLUSH on an initiator channel (R274, R290). -/
def State.hostFlush (s : State) (w c : Nat) : State :=
  let q := s.hiChan c
  let k := (s.work w).map Work.cls
  (s.ownQueued (.flush w) 1 true).setHiChan c { q with
    queue := q.queue ++ [⟨.flush, .flush w, k.getD 1, 0, 0, 0, 0, [], s.mov.serial, false⟩] }

/-- The flushes of a FENCE task: each initiator channel, and every agent of a present stack (R290). -/
def State.issueFlushes (s : State) (w : Nat) : State :=
  let agents := (List.range 16).filter fun n => (s.agent n).present && !(s.agent n).out
  let s := s.modWork w fun k => { k with flushed := true }
  let s := s.each (List.range 4) fun s c => s.hostFlush w c
  s.each agents fun s n => (s.ownQueued (.flush w) 1 false).sendFlush (.flush w) n

/-- FENCE (R290): the drain of R73 has ended; with the fence option the flushes are issued. -/
def execFence (r : RingId) (s : State) : Out :=
  s.admitTask r (fun d => d.kind == some .fence) (fun _ => true) (fun _ => false) fun w d s =>
    if d.fence then s.issueFlushes w else s

/-- ENTRY of a PORTER task (R348). -/
def TaskDesc.porterEntry (d : TaskDesc) : Nat := fld d.param0 7 0

/-- Both Porters of a pair that a task needs are retired (R414). -/
def State.pairLost (s : State) (mask : Nat) : Option Nat :=
  (Sys2Proof.Machine.setBits 12 mask).find? fun m => (s.porter m).retired && (s.porter (m ^^^ 1)).retired

/-- PORTER (R348): each named Porter is to run it. -/
def execPorter (r : RingId) (s : State) : Out :=
  s.admitTask r (fun d => d.kind == some .porter) (fun _ => true)
    (fun d => d.porterMask = 0 || d.param0 / 2 ^ 20 != 0) fun w d s =>
      let s := s.modWork w fun k => { k with porters := d.porterMask, mailbox := d.porterMask, shares := [] }
      match s.pairLost d.porterMask with
      | some m => s.park w (.porters (m / 2 * 2))
      | none => s

/-- The order of the next placement: later than that of every entry. -/
def State.nextOrder (s : State) : Nat :=
  s.porters.foldl (fun n p => p.2.mail.foldl (fun n e => max n (e.order + 1)) n) 0

/-- MAILBOX_PLACE (R347): a task or share is placed once its Porter's mailbox has a free entry. Work that needs a
Porter of a pair that is lost is parked (R414). -/
def execMailboxPlace (m : PorterId) (w : WorkId) (s : State) : Out :=
  match s.work w with
  | some k =>
    let m := m.val
    if !s.targetOn || k.ended || k.isParked || !bitOf k.mailbox m || (s.mailOf m).length ≥ 4 then .next s
    else if (s.porter (s.runner m)).retired then .next (s.park w (.porters (m / 2 * 2)))
    else
      let i := k.shares.findIdx? fun sh => sh.porter == some m
      let s := s.modPorter (s.runner m) fun p => { p with mail := p.mail ++ [⟨w, i, m, s.nextOrder⟩] }
      .next (s.setWork w { k with
        mailbox := k.mailbox - 2 ^ m
        shares := k.shares.map fun sh => if sh.porter = some m then { sh with placed := true } else sh })
  | none => .next s

/-! ### Class 0 -/

/-- The task that a class 0 request is seen as: one FIXED bag over its indices (R95). -/
def Doorbell.desc (d : Doorbell) : TaskDesc :=
  let n := if d.ptr then d.indexCount else d.count
  { TaskDesc.ofBytes [] with
    kindCode := if d.score then 2 else 0, idx64 := if d.ptr then d.idx64 else true, poolCode := d.poolCode
    table := d.table, outCode := d.outCode, fence := d.fence, indexCount := n, bagLen := n, bagCount := 1
    concatN := n, index := d.indexPtr, weights := d.weightPtr, result := d.result, rstride := 0
    upd0 := put (d.k - 1) 10 8 }

/-- The result of a class 0 request in bytes, before its trailer (R96, R162). -/
def Doorbell.resultBytes (d : Doorbell) (td : TableDesc) : Nat :=
  if d.score then 16 * d.k else (d.desc.resultSize td)

/-- A malformed class 0 request (R31, R90, R94, R95, R142, R154). -/
def State.badDoorbell (s : State) (d : Doorbell) : Bool :=
  match s.cfg.table d.table with
  | none => true
  | some td =>
    s.badTable td || (!d.ptr && d.count > (if d.idx64 then 6 else 12)) || 16384 < d.resultBytes td ||
      (if d.score then
        !(d.outCode == 0 || d.outCode == 0xF) || d.k > 1024 || td.hashMode != 0 ||
          match s.disp.queries.get none d.qslot with
          | some q => q.elements != td.elements || !pairOk td.fmt ((queryFmt q.fmtCode).getD .bf16)
          | none => true
      else
        (PoolMode.ofCode d.poolCode).isNone || (OutFmt.ofCode d.outCode).isNone || d.desc.outInt ||
          (d.desc.pool == .wsum && !d.ptr))

/-- A class 0 request that was accepted takes a token, or waits in the overflow queue (R108). Its shares hold
one bag; a request with no index holds an empty one. -/
def State.acceptClass0 (s : State) (page stream dom : Nat) (d : Doorbell) : State :=
  let desc := d.desc
  let k := { Work.start (.class0 page stream) 0 dom desc s.host.epoch with
    doorbell := some d
    shares := [{ Share.whole desc with count := 1 }]
    query := if d.score then s.disp.queries.get none d.qslot else none }
  let (w, s) := (s.count 0x000).newWork k
  let s := s.tally 113 0 d.tag stream
  let t := s.disp.tokens.get 0 stream
  if t ≠ 0 then s.modDisp fun x => { x with tokens := x.tokens.set 0 stream (t - 1) }
  else
    let s := (s.modDisp fun x => { x with overflow := x.overflow ++ [w] }).count 0x004
    if s.disp.overflow.length = 256 then s.raise Reg.fnNotice 4 else s

/-- A host error at a class 0 doorbell page (R8): the destination of the request is open, and the request may be taken
or not. A malformed one that is taken goes no further. -/
def State.wildClass0 (s : State) (page stream dom : Nat) (d : Doorbell) (bad : Bool) : State :=
  let k := { Work.start (.class0 page stream) 0 dom d.desc s.host.epoch with doorbell := some d }
  let s := s.openBytes dom (s.dests k ++ (if bad then s.rightTables dom else []))
  let (v, s) := s.draw
  if !bitOf v 0 then s
  else
    let w := s.disp.nextWork
    let s := s.acceptClass0 page stream dom d
    if bad then s.openWork w else s

/-- A write to a class 0 doorbell page (R26, R94, R279, R280, R463). -/
def State.class0Write (s : State) (page : Nat) (bytes : Bytes) (score : Bool) : State :=
  match s.cfg.page page with
  | .none => s.dbIgnored
  | .ring r => if s.slots.activating || (s.ready && s.ringEn r) then s.wildRing r else s.dbIgnored
  | .class0 stream dom =>
    let (rest, s) := s.drawBytes (64 - bytes.length)
    let d := { Doorbell.ofBytes (fit 64 (bytes ++ rest)) with score := score }
    let bad := bytes.length != 64 || s.badDoorbell d || reservedBell score bytes
    if s.slots.activating then s.wildClass0 page stream dom d bad
    else if !s.ready then s.dbIgnored
    else if bad then s.wildClass0 page stream dom d true
    else (s.acceptClass0 page stream dom d).checkOverlap s.disp.nextWork

/-- TOKEN_REFILL (R384): one token, up to BURST. -/
def execTokenRefill (stream : RingId) (s : State) : Out :=
  if !s.pwr.engineUp || s.pwr.stopped then .next s
  else match s.cfg.reserve.streams[stream.val]? with
  | some r =>
    let t := s.disp.tokens.get 0 stream
    .next (s.modDisp fun x => { x with tokens := x.tokens.set 0 stream (min r.burst (t + 1)) })
  | none => .next s

/-- The oldest request of a stream leaves the overflow queue with a token (R108). -/
def State.overflowLeave (s : State) (stream : Nat) : State :=
  let mine (w : Nat) : Bool := match (s.work w).map Work.src with
    | some (.class0 _ st) => st == stream
    | _ => false
  let t := s.disp.tokens.get 0 stream
  match s.disp.overflow.find? mine with
  | some w =>
    if t = 0 then s
    else s.modDisp fun x => { x with overflow := x.overflow.erase w, tokens := x.tokens.set 0 stream (t - 1) }
  | none => s

end Sys2Proof.Machine
end

