-- ==== Sys2Proof/Machine/Stream.lean ====
section
/-! DEFINITION. Stream programs (R84 to R88): one command for each stream instruction. -/

namespace Sys2Proof.Machine

open Sys2Proof

/-- A piece of work that runs: the engine domain is on, and it has not ended, is not parked and does not wait
in the overflow queue. -/
def State.running (s : State) (w : Nat) : Option Work :=
  match s.work w with
  | some k => if !s.targetOn || k.ended || k.isParked || s.disp.overflow.contains w then none else some k
  | none => none

/-- The tasks that read an index stream (R79, R152, R178). -/
def TaskDesc.indexed (d : TaskDesc) : Bool :=
  d.kind == some .gather || d.kind == some .scatter || (d.kind == some .score && d.score.mode == 0)

/-- The share of a work whose program runs. -/
def Work.programShare (k : Work) : Option (Nat × Share) :=
  (k.shares.zipIdx.find? fun e => e.1.desc.indexed && e.1.desc.bagMode == 3 && e.1.released &&
    !e.1.stream.ended && e.1.count != 0).map fun e => (e.2, e.1)

/-- A program ends: an open bag with an index closes with CUT = 1 (R82, R84, R87). -/
def Share.finish (sh : Share) : Share :=
  let open_ := sh.emits.length - sh.stream.start
  { sh with
    closed := if open_ = 0 then sh.closed else sh.closed ++ [⟨sh.stream.start, open_, true⟩]
    stream := { sh.stream with ended := true, start := sh.emits.length } }

/-- A program goes on at an instruction; after instruction 15 it ends (R84). -/
def Share.goto (sh : Share) (pc : Nat) : Share :=
  let sh := { sh with stream := { sh.stream with pc := pc } }
  if 16 ≤ pc then sh.finish else sh

/-- The next instruction. -/
def Share.advance (sh : Share) : Share := sh.goto (sh.stream.pc + 1)

/-- An address register moved by a STEP; one that leaves 0 to 2^52 − 1 is a host error (R112). -/
def Share.stepReg (sh : Share) (ra : Nat) (w : Nat) : Option Share :=
  let v : Int := (sh.stream.a.getD ra 0 : Int) + sext 20 (fld w 19 0)
  if v < 0 ∨ 2 ^ 52 ≤ v then none
  else some { sh with stream := { sh.stream with a := sh.stream.a.set ra v.toNat } }

/-- A source of SETA and LOOP (R86); 9 to 15 are reserved. -/
def Share.source (sh : Share) : Nat → Option Nat
  | 0 => some sh.desc.index
  | 1 => some sh.desc.offsets
  | 2 => some sh.desc.weights
  | 3 => some sh.desc.param0
  | 4 => some sh.desc.param1
  | 5 => some sh.desc.bagLen
  | 6 => some sh.desc.bagCount
  | 7 => some sh.desc.indexCount
  | 8 => some sh.stream.len
  | _ => none

/-- The instruction words of a share's program; a PROG_ID that the image does not hold names none. -/
def State.program (s : State) (sh : Share) : Option (List Nat) := s.cfg.programs[sh.desc.progId]?

/-- A stream instruction of a work, when the next one has an opcode: reserved opcodes and missing programs are
host errors (R70, R85). f answers the changed share, or none for a host error. -/
def State.stream (s : State) (w op : Nat) (f : Share → List Nat → Nat → Option Share) : Out :=
  match (s.running w).bind Work.programShare with
  | some (i, sh) =>
    match s.program sh with
    | none => .next (s.openWork w)
    | some p =>
      let x := p.getD sh.stream.pc 0
      if 9 ≤ fld x 31 28 then .next (s.openWork w)
      else if fld x 31 28 ≠ op then .next s
      else match f sh p x with
        | some sh => .next (s.setShare w i sh)
        | none => .next (s.openWork w)
  | none => .next s

/-- END. -/
def execEndProg (w : WorkId) (s : State) : Out := s.stream w 0 fun sh _ _ => some sh.finish

/-- SETA. -/
def execSeta (w : WorkId) (s : State) : Out :=
  s.stream w 1 fun sh _ x => (sh.source (fld x 3 0)).map fun v =>
    Share.advance { sh with stream := { sh.stream with a := sh.stream.a.set (fld x 27 26) (v % 2 ^ 52) } }

/-- ADDA. -/
def execAdda (w : WorkId) (s : State) : Out :=
  s.stream w 2 fun sh _ x => (sh.stepReg (fld x 27 26) x).map Share.advance

/-- The NEXT that closes a level, after an instruction (R87). -/
def matchNext (p : List Nat) (pc lv : Nat) : Option Nat :=
  (List.range 16).find? fun i => pc < i && fld (p.getD i 0) 31 28 == 4 && fld (p.getD i 0) 25 24 == lv

/-- LOOP: a trip count of zero goes on after the matching NEXT (R85, R87). -/
def execLoop (w : WorkId) (s : State) : Out :=
  s.stream w 3 fun sh p x =>
    let lv := fld x 25 24
    let u := sh.stream
    let count := if bitOf x 23 then (sh.source (fld x 3 0)).map (· % 2 ^ 32) else some (fld x 22 0)
    if lv = 3 ∨ u.loops.any (fun l => l.1 == lv) then none
    else match count, matchNext p u.pc lv with
      | some 0, some n => some (sh.goto (n + 1))
      | some c, some _ => some (Share.advance { sh with stream := { u with loops := (lv, c, u.pc + 1) :: u.loops } })
      | _, _ => none

/-- NEXT: only the innermost open level can be closed (R87). -/
def execNext (w : WorkId) (s : State) : Out :=
  s.stream w 4 fun sh _ x =>
    match sh.stream.loops with
    | (lv, c, body) :: rest =>
      if lv ≠ fld x 25 24 then none
      else if c ≤ 1 then some (Share.advance { sh with stream := { sh.stream with loops := rest } })
      else some (Share.goto { sh with stream := { sh.stream with loops := (lv, c - 1, body) :: rest } } body)
    | [] => none

/-- IDX: an index beyond INDEX_COUNT ends the program (R84); a bag beyond the largest length is malformed
(R83). -/
def execIdx (w : WorkId) (s : State) : Out :=
  s.stream w 5 fun sh _ x =>
    let ra := fld x 27 26
    if sh.desc.indexCount ≤ sh.emits.length then some sh.finish
    else if 0xFFFFFF ≤ sh.emits.length - sh.stream.start then none
    else (sh.stepReg ra x).map fun sh' => Share.advance { sh' with
      emits := sh.emits ++ [⟨sh.stream.a.getD ra 0, none⟩], stream := { sh'.stream with canWgt := true } }

/-- WGT: the weight of the most recent index of the open bag (R87). -/
def execWgt (w : WorkId) (s : State) : Out :=
  s.stream w 6 fun sh _ x =>
    let ra := fld x 27 26
    if !sh.stream.canWgt then none
    else (sh.stepReg ra x).map fun sh' => Share.advance { sh' with
      emits := sh.emits.modify (sh.emits.length - 1) fun e => { e with wgt := some (sh.stream.a.getD ra 0) }
      stream := { sh'.stream with canWgt := false } }

/-- LEN: the value is read through the work's readers; the program waits for it (R85). -/
def execLen (w : WorkId) (s : State) : Out :=
  match (s.running w).bind Work.programShare with
  | some (_, sh) =>
    let x := ((s.program sh).getD []).getD sh.stream.pc 0
    if fld x 31 28 ≠ 7 then s.stream w 7 fun sh _ _ => some sh
    else
      let ra := fld x 27 26
      match s.workRead w (sh.stream.a.getD ra 0) 4 with
      | (.bytes b, s) => s.stream w 7 fun sh _ _ =>
          let v := leNat b
          (sh.stepReg ra x).map fun sh => Share.advance { sh with stream := { sh.stream with
            len := if bitOf x 23 then (v + 2 ^ 32 - sh.stream.prev) % 2 ^ 32 else v
            prev := if bitOf x 23 then v else sh.stream.prev } }
      | (.wait, s) => .next s
      | (.denied, s) => .next (s.endWork w 1)
  | none => .next s

/-- BAG: the bag that closes bag BAG_COUNT − 1 ends the program (R84). -/
def execBag (w : WorkId) (s : State) : Out :=
  s.stream w 8 fun sh _ _ =>
    let u := sh.stream
    let closed := sh.closed ++ [⟨u.start, sh.emits.length - u.start, false⟩]
    let sh := { sh with closed := closed, stream := { u with start := sh.emits.length, canWgt := false } }
    if closed.length = sh.count then some { sh with stream := { sh.stream with ended := true } }
    else some sh.advance

end Sys2Proof.Machine
end

