-- ==== Sys2Proof/Machine/Engines.lean ====
section
/-! DEFINITION. Inside an engine: where a fetch is served (R214 to R218), the fetch slots (R97), the reuse
buffer (R98) and the row cache (R217), and the delivery of a row to its slot. -/

namespace Sys2Proof.Machine

open Sys2Proof

/-! ### Capacities -/

/-- A fetch slot that work of a class may take: those reserved for class 0 are no other class's (R21, R384). -/
def Engine.freeSlot (e : Engine) (cls res : Nat) : Option Nat :=
  if cls ≠ 0 ∧ 512 - res ≤ (e.slots.countP fun x => x.2.any fun f => f.cls != 0) then none
  else (List.range 512).find? fun i => (e.slots.get none i).isNone

/-- The last element that passes a test, removed. -/
def dropLast {α : Type} (p : α → Bool) (l : List α) : List α :=
  let r := l.reverse
  ((r.takeWhile fun x => !p x) ++ (r.dropWhile fun x => !p x).drop 1).reverse

/-- The least recently used entries that pass a test are evicted until the sum of their sizes fits, by fuel. -/
def trimTo {α : Type} (p : α → Bool) (size : α → Nat) (limit : Nat) : Nat → List α → List α
  | 0, l => l
  | f + 1, l =>
    if ((l.filter p).map size).foldl (· + ·) 0 ≤ limit then l else trimTo p size limit f (dropLast p l)

/-- A row put into the reuse buffer, most recently used; classes 1 to 3 never take the entries reserved for
class 0 (R98, R384). -/
def reuseFill (l : List ReuseEnt) (res : Nat) (n : ReuseEnt) : List ReuseEnt :=
  let l := n :: l.filter fun r => !(r.work == n.work && r.addr == n.addr)
  let l := trimTo (fun r => r.cls != 0) ReuseEnt.size (256 - res) l.length l
  trimTo (fun _ => true) ReuseEnt.size 256 l.length l

/-- An entry used: it becomes the most recently used. -/
def reuseHit (l : List ReuseEnt) (w a : Nat) : List ReuseEnt :=
  let hit (r : ReuseEnt) : Bool := r.work == w && r.addr == a
  l.filter hit ++ l.filter fun r => !hit r

/-- Sets of the row cache of a slice (log entry 10). -/
def Cfg.cacheSets (c : Cfg) : Nat := 128 * (32 - c.placedUnits)

/-- The set of a row. -/
def Cfg.cacheSet (c : Cfg) (a : Nat) : Nat := a / 256 % c.cacheSets

/-- An eviction of a Store Room row reported to its agent; TAG names the position (R218, R333). -/
def State.reportEvict (s : State) (pos a : Nat) : State :=
  if spaceOf a = 0 then s.sendCtl (s.ownerAgent a) 0x08 1 a [] pos else s

/-- A row allocated in the row cache: of a full set the least recently used row goes, DISCARD_LAST rows first
(R217). -/
def State.cacheFill (s : State) (pos : Nat) (n : CacheEnt) : State :=
  let e := s.engine pos
  if s.cfg.cacheSets = 0 then s.reportEvict pos n.addr
  else
    let rest := e.cache.filter fun x => !(x.addr == n.addr && x.pasid == n.pasid)
    let mine (x : CacheEnt) : Bool := s.cfg.cacheSet x.addr == s.cfg.cacheSet n.addr
    let set := rest.filter mine
    let victim := if set.length < 8 then none
      else match (set.filter CacheEnt.last).getLast? with
        | some v => some v
        | none => set.getLast?
    match victim with
    | some v => (s.setEngine pos { e with cache := n :: rest.filter fun x => x != v }).reportEvict pos v.addr
    | none => s.setEngine pos { e with cache := n :: rest }

/-- Copies that some test picks leave the row cache of a position, and are reported. -/
def State.cacheDrop (s : State) (pos : Nat) (f : CacheEnt → Bool) : State :=
  let e := s.engine pos
  let gone := e.cache.filter f
  if gone = [] then s
  else (s.setEngine pos { e with cache := e.cache.filter fun x => !f x }).each gone fun s x => s.reportEvict pos x.addr

/-! ### Places of a row (R214) -/

/-- The bytes of a placed copy: its header from the side array, its data from the blocks (R237). -/
def State.placedBytes (s : State) (pos block : Nat) (td : TableDesc) : Bytes :=
  (if td.hdr then s.load (sideAddr pos block) 16 else []) ++ s.load (larderAddr pos (256 * block)) td.dataBytes

/-- A row image written over a placed copy. -/
def State.writePlaced (s : State) (pos block : Nat) (td : TableDesc) (img : Bytes) : State :=
  if td.hdr then (s.store (sideAddr pos block) (img.take 16)).store (larderAddr pos (256 * block)) (img.drop 16)
  else s.store (larderAddr pos (256 * block)) img

/-- The frame that holds the page of a Cellar row of n bytes, with the row's address in it (R232). A row that runs past the
end of its page has no frame (DESIGN CHOICE, log entry 50). -/
def State.promoted (s : State) (pasid a n : Nat) : Option (Nat × Nat) :=
  s.mov.frames.findSome? fun e => match e.2 with
    | .held p => if p.covers pasid a && p.covers pasid (a + (n - 1)) then
        some (e.1, s.cfg.frameAddr e.1 + a % (if p.big then 2 ^ 34 else 2 ^ 28)) else none
    | _ => none

/-- The places of R214. -/
inductive Place where
  | reuse (b : Bytes)
  | joined
  | placed (b : Bytes)
  | cached (b : Bytes)
  | agent (addr : Nat)
  | frame (f addr : Nat)
  | cold
  deriving DecidableEq, Repr

/-- The key of a copy in the row cache: a Cellar row belongs to the PASID of its page (R9, R240; log entry 50). -/
def State.cacheKey (s : State) (dom a : Nat) : Nat := if spaceOf a = 2 then (s.cfg.domain dom).pasid else 0

/-- A domain's right to read a row that is at hand here (R214): for a Cellar row, that of its page's translation; where
the copy table has lost that, the row came here by a read of the same PASID, which had the right (R240 to R242). -/
def State.readsHere (s : State) (dom a : Nat) : Bool :=
  spaceOf a != 2 || ((s.tcFind (s.cfg.domain dom).pasid 2 (a % 2 ^ 48)).all fun e => e.2.r)

/-- Where an engine serves a row for a piece of work (R214). An operation that a Porter launched counts as a task of its
own in the reuse buffer (R98; DESIGN CHOICE, log entry 72). -/
def State.placeOf (s : State) (w dom pos : Nat) (td : TableDesc) (a : Nat) : Place :=
  let e := s.engine pos
  match e.reuse.find? fun r => r.work == w && r.addr == a with
  | some r => .reuse (s.asRead a r.data)
  | none =>
    if e.slots.any fun x => x.2.any fun f => f.work == w && f.addr == a && f.data.isNone && !f.joined then .joined
    else match e.placed.find? fun p => p.addr == a && p.valid with
    | some p => .placed (s.placedBytes pos p.block td)
    | none =>
      match e.cache.find? fun x => x.addr == a && x.pasid == s.cacheKey dom a && s.readsHere dom a with
      | some x => .cached (s.asRead a x.data)
      | none =>
        if spaceOf a = 0 then .agent a
        else match s.promoted (s.cfg.domain dom).pasid a td.rowBytes with
          | some (f, b) => if s.readsHere dom a then .frame f b else .cold
          | none => .cold

/-! ### Delivery -/

/-- Tasks that allocate in the row cache: gather and SCORE tasks of classes 1 to 3 on a table that is not a
STREAM (R217, R218). -/
def Work.caches (k : Work) (td : TableDesc) : Bool := k.cls != 0 && k.desc.kind != some .scatter && td.hint != 0

/-- The slots of an engine that one returned row serves: the one its tag names, and those that joined it. -/
def FSlot.servedBy (f lead : FSlot) : Bool := f.joined && f.work == lead.work && f.addr == lead.addr

/-- A returned row, or an error, reaches the slot that its tag names in the current placement epoch; any other
return has no slot here (R410). The row enters the reuse buffer and, when it may, the row cache. -/
def State.deliver (s : State) (tag : Nat) (data : Option Bytes) (cacheable : Bool) : State :=
  let pos := fld tag 14 9
  let e := s.engine pos
  match e.slots.get none (fld tag 8 0) with
  | some f =>
    if f.epoch ≠ fld tag 22 15 ∨ f.joined ∨ f.data.isSome then s.countTile pos 7 1
    else
      let upd (i : Nat) (x : FSlot) : FSlot :=
        if i = fld tag 8 0 ∨ x.servedBy f then { x with data := data, err := data.isNone, joined := false } else x
      let reuse := match data with
        | some b => if (s.work f.work).isSome then
            reuseFill e.reuse s.cfg.reserve.reuse ⟨f.work, f.addr, b, f.cls, ((s.cfg.table f.table).getD default).blocks⟩
            else e.reuse
        | none => e.reuse
      let s := s.setEngine pos { e with
        slots := e.slots.map fun x => (x.1, x.2.map (upd x.1)), reuse := reuse }
      match data, s.work f.work, s.cfg.table f.table with
      | some b, some k, some td =>
        if cacheable && !f.old && k.caches td then s.cacheFill pos ⟨f.addr, s.cacheKey k.domain f.addr, b, td.hint == 2, f.work⟩ else s
      | _, _, _ => s
  | none => s.countTile pos 7 1

/-! ### Issue of one row -/

/-- What one row of a position fetches: which of the two rows, table, row number, address. -/
abbrev RowReq := Nat × Nat × Nat × Nat

/-- The rows to fetch of a resolved index; two that coincide are fetched once (R56). -/
def rowReqs : List (Nat × Nat × Nat) → List RowReq
  | [a] => [(0, a)]
  | [a, b] => if a = b then [(2, a)] else [(0, a), (1, b)]
  | _ => []

/-- A slot taken for a row whose place is known; the engine must have one. -/
def State.takeSlot (s : State) (w : Nat) (k : Work) (bag idx pos : Nat) (wt : Option Weight) (r : RowReq)
    (place : Place) : State :=
  let e := s.engine pos
  match e.freeSlot k.cls s.cfg.reserve.fetch with
  | none => s
  | some i =>
    let tag := fetchTag i pos e.epoch
    let a := r.2.2.2
    let td := (s.cfg.table r.2.1).getD default
    let f : FSlot :=
      { work := w, bag := bag, pos := idx, which := r.1, weight := wt, table := r.2.1, row := r.2.2.1, addr := a
        cls := k.cls, epoch := e.epoch, joined := place == .joined
        frame := match place with | .frame n _ => some n | _ => none
        data := none, err := false, dead := false, old := false }
    let put (s : State) (f : FSlot) : State := s.setEngine pos { s.engine pos with
      slots := (s.engine pos).slots.set none i (some f) }
    let fill := k.caches td
    let rd (b : Nat) (fill : Bool) (s : State) : State :=
      s.queueMsg (s.ownerAgent b) .out (mkMsg 0x01 (vcOf k.cls) k.cls (bitAt fill 0) td.rowBytes tag b)
    match place with
    | .reuse b => put ((s.setEngine pos { e with reuse := reuseHit e.reuse w a }).countTile pos 2 1) { f with data := some b }
    | .joined => put (s.countTile pos 2 1) f
    | .placed b => (put (s.countTile pos 0 1) f).deliver tag (some b) false
    | .cached b =>
      let mine (x : CacheEnt) : Bool := x.addr == a && x.pasid == s.cacheKey k.domain a
      let s := if (e.cache.filter mine).all fun x => !x.last then
          s.setEngine pos { e with cache := e.cache.filter mine ++ e.cache.filter fun x => !mine x } else s
      (put (s.countTile pos 1 1) f).deliver tag (some b) false
    | .agent b => rd b fill (put (s.countTile pos 3 1) f)
    | .frame n b =>
      let s := s.modMov fun m => { m with hits := n :: m.hits.filter (· != n) }
      rd b false (put (s.countTile pos 3 1) f)
    | .cold =>
      let s := put (s.countTile pos 4 1) f
      let s := match s.tileOf pos with
        | some t => s.tally t 4 r.2.1 i
        | none => s
      s.modMov fun m => { m with cold := m.cold ++ [⟨tag, k.cls, a, td.rowBytes, k.domain⟩] }

/-- Slots that work of a class could still take at an engine. -/
def State.freeSlots (s : State) (pos cls : Nat) : Nat :=
  let e := s.engine pos
  let busy := e.slots.countP fun x => x.2.isSome
  let other := e.slots.countP fun x => x.2.any fun f => f.cls != 0
  if cls = 0 then 512 - busy else min (512 - busy) (512 - s.cfg.reserve.fetch - other)

/-- Work of classes 1 to 3 issues at a position whose engine was idle: the issue ramps up (R29). R29 does not say what an
idle engine is: here it holds no row in its merge cache and no fetch of classes 1 to 3 (DESIGN CHOICE, log entry 69). -/
def State.wakeEngine (s : State) (pos cls : Nat) : State :=
  let e := s.engine pos
  if cls = 0 ∨ e.merge != [] ∨ e.slots.any (fun x => x.2.any fun f => f.cls != 0) then s else s.rampFrom0 pos

/-- The cold-fetch queue takes n fetches of a class: of its 2,048 places each other class keeps one for itself (R27,
R230). -/
def State.coldRoom (s : State) (cls n : Nat) : Bool :=
  let kept := ((List.range 4).filter fun c => c != cls && !s.mov.cold.any fun x => x.cls == c).length
  s.mov.cold.length + n + kept ≤ 2048

/-- The rows of one position issued; work that needs a stack without its contents is parked (R421). Rows are issued when
each has a slot, its link carries traffic and the cold-fetch queue has room (R230); none means that the position waits. A queue that is full counts a retry. -/
def State.issueRows (s : State) (w : Nat) (k : Work) (bag idx pos : Nat) (wt : Option Weight) (rs : List RowReq) :
    State × Bool :=
  let places := rs.map fun r => s.placeOf w k.domain pos ((s.cfg.table r.2.1).getD default) r.2.2.2
  let cold := places.countP fun p => p == .cold
  let up := places.all fun p => match p with
    | .agent a => (s.link (s.ownerAgent a)).st != .down
    | .frame _ a => (s.link (s.ownerAgent a)).st != .down
    | _ => true
  let gone := places.findSome? fun p => match p with
    | .agent a => if (s.agent (s.ownerAgent a)).noContents then some (stackOf a) else none
    | .frame _ a => if (s.agent (s.ownerAgent a)).noContents then some (stackOf a) else none
    | _ => none
  if let some st := gone then (s.park w (.contents st), false)
  else if s.freeSlots pos k.cls < rs.length || !up then (s, false)
  else if cold ≠ 0 ∧ !s.coldRoom k.cls cold then (s.count 0x011, false)
  else
    (s.each (rs.zip places) fun s e => s.takeSlot w k bag idx pos wt e.1 e.2, true)

end Sys2Proof.Machine
end

