-- ==== Sys2Proof/Machine/Gradient.lean ====
section
/-! DEFINITION. The engine side of a scatter: gradients of an index (R183, R184), the merge cache (R186, R187)
and the gradient record (R188, R189). -/

namespace Sys2Proof.Machine

open Sys2Proof

/-! ### Records and the merge cache -/

/-- Lines of 32 elements that a row takes (R186). -/
def MergeRow.lines (r : MergeRow) : Nat := ceilDiv r.pairs.length 32

/-- The gradient record of a row (R188). -/
def MergeRow.record (r : MergeRow) : Bytes :=
  let lo := r.pairs.any fun p => p.lo != 0
  padTo 16 (leBytes 8 r.addr ++ leBytes 4 r.epoch ++ leBytes 1 (bitAt (r.slot == 1) 0 + bitAt lo 1) ++ zeros 1 ++
    leBytes 2 (r.pairs.length - 1) ++ r.pairs.flatMap (fun p => leBytes 4 p.hi) ++
    (if lo then r.pairs.flatMap fun p => leBytes 4 p.lo else []))

/-- A record sent to the agent that owns the row; one for an agent that has acknowledged the epoch is
discarded (R207). -/
def State.emitRecord (s : State) (pos : Nat) (r : MergeRow) : State :=
  match s.scatter r.slot with
  | some sc =>
    let h := homeAgent r.addr
    if sc.acked.contains (r.epoch, h) then s
    else
      let cls := ((s.work sc.work).map Work.cls).getD 2
      let s := (s.sendCtl (s.ownerOf h) 0x05 cls 0 r.record).countTile pos 8 1
      let s := s.served (s.tileOf pos).toList sc.work
      s.setScatter r.slot (some { sc with counts := sc.counts ++ [(r.epoch, h, 1)] })
  | none => s

/-- Rows evicted from the merge cache until a new one of some lines has room: the least recently used goes
whole (R187), by fuel. -/
def State.mergeRoom (s : State) (pos need : Nat) : Nat → State
  | 0 => s
  | f + 1 =>
    let e := s.engine pos
    if (e.merge.map MergeRow.lines).foldl (· + ·) 0 + need ≤ 2048 then s
    else match e.merge.getLast? with
      | none => s
      | some r =>
        let s := s.setEngine pos { e with merge := e.merge.dropLast }
        let s := match s.tileOf pos with
          | some t => s.tally t 9 r.lines r.slot
          | none => s
        (s.emitRecord pos r).mergeRoom pos need f

/-- One gradient added to a row of an epoch (R187). -/
def State.mergeAdd (s : State) (pos slot epoch a table : Nat) (g : List Nat) : State :=
  let e := s.engine pos
  let hit (r : MergeRow) : Bool := r.slot == slot && r.epoch == epoch && r.addr == a
  match e.merge.find? hit with
  | some r =>
    let r := { r with pairs := (r.pairs.zip g).map fun p => pairAdd FFmt.fp32 p.1 p.2 }
    s.setEngine pos { e with merge := r :: e.merge.filter fun r => !hit r }
  | none =>
    let r : MergeRow := ⟨slot, epoch, a, table, g.map pairStart⟩
    let s := s.mergeRoom pos r.lines (e.merge.length + 1)
    s.setEngine pos { s.engine pos with merge := r :: (s.engine pos).merge }

/-! ### The gradient of an index -/

/-- Codes of gradient elements as FP32, exactly (R183). -/
def gradCodes (f : Fmt) (n : Nat) (b : Bytes) : List Nat :=
  (f.codes b n).map fun c => FFmt.fp32.encode .nearest (f.value c)

/-- Where the gradient of a position lies: by index position or by bag (R180). -/
def Share.gradAddr (sh : Share) (lb p : Nat) : Nat :=
  sh.desc.result + (if sh.desc.upd.perBag then lb else p) * sh.desc.rstride

/-- Indices of a bag read in order, with how each resolves; a read that waits or is denied ends the walk. -/
def State.bagResolved (s : State) (w : Nat) (sh : Share) (td : TableDesc) (r : Range) : Found × List Resolved × State :=
  (List.range r.len).foldl (fun (acc : Found × List Resolved × State) i =>
    match acc with
    | (.bytes _, l, s) =>
      match s.readIndex w sh (r.start + i) with
      | (.bytes b, s) => (.bytes [], l ++ [s.cfg.resolve td (leNat b)], s)
      | (f, s) => (f, l, s)
    | x => x) (.bytes [], [], s)

/-- The survivors of a bag before position i, and in all. -/
def survivorsBefore (rs : List Resolved) (i : Nat) : Nat := (rs.take i).countP Resolved.survives

/-- The gradient of a surviving index (R183): g is the vector read, n the survivors of the bag, j the number of
survivors before it. none receives nothing. -/
def expandGrad (d : TaskDesc) (e : Nat) (g : List Nat) (wt : Option Weight) (n j : Nat) : Option (List Nat) :=
  if !d.upd.perBag then some g
  else match d.pool with
  | .sum => some g
  | .mean => some (g.map fun c => meanOf FFmt.fp32 (FFmt.fp32.decode c) n)
  | .sqrtn => some (g.map fun c => sqrtnOf FFmt.fp32 (FFmt.fp32.decode c) n)
  | .wsum => some (g.map fun c => FFmt.fp32.encode .nearest ((weightValue wt).mul (FFmt.fp32.decode c)))
  | .concat => if j < d.concatN then some ((g.drop (j * e)).take e) else none
  | .max => none

/-- The bytes of the gradient that a position uses. -/
def TaskDesc.gradBuffer (d : TaskDesc) (td : TableDesc) : Nat :=
  ((Fmt.ofCode d.upd.gfmt).getD .fp32).dataBytes
    (td.elements * (if d.upd.perBag && d.pool == .concat then d.concatN else 1))

/-- The gradient vector of position i of a bag, when everything that it needs has been read; the inner option
is none for a survivor that receives nothing. -/
def State.gradientOf (s : State) (w : Nat) (sh : Share) (td : TableDesc) (lb : Nat) (r : Range) (i : Nat)
    (wt : Option Weight) : Found × Option (List Nat) × State :=
  let d := sh.desc
  let f := (Fmt.ofCode d.upd.gfmt).getD .fp32
  match s.workRead w (sh.gradAddr lb (r.start + i)) (d.gradBuffer td) with
  | (.bytes b, s) =>
    let g := gradCodes f (td.elements * (if d.upd.perBag && d.pool == .concat then d.concatN else 1)) b
    if d.upd.perBag && (d.pool == .mean || d.pool == .sqrtn || d.pool == .concat) then
      match s.bagResolved w sh td r with
      | (.bytes _, rs, s) =>
        (.bytes [], expandGrad d td.elements g wt (survivorsBefore rs r.len) (survivorsBefore rs i), s)
      | (f, _, s) => (f, none, s)
    else (.bytes [], expandGrad d td.elements g wt 1 0, s)
  | (.wait, s) => (.wait, none, s)
  | (.denied, s) => (.denied, none, s)

/-- An element-wise product, each rounded once to FP32 (R184). -/
def gradTimes (g v : List Nat) : List Nat :=
  (g.zip v).map fun p => FFmt.fp32.encode .nearest ((FFmt.fp32.decode p.1).mul (FFmt.fp32.decode p.2))

/-- The gradients that the rows of an index take: the table, the address and the vector (R57, R59). v gives the
committed value of a row of a composed product. -/
def rowGrads (td : TableDesc) (rs : List (Nat × Nat × Nat)) (g : List Nat) (v : Nat → List Nat) :
    List (Nat × Nat × List Nat) :=
  match rs with
  | [a] => [(a.1, a.2.2, g)]
  | [q, p] =>
    if td.hashMode = 2 && !td.composeAdd then
      [(q.1, q.2.2, gradTimes g (v 1)), (p.1, p.2.2, gradTimes g (v 0))]
    else [(q.1, q.2.2, g), (p.1, p.2.2, g)]
  | _ => []

/-- A composed product reads the rows before it sends gradients (R184). -/
def TableDesc.readsRows (td : TableDesc) : Bool := td.hashMode == 2 && !td.composeAdd

end Sys2Proof.Machine
end

