-- ==== Sys2Proof/Machine/Fetch.lean ====
section
/-! DEFINITION. ROW_FETCH_ISSUE (R54, R60, R66, R97, R214), ROW_RETURN (R97, R164, R410), and the completion of a
bag. -/

namespace Sys2Proof.Machine

open Sys2Proof

/-! ### A bag and its positions -/

/-- A bag of a work, with what is needed to work on it. -/
structure BagRef where
  k : Work
  i : Nat                      -- share
  sh : Share
  lb : Nat                     -- bag in the share
  r : Range
  td : TableDesc

/-- The bag of a work, once its range is known: none for a work that does not run or has no such bag. The inner
option is none for a malformed offset or length entry. -/
def State.bagRef (s : State) (w b : Nat) : Option (Option BagRef × State) :=
  match s.running w with
  | some k =>
    match k.shareOf b, s.cfg.table k.desc.table with
    | some (i, sh, lb), some td =>
      if !k.desc.indexed || !sh.released || !s.issuing then some (none, s)
      else match s.readRanges w i lb with
        | none => none
        | some s' =>
          match (s'.work w).bind fun k => (k.shares[i]?).bind fun sh => (sh.range lb).map fun r => (k, sh, r) with
          | some (k, sh, r) => some (some ⟨k, i, sh, lb, r, td⟩, s')
          | none => some (none, s')
    | _, _ => some (none, s)
  | none => some (none, s)

/-- A position as scatter epochs number it: shares one after the other. -/
def posId (share p : Nat) : Nat := share * 2 ^ 32 + p

/-- A change to one bag of a work. -/
def State.modBag (s : State) (w b : Nat) (f : Bag → Bag) : State :=
  s.modWork w fun k => { k with bags := k.bags.modify default b f }

/-- Two consecutive bags of a link take their SPACE in order (R172, R365); false: the bag waits. -/
def State.takeSpace (s : State) (w b : Nat) : State × Bool :=
  match (s.work w).bind Work.link with
  | some p =>
    match s.work w with
    | some k =>
      if (k.bags.get default b).space then (s, true)
      else if (s.sem p).space = 0 ∨ (b ≠ 0 ∧ !(k.bags.get default (b - 1)).space) then (s, false)
      else
        let q := s.sem p
        ((s.setSem p { q with space := q.space - 1, stalled := false }).modBag w b fun g => { g with space := true }, true)
    | none => (s, false)
  | none => (s, true)

/-- Positions are issued in order where the order matters: CONCAT (R91), and every scatter (R194). -/
def TaskDesc.inOrder (d : TaskDesc) : Bool :=
  d.kind == some .scatter || (d.kind == some .gather && d.pool == .concat)

/-- What a scatter needs before it issues one more position: its slot, no cut or replay that it waits for, and
every earlier position issued (R194, R207). -/
def State.mayIssue (s : State) (w : Nat) (p : Nat) : Bool :=
  match s.scatterSlot w with
  | some i => (s.scatter i).any fun sc => !(sc.hold.any fun e => s.crateBusy i e) && !sc.wantCut && !sc.ending &&
      (sc.issued.all fun q => q < p)
  | none => false

/-- Every position of the bags before a bag has been taken. -/
def State.earlierTaken (s : State) (w b : Nat) : Bool :=
  (List.range b).all fun c => match s.bagRef w c with
    | some (some g, _) => (g.k.bags.get default c).taken.length == g.r.len
    | _ => false

/-- A position recorded as issued; the epoch limit is a cut condition (R194). -/
def State.markIssued (s : State) (w p : Nat) : State :=
  match s.scatterSlot w with
  | some i =>
    match s.scatter i with
    | some sc =>
      let issued := sc.issued ++ [p]
      let inEpoch := issued.countP fun q => sc.start sc.cuts.length ≤ q
      let full := match sc.limit with
        | some n => n ≤ inEpoch
        | none => false
      s.setScatter i (some { sc with issued := issued, wantCut := sc.wantCut || full, hold := none })
    | none => s
  | none => s

/-! ### ROW_FETCH_ISSUE -/

/-- A position taken by an engine: INDICES counts it once (R102, R209). -/
def State.noteTaken (s : State) (w b : Nat) (t : Taken) : State :=
  s.modWork w fun k =>
    let g := k.bags.get default b
    let n := g.taken.length + 1
    let k := if n ≤ g.peak then k
      else { k with tally := { k.tally with indices := satAdd 0xFFFFFFFF k.tally.indices 1 } }
    { k with bags := k.bags.set default b { g with taken := g.taken ++ [t], peak := max n g.peak } }

/-- The event of a drop (R445). -/
def State.tallyDrop (s : State) (pos : Nat) (table : Nat) (res : Resolved) : State :=
  match s.tileOf pos, res with
  | some t, .invalid => s.tally t 5 table 0
  | some t, .missing => s.tally t 6 table 0
  | _, _ => s

/-- A tile begins on a task (R445). -/
def State.tileStarts (s : State) (w pos : Nat) : State :=
  match s.tileOf pos with
  | some t => s.unitStarts w t
  | none => s

/-- An index taken by an engine position: the tile begins on the task, the position counts and, for a scatter, is issued;
a drop is an event (R102, R194, R209, R445). -/
def State.noteIndex (s : State) (w b : Nat) (g : BagRef) (steer : List (Nat × Nat)) (t : Taken) : State :=
  let s := (((s.tileStarts w t.engine).modBag w b fun v => { v with steer := steer }).noteTaken w b t)
  let s := if g.k.desc.kind == some .scatter then s.markIssued w t.pos else s
  s.tallyDrop t.engine g.td.id t.res

/-- The gradients of a position that is not a composed product go to the merge cache at once (R187). -/
def State.mergeAll (s : State) (pos slot epoch : Nat) (gs : List (Nat × Nat × List Nat)) : State :=
  s.each gs fun s g => s.mergeAdd pos slot epoch g.2.1 g.1 g.2.2

/-- The epoch of a position of a scatter work, with its slot. -/
def State.epochAt (s : State) (w p : Nat) : Option (Nat × Nat) :=
  (s.scatterSlot w).bind fun i => (s.scatter i).map fun sc => (i, sc.epochOf p)

/-- The replicas that a bag's gathers go to: one child for the whole bag (R66). -/
def State.steering (s : State) (g : BagRef) (bag : Bag) : List (Nat × Nat) :=
  if g.k.desc.kind == some .scatter then bag.steer
  else match s.cfg.steerNode g.td, bag.steer with
    | some (n, os), [] => [(n, s.pickReplica n os)]
    | _, l => l

/-- The engine position that an index of a bag routes to (R60, R66). -/
def State.routeIndex (s : State) (g : BagRef) (steer : List (Nat × Nat)) (x : Nat) : Option Nat :=
  let choose (n : Nat) (os : List Nat) : Nat := ((steer.find? fun e => e.1 == n).map (·.2)).getD (os.getD 0 0)
  s.cfg.route g.td.id x (g.k.desc.kind == some .scatter) choose

/-- A bag has a position that no engine has taken, whose index is at hand and routes to an engine position. -/
def State.bagReady (s : State) (w b pos : Nat) : Bool :=
  match s.bagRef w b with
  | some (some g, s) =>
    let bag := g.k.bags.get default b
    (List.range g.r.len).any fun i =>
      let p := g.r.start + i
      if bag.committed || !g.sh.hasPos p || bag.taken.any (fun t => t.pos == posId g.i p) then false
      else match s.readIndex w g.sh p with
        | (.bytes ib, s) => s.routeIndex g (s.steering g bag) (leNat ib) == some pos
        | _ => false
  | _ => false

/-- Class 0 has an index ready for an engine position that has a slot for it: it is granted first (R21, R384). -/
def State.class0At (s : State) (pos : Nat) : Bool :=
  0 < s.freeSlots pos 0 && s.works.any fun e => e.2.cls == 0 && (List.range e.2.desc.bags).any fun b => s.bagReady e.1 b pos

/-- An index of a bag resolved and issued at the engine position that it routes to. -/
def State.issueIndex (s : State) (w b : Nat) (g : BagRef) (p x : Nat) (wt : Option Weight) : Out :=
  let k := g.k
  let scat := k.desc.kind == some .scatter
  let res := s.cfg.resolve g.td x
  let bag := k.bags.get default b
  let steer := s.steering g bag
  match s.routeIndex g steer x with
  | none => .next (s.openWork w)
  | some pos =>
    let e := s.engine pos
    if e.lost then .next (s.park w (.position pos))
    else if e.moving || (k.cls != 0 && s.class0At pos) then .next s
    else
      let note (s : State) : State := s.noteIndex w b g steer ⟨posId g.i p, x, pos, res, none⟩
      match res with
      | .rows rs =>
        let before := bag.taken.countP fun t => t.res.survives
        if k.desc.kind == some .gather && k.desc.pool == .concat && g.sh.desc.concatN ≤ before then .next (note s)
        else if scat && rs.any fun r => spaceOf r.2.2 == 0 && (s.agent (s.ownerAgent r.2.2)).noContents then
          .next (s.park w (.contents (((rs.map fun r => stackOf r.2.2)).getD 0 0)))
        else if scat && !g.td.readsRows then
          match s.epochAt w (posId g.i p) with
          | some (slot, ep) =>
            match s.gradientOf w g.sh g.td g.lb g.r (p - g.r.start) wt with
            | (.bytes _, some v, s) =>
              .next (((note s).wakeEngine pos k.cls).mergeAll pos slot ep (rowGrads g.td rs v fun _ => []))
            | (.bytes _, none, s) => .next (note s)
            | (.wait, _, s) => .next s
            | (.denied, _, s) => .next (s.endWork w 1)
          | none => .next s
        else
          let reqs := rowReqs rs
          let bad := reqs.any fun r => spaceOf r.2.2.2 == 0 &&
            !s.allows k.domain r.2.2.2 ((s.cfg.table r.2.1).getD default).rowBytes 1
          let issue (gr : Option (List Nat)) (s : State) : Out :=
            match (s.wakeEngine pos k.cls).issueRows w k b (posId g.i p) pos wt reqs with
            | (s, true) => .next (s.noteIndex w b g steer ⟨posId g.i p, x, pos, res, gr⟩)
            | (s, false) => .next s
          if bad then .next (s.endWork w 1)
          else if scat then
            match s.gradientOf w g.sh g.td g.lb g.r (p - g.r.start) wt with
            | (.bytes _, v, s) => issue v s
            | (.wait, _, s) => .next s
            | (.denied, _, s) => .next (s.endWork w 1)
          else issue none s
      | _ => .next (note s)

/-- ROW_FETCH_ISSUE: position i of a bag is read, resolved and served (R54, R80, R214). A position that has
been taken, or whose turn has not come, changes nothing. -/
def execRowFetchIssue (w : WorkId) (bag : Nat) (i : Nat) (s : State) : Out :=
  match s.bagRef w bag with
  | none => .next (s.openWork w)
  | some (none, s) => .next s
  | some (some g, s) =>
    let p := g.r.start + i
    let b := g.k.bags.get default bag
    let scat := g.k.desc.kind == some .scatter
    if g.r.len ≤ i || b.committed || !g.sh.hasPos p || (b.taken.any fun t => t.pos == posId g.i p) ||
        (g.k.desc.inOrder && b.taken.length != i) ||
        (scat && !(s.mayIssue w (posId g.i p) && s.earlierTaken w bag)) then .next s
    else match s.takeSpace w bag with
      | (s, false) => .next s
      | (s, true) =>
        match s.readIndex w g.sh p with
        | (.wait, s) => .next s
        | (.denied, s) => .next (s.endWork w 1)
        | (.bytes ib, s) =>
          let weighted := (g.k.desc.kind == some .gather || (scat && g.k.desc.upd.perBag)) && g.k.desc.pool == .wsum
          -- a WGT reads its weight in every mode (R85); only a weighted sum uses it
          if weighted || (g.sh.desc.bagMode == 3 && (g.sh.emits.getD p default).wgt.isSome) then
            match s.readWeight w g.sh p with
            | (.wait, s) => .next s
            | (.denied, s) => .next (s.endWork w 1)
            | (.bytes wb, s) =>
              s.issueIndex w bag g p (leNat ib) (if weighted then weightOf g.sh.desc.wfmt wb else none)
          else s.issueIndex w bag g p (leNat ib) none

/-! ### ROW_RETURN -/

/-- Selector blocks of an array taken for a bag at its first candidate (R164); false: the bag waits. -/
def State.takeSel (s : State) (w b a k cls : Nat) : State × Bool :=
  let x := s.array a
  if x.selUsed.any fun u => u.1 == w && u.2.1 == b then (s, true)
  else
    let need := ceilDiv k 64
    let used := x.selUsed.foldl (fun n u => n + u.2.2) 0
    let room := if cls = 0 then 64 - used else min (64 - used) (s.selFree a)
    if room < need then (s, false)
    else (s.setArray a { x with selUsed := x.selUsed ++ [(w, b, need)] }, true)

/-- The gradients of a composed product once both rows of a position have arrived (R59, R184). -/
def State.productGrads (s : State) (w b pos : Nat) (p : Nat) : State :=
  match s.work w, s.epochAt w p with
  | some k, some (slot, ep) =>
    let bag := k.bags.get default b
    match s.cfg.table k.desc.table, bag.taken.find? (fun t => t.pos == p), arrivedRow bag.arrivals p 0,
        arrivedRow bag.arrivals p 1 with
    | some td, some ⟨_, _, _, .rows rs, some g⟩, some q, some r =>
      s.mergeAll pos slot ep (rowGrads td rs g fun j => dequant FFmt.fp32 (if j = 0 then q.row else r.row).stored)
    | _, _, _, _ => s
  | _, _ => s

/-- A row pooled into its bag, or streamed to an array as a candidate. -/
def State.arrive (s : State) (f : FSlot) (pos : Nat) (row : RowVal) : State :=
  match (s.work f.work).bind fun k => k.desc.kind with
  | some .score =>
    (s.modBag f.work f.bag fun g => { g with cands := g.cands ++ [⟨f.row, pos, s.feedOf pos, row, none⟩] }).syncLinks
  | some .scatter =>
    (s.modBag f.work f.bag fun g => { g with arrivals := g.arrivals ++ [⟨f.pos, f.which, f.weight, row⟩] }).productGrads
      f.work f.bag pos f.pos
  | _ => s.modBag f.work f.bag fun g => { g with arrivals := g.arrivals ++ [⟨f.pos, f.which, f.weight, row⟩] }

/-- A row that waits in a slot can go on: a candidate needs its selector blocks, and for classes 1 to 3 a SPACE of the
link to its array (R164, R172). -/
def State.canArrive (s : State) (f : FSlot) (pos : Nat) : Bool :=
  match s.work f.work with
  | some k => k.desc.kind != some .score || ((s.takeSel f.work f.bag (s.feedOf pos) k.desc.score.k k.cls).2 &&
      (k.cls == 0 || !s.linkFull (false, pos, s.feedOf pos)))
  | none => true

/-- A class 0 row of an engine can go on (R21). -/
def State.class0Row (s : State) (pos : Nat) : Bool :=
  (s.engine pos).slots.any fun x => x.2.any fun f => f.cls == 0 && f.data.isSome && !f.dead && s.canArrive f pos

/-- A row of integer codes whose ROW_SUM differs from their sum is a host error in data: what R8 lets it reach is open,
and Farnum goes on (R137). -/
def State.checkSum (s : State) (f : FSlot) (td : TableDesc) (row : RowVal) : State :=
  if td.hdr && row.badSum then (s.openDests f.work).openBytes 16 [⟨f.addr, td.rowBytes, 0, 1⟩] else s

/-- ROW_RETURN: a row whose tag names the current placement epoch and a slot that waits is dequantised and
pooled; any other is discarded and counted (R97, R410). Rows of class 0 go first (R21). -/
def execRowReturn (tag : BitVec 23) (s : State) : Out :=
  let t := tag.toNat
  let pos := fld t 14 9
  let i := fld t 8 0
  let e := s.engine pos
  if !s.targetOn || 48 ≤ pos then .next s
  else match e.slots.get none i with
  | none => .next (s.countTile pos 7 1)
  | some f =>
    let free (s : State) : State := s.modEngine pos fun e => { e with slots := e.slots.set none i none }
    if f.epoch ≠ fld t 22 15 then .next (s.countTile pos 7 1)
    else if f.dead && f.err then .next (free s)
    else match f.data with
    | none => .next s
    | some b =>
      if f.dead then .next (free s)
      else if !s.canArrive f pos || (f.cls != 0 && s.class0Row pos) then .next s
      else match s.work f.work, s.cfg.table f.table with
      | some k, some td =>
        if k.desc.kind = some .score then
          match s.takeSel f.work f.bag (s.feedOf pos) k.desc.score.k k.cls with
          | (s, true) => .next (((free s).checkSum f td (td.row b)).arrive f pos (td.row b))
          | (s, false) => .next s
        else .next (((free s).checkSum f td (td.row b)).arrive f pos (td.row b))
      | _, _ => .next (free s)

end Sys2Proof.Machine
end

