-- ==== Sys2Proof/Machine/Packets.lean ====
section
/-! DEFINITION. The scoring arrays at work (R160 to R171) and result packets (R90 to R96, R100, R101, R138 to
R143): ARRAY_PASS, MULTICAST_PACKET, ROTATION_STEP and SEMAPHORE_STALL. -/

namespace Sys2Proof.Machine

open Sys2Proof

/-! ### Queries and inputs -/

/-- The query side of a bag: its format, elements and address, for a ring task (R152); a share has its own buffers
(R354). -/
def BagRef.query (g : BagRef) : Option (Fmt × Nat × Nat) :=
  (queryFmt g.k.desc.score.qfmt).map fun f => (f, g.td.elements, g.sh.desc.weights + g.lb * g.k.desc.score.vstride)

/-- Bytes of a bag's query. -/
def BagRef.queryLen (g : BagRef) : Nat :=
  match g.k.query with
  | some q => q.bytes.length
  | none => (g.query.map fun q => vectorBytes q.1 q.2.1).getD 0

/-- The query vector that some bytes are. -/
def BagRef.queryVal (g : BagRef) (b : Bytes) : RowVal :=
  match g.k.query with
  | some q => ({ q with bytes := b } : QVec).val
  | none => (g.query.map fun q => vectorOfBytes q.1 q.2.1 b).getD default

/-- The arrays that receive a bag's query: those that its engine positions feed (R163). -/
def State.receivers (s : State) (g : Bag) : List Nat :=
  (List.range 8).filter fun a => g.taken.any fun t => t.res.survives && s.feedOf t.engine == a

/-- A scoring bag of a CANDIDATE task or class 0 request. -/
def BagRef.scores (g : BagRef) : Bool := g.k.desc.kind == some .score

/-- A packet enters the multicast buffer of its class, for the arrays that it goes to. -/
def State.sendPacket (s : State) (w bag cls : Nat) (arrays : List Nat) (b : Bytes) : State :=
  (s.modMcast fun l => l ++ [⟨w, bag, cls, b, arrays⟩]).modBag w bag fun v => { v with
    mcast := arrays.foldl (fun t a => t.set 0 a (t.get 0 a + 1)) v.mcast }

/-- MULTICAST_PACKET: the next packet of 256 bytes of a bag's query goes to every array that receives it and has not been
sent it, once the buffer of 16 packets of the class has room (R170, R171). The reader reads a ring task's query from
memory. -/
def execMulticastPacket (w : WorkId) (bag : Nat) (s : State) : Out :=
  match s.bagRef w bag with
  | none => .next (s.openWork w)
  | some (none, s) => .next s
  | some (some g, s) =>
    let b := g.k.bags.get default bag
    let behind := (s.receivers b).filter fun a => 256 * b.mcast.get 0 a < g.queryLen
    let n := behind.foldl (fun m a => min m (b.mcast.get 0 a)) 4096
    let due := behind.filter fun a => b.mcast.get 0 a == n
    let len := min 256 (g.queryLen - 256 * n)
    if !g.scores || b.committed || behind = [] || 16 ≤ s.arr.mcast.countP (fun x => x.cls == g.k.cls) then .next s
    else match g.k.query, g.query with
      | some q, _ => .next (s.sendPacket w bag g.k.cls due (slice q.bytes (256 * n) len))
      | none, some (_, _, a) =>
        match s.workRead w (a + 256 * n) len with
        | (.bytes x, s) => .next (s.sendPacket w bag g.k.cls due x)
        | (.wait, s) => .next s
        | (.denied, s) => .next (s.endWork w 1)
      | none, none => .next s

/-- An array takes the packets of a class that wait for it, in order; a packet that every array has taken leaves the
buffer (R170). -/
def State.takePackets (s : State) (a cls : Nat) : State :=
  let mine := s.arr.mcast.filter fun x => x.cls == cls && x.left.contains a
  let s := s.each mine fun s x => (s.count (arrayCounter a 5)).modBag x.work x.bag fun v => { v with
    heard := v.heard.set [] a (v.heard.get [] a ++ x.data) }
  s.modMcast fun l => (l.map fun x => if x.cls = cls then { x with left := x.left.erase a } else x).filter fun x =>
    x.left != []

/-- An array has the whole query of a bag, once it has taken what waits for it. -/
def State.hasQuery (s : State) (w bag a : Nat) (g : BagRef) : Bool :=
  let waiting := (s.arr.mcast.filter fun x => x.work == w && x.bag == bag && x.left.contains a).flatMap McPkt.data
  ((g.k.bags.get default bag).heard.get [] a ++ waiting).length == g.queryLen

/-- Candidates of a bag that an array has still to score. -/
def Bag.due (b : Bag) (a : Nat) : Bool := b.cands.any fun c => c.arr == a && c.score.isNone

/-- A class 0 bag waits for a pass of an array that has its query: it goes first (R21). -/
def State.class0Pass (s : State) (a : Nat) : Bool :=
  s.works.any fun e => e.2.cls == 0 && e.2.bags.any fun b => b.2.due a && match s.bagRef e.1 b.1 with
    | some (some g, s) => s.hasQuery e.1 b.1 a g
    | _ => false

/-- Samples in a pass of an INTERACT task (R165). -/
def ScoreParam.perPass (p : ScoreParam) : Nat := 64 / p.f

/-- The array of an INTERACT pass: the passes go round the arrays, and a retired one passes to its partner
(R165, R415). -/
def State.passArray (s : State) (n : Nat) : Nat :=
  let a := n % 8
  if (s.array a).retired then a ^^^ 1 else a

/-- The input vectors of a sample (R152). -/
def State.inputs (s : State) (w : Nat) (d : TaskDesc) (b count : Nat) : Option (List RowVal) × State :=
  let p := d.score
  match queryFmt p.qfmt with
  | none => (none, s)
  | some f =>
    (List.range count).foldl (fun (acc : Option (List RowVal) × State) i =>
      match acc with
      | (some l, s) =>
        match s.workRead w (d.index + b * p.vstride + i * p.fstride) (vectorBytes f p.elem) with
        | (.bytes x, s) => (some (l ++ [vectorOfBytes f p.elem x]), s)
        | (.wait, s) => (none, s)
        | (.denied, s) => (none, s.endWork w 1)
      | (none, s) => (none, s)) (some [], s)

/-- The inputs of some samples; none while one has not been read. -/
def State.inputsOf (s : State) (w : Nat) (d : TaskDesc) (count : Nat) (bs : List Nat) : Option (List (Nat × List RowVal)) × State :=
  bs.foldl (fun (acc : Option (List (Nat × List RowVal)) × State) b =>
    let (vs, s) := acc.2.inputs w d b count
    (match acc.1, vs with
      | some l, some v => some (l ++ [(b, v)])
      | _, _ => none, s)) (some [], s)

/-- The samples of a pass that have no outputs yet. -/
def Work.passDue (k : Work) (n : Nat) : List Nat :=
  let m := k.desc.score.perPass
  (List.range m).map (n * m + ·) |>.filter fun b =>
    b < k.desc.bagCount && !(k.bags.get default b).committed && (k.bags.get default b).outs.isNone

/-- ARRAY_PASS: an array takes the query packets that wait for it, and scores and inserts the candidates of a bag that it
holds, or computes a pass of samples, in the order in which the passes of a task were dealt to it (R160, R161, R165,
R170). Class 0 goes first (R21). -/
def execArrayPass (w : WorkId) (bag : Nat) (arr : ArrayId) (s : State) : Out :=
  match s.running w with
  | none => .next s
  | some k =>
    let a := arr.val
    if (s.array a).retired || !s.issuing || (k.cls != 0 && s.class0Pass a) then .next s
    else if k.desc.isScore 1 then
      let n := bag / k.desc.score.perPass
      let bs := k.passDue n
      if bs = [] || s.passArray n != a || (List.range n).any (fun i => s.passArray i == a && k.passDue i != []) then .next s
      else match s.inputsOf w k.desc k.desc.score.f bs with
        | (some vs, s) =>
          .next ((s.each vs fun s v => (s.modBag w v.1 fun g => { g with
            outs := some (interactOut v.2 k.desc.score.self) }).count (arrayCounter a 2)).count (arrayCounter a 0) |>.unitStarts
            w (80 + a))
        | (none, s) => .next s
    else
      let s := s.takePackets a k.cls
      match s.bagRef w bag with
      | none => .next (s.openWork w)
      | some (none, s) => .next s
      | some (some g, s) =>
        let b := g.k.bags.get default bag
        let wait := k.cls != 0 && (b.queuePos.any fun p => s.linkFull (true, a, p)) &&
          !b.cands.any fun c => c.arr == a && c.score.isSome
        if !g.scores || b.committed || !b.due a || !s.hasQuery w bag a g || wait then .next s
        else
          let q := g.queryVal (b.heard.get [] a)
          let due (c : Cand) : Bool := c.arr == a && c.score.isNone
          let s := ((s.count (arrayCounter a 0)).countN (arrayCounter a 1) (b.cands.countP due)).unitStarts w (80 + a)
          .next (s.modBag w bag fun v => { v with
            len := g.r.len
            cands := v.cands.map fun c => if due c then { c with score := some (scoreVec c.val q) } else c }).syncLinks

/-! ### Projection -/

/-- Batches of 64 samples that a PROJECT task has begun. -/
def State.batchOf (s : State) (w first : Nat) : Option Batch :=
  s.arr.batches.find? fun b => b.work == w && b.first == first

/-- Rotation steps of a set (R168): ⌈T ÷ n⌉ rounds of n steps. -/
def ProjSet.steps (p : ProjSet) : Nat := ceilDiv p.tileCount p.n * p.n

/-- The tile that array a of a set holds at rotation step t (R168). -/
def ProjSet.tileAt (p : ProjSet) (a t : Nat) : Nat := t / p.n * p.n + (a + p.n - t % p.n) % p.n

/-- The next batch of a PROJECT task that is not in rotation and not done. -/
def State.nextBatch (s : State) (w : Nat) (k : Work) : Option Nat :=
  (List.range (ceilDiv k.desc.bagCount 64)).find? fun i =>
    (s.batchOf w (64 * i)).isNone && (List.range 64).any fun j =>
      64 * i + j < k.desc.bagCount && !(k.bags.get default (64 * i + j)).committed &&
        (k.bags.get default (64 * i + j)).outs.isNone

/-- A batch enters its array with its input vectors (R168). -/
def State.enterBatch (s : State) (w first n arr : Nat) (vs : List (Nat × List RowVal)) : State :=
  (s.each vs fun s v => s.modBag w v.1 fun g => { g with inp := v.2.head?, rot := [] }).modBatches fun l =>
    l ++ [⟨w, first, n, arr, 0⟩]

/-- Batches of the works of a set dealt to the arrays in turn, one for each array that has none, each once its input
vectors have been read (R168). -/
def State.dealBatches (s : State) (p : ProjSet) : State :=
  let ws := s.works.filter fun e => e.2.desc.isScore 2 && e.2.desc.score.set == p.set && (s.running e.1).isSome
  s.each ws fun s e =>
    s.each (List.range p.n) fun s _ =>
      match s.running e.1 with
      | some k =>
        match s.nextBatch e.1 k with
        | some i =>
          let a := p.first + i % p.n
          let n := min 64 (k.desc.bagCount - 64 * i)
          if s.arr.batches.any fun b => b.arr == a then s
          else match s.inputsOf e.1 k.desc 1 ((List.range n).map (64 * i + ·)) with
            | (some vs, s) => s.enterBatch e.1 (64 * i) n a vs
            | (none, s) => s
        | none => s
      | none => s

/-- One batch computes with the tile that its array holds at a rotation step. -/
def State.batchStep (s : State) (p : ProjSet) (turn : Nat) (b : Batch) : State :=
  let t := p.tileAt (b.arr - p.first) turn
  let s := (s.count (arrayCounter b.arr 4)).unitStarts b.work (80 + b.arr)
  let s := if t < p.tileCount then
    s.each (List.range b.count) fun s j => s.modBag b.work (b.first + j) fun g =>
      { g with rot := g.rot ++ (g.inp.map fun x => (t, p.tileOut t x)).toList }
    else s
  if b.done + 1 < p.steps then
    s.modBatches fun l => l.map fun x => if x = b then { x with done := x.done + 1 } else x
  else
    let s := (s.modBatches fun l => l.filter fun x => !(x == b)).countN (arrayCounter b.arr 3) b.count
    s.each (List.range b.count) fun s j => s.modBag b.work (b.first + j) fun g =>
      { g with outs := some ((List.range p.tileCount).flatMap fun t =>
          ((g.rot.find? fun r => r.1 == t).map (·.2)).getD []), rot := [], inp := none }

/-- ROTATION_STEP: waiting batches enter, each array of the set computes with its tile, and the tiles move on together
(R168). Class 0 goes first in an array (R21). -/
def execRotationStep (set : RingId) (s : State) : Out :=
  match s.cfg.projSet set.val with
  | some p =>
    if !s.targetOn || (s.retiredIn p).isSome || !s.issuing ||
        (List.range p.n).any (fun i => s.class0Pass (p.first + i)) then .next s
    else
      let s := s.dealBatches p
      let turn := s.arr.turns.get 0 p.set
      let bs := s.arr.batches.filter fun b => (s.work b.work).any fun k => k.desc.score.set == p.set && k.desc.isScore 2
      if bs = [] then .next s
      else
        let s := s.each bs fun s b => s.batchStep p turn b
        .next { s with arr := { s.arr with turns := s.arr.turns.set 0 p.set ((turn + 1) % max 1 p.steps) } }
  | none => .next s

/-! ### Stalls -/

/-- A side waits on a pair: a Porter in WAIT_SEM, a linked operation with a bag that has no SPACE, or a side of a built-in
link (R174). -/
def State.pairWaited (s : State) (p : Nat) : Bool :=
  ((List.range 12).any fun m => (s.porter m).st == .waitSem && (s.porter m).pair == p) ||
    (s.works.any fun e => e.2.waitsSpace && e.2.link == some p && (s.sem p).space == 0) ||
    (s.cfg.sems.get default p).builtIn.any fun l => s.linkWaits l fun _ => true

/-- SEMAPHORE_STALL (R174): detection is off while LIMIT = 0, and an unassigned pair is never watched (R172). -/
def execSemaphoreStall (pair : PairId) (s : State) : Out :=
  let p := pair.val
  let a := p / 128
  if !s.targetOn || s.depth p = 0 || s.regFld (Reg.saLimit a) 15 0 = 0 || !s.pairWaited p || (s.sem p).stalled then .next s
  else
    let s := (s.setSem p { s.sem p with stalled := true }).count (arrayCounter a 7)
    let s := if (s.array a).stallPair.isNone then s.setArray a { s.array a with stallPair := some p } else s
    .next ((s.notice (Reg.saNotice a) 1 3).tallyNotice (80 + a))

/-! ### Result packets -/

/-- What a bag's packet holds. -/
structure Packet where
  data : Bytes
  pooled : Nat
  empty : Bool
  cut : Bool
  clip : Bool
  nonfinite : Bool
  stats : Option (FFmt × List Nat × List Bool)

/-- The side record of a packet (R93). -/
def Packet.side (p : Packet) : Bytes :=
  leBytes 8 (put p.pooled 24 0 + bitAt p.empty 24 + bitAt p.cut 25 + bitAt p.clip 26 + bitAt p.nonfinite 27)

/-- LO and HI of every channel of an integer result (R145), read from the statistics record; none while one has
not arrived. -/
def State.channelRange (s : State) (w : Nat) (d : TaskDesc) (n : Nat) : Found × List (Nat × Nat) × State :=
  (List.range n).foldl (fun (acc : Found × List (Nat × Nat) × State) c =>
    match acc with
    | (.bytes _, l, s) =>
      match s.workRead w (d.stats + 64 + 32 * c) 8 with
      | (.bytes b, s) => (.bytes [], l ++ [(leAt b 0 4, leAt b 4 4)], s)
      | (f, s) => (f, l, s)
    | x => x) (.bytes [], [], s)

/-- A channel range that is malformed (R142). -/
def badRange (r : Nat × Nat) : Bool :=
  !FFmt.fp32.isFin r.1 || !FFmt.fp32.isFin r.2 || (FFmt.fp32.decode r.2).lt (FFmt.fp32.decode r.1)

/-- What the assembly of a packet finds. -/
inductive Assembled where
  | packet (p : Packet) (ps : List ChParam)
  | wait
  | denied
  | bad

/-- The scales of a task's channels: those of INT8 and INT4 come from the statistics record (R140, R141). -/
def State.scales (s : State) (w : Nat) (d : TaskDesc) (n : Nat) : Found × List (Nat × Nat) × State :=
  if d.outInt then s.channelRange w d n else (.bytes [], [], s)

/-- A packet from a pooled vector (R90, R138 to R143). -/
def State.requantPacket (s : State) (w : Nat) (d : TaskDesc) (pf : FFmt) (v : List Nat) (pooled : Nat)
    (empty cut : Bool) : Assembled × State :=
  match s.scales w d v.length with
  | (.bytes _, rs, s) =>
    if rs.any badRange then (.bad, s)
    else
      let ps := rs.map fun r => chParam (d.out.elem pf) r.1 r.2
      let q := requantVec d.out pf ps v
      (.packet { data := resultBytes d.out pf (q.map (·.1)), pooled := pooled, empty := empty, cut := cut
                 clip := q.any (·.2), nonfinite := nonFinite pf v, stats := some (pf, v, q.map (·.2)) } ps, s)
  | (.wait, _, s) => (.wait, s)
  | (.denied, _, s) => (.denied, s)

/-- Every surviving position of a bag has its rows. -/
def Bag.pooledReady (b : Bag) (shape : IdxShape) (survivors : List Nat) : Bool :=
  survivors.all fun p => (arrivedRow b.arrivals p 0).isSome && (shape == .one || (arrivedRow b.arrivals p 1).isSome)

/-- The packet of a gathered bag. -/
def State.gatherPacket (s : State) (w : Nat) (g : BagRef) (b : Bag) : Assembled × State :=
  let c := g.sh.desc.poolSpec g.td
  let surv := (b.taken.filter fun t => t.res.survives).map Taken.pos
  let need := if c.mode = .concat then surv.take c.concatN else surv
  if b.taken.length < g.r.len || !b.pooledReady c.shape need then (.wait, s)
  else s.requantPacket w g.sh.desc c.pf (poolBag c surv b.arrivals) (if c.mode = .concat then need.length else surv.length)
    (surv == []) g.r.cut

/-- The packet of a scored bag (R162). -/
def scorePacket (g : BagRef) (b : Bag) : Assembled :=
  let n := b.taken.countP fun t => t.res.survives
  if b.taken.length < g.r.len || b.cands.length < n || b.cands.any (fun c => c.score.isNone) then .wait
  else
    let cs := b.cands.map fun c => (c.row, c.score.getD 0)
    let k := g.k.desc.score.k
    .packet { data := topKBytes k cs, pooled := min k (ranked cs).length, empty := n == 0, cut := g.r.cut, clip := false
              nonfinite := cs.any fun c => !FFmt.fp32.isFin c.2, stats := none } []

/-- The packet of a sample of an INTERACT or PROJECT task (R169). -/
def State.samplePacket (s : State) (w : Nat) (k : Work) (b : Bag) : Assembled × State :=
  match b.outs with
  | some v => s.requantPacket w k.desc FFmt.fp32 v (if k.desc.score.mode = 1 then k.desc.score.f else 1) false false
  | none => (.wait, s)

/-- Does the W right cover a destination (R96)? -/
inductive Dest where
  | ok | wait | lacks
  deriving DecidableEq, Repr

/-- The W right on the whole of a range for a domain: pages of a translated space that are not known are walked
first. -/
def State.pagesOk (s : State) (own : Owner) (dom cls a n : Nat) : Dest × State :=
  if spaceOf a = 0 ∨ spaceOf a = 1 then (if s.allows dom a n 2 then .ok else .lacks, s)
  else if spaceOf a = 2 ∨ spaceOf a = 3 then
    (ranges (2 ^ 28) a n).foldl (fun (acc : Dest × State) r =>
      match acc with
      | (.lacks, s) => (.lacks, s)
      | (d, s) =>
        match s.tcFind (s.cfg.domain dom).pasid (spaceOf a) (r.1 % 2 ^ 48) with
        | some (_, e) => if e.w then (d, s) else (.lacks, s)
        | none =>
          let waits (x : Access) : Bool := x.own == own && x.len == 0 && x.addr == r.1
          if (s.mov.faults.any fun f => f.2.any fun t => t.waiters.any waits) || s.mov.port.any waits then (.wait, s)
          else (.wait, s.miss ⟨own, dom, cls, true, r.1, 0, [], false, none⟩)) (.ok, s)
  else (.lacks, s)

/-- The W right of a class 0 request on the whole of its destination (R96). -/
def State.destOk (s : State) (w : Nat) (k : Work) (a n : Nat) : Dest × State :=
  s.pagesOk (.result w) k.domain k.cls a n

/-- The initiator channel of a piece of work's results (R276). -/
def State.workChan (s : State) (w : Nat) : Nat :=
  match (s.work w).map Work.src with
  | some (.ring r _) => r % 4
  | some (.class0 p _) => p % 4
  | some (.porter v _ _ _) =>
    match (s.work v).map Work.src with
    | some (.ring r _) => r % 4
    | _ => 0
  | none => 0

/-- The drops of a bag's positions, counted when they become final (R61, R62). -/
def State.finalDrops (s : State) (table : Nat) (ts : List Taken) : State :=
  (s.drop table 0 (ts.countP fun t => t.res == .invalid)).drop table 1 (ts.countP fun t => t.res == .missing)

/-- The units that serve a bag's packet: the tiles of its positions, and the arrays of its candidates or outputs
(R408). -/
def State.unitsOf (s : State) (k : Work) (b : Nat) (bag : Bag) : List Nat :=
  let d := k.desc
  let scored (m : Nat) : Bool := d.kind == some .score && d.score.mode == m
  let outs := if scored 1 then [s.passArray (b / d.score.perPass)]
    else if scored 2 then ((s.cfg.projSet d.score.set).map fun p => p.first + b / 64 % p.n).toList
    else []
  bag.taken.filterMap (fun t => s.tileOf t.engine) ++ (bag.cands.map (·.arr) ++ outs).map (80 + ·)

/-- What the commit of a packet changes in its work: counts, statistics, the class 0 answer, and the bag (R62, R93,
R100, R104, R146). -/
def Work.commit (k : Work) (b : Nat) (p : Packet) : Work :=
  let bag := k.bags.get default b
  let t := k.tally
  let dropped := bag.taken.countP fun t => !t.res.survives
  { k with
    tally := { t with
      bags := satAdd 0xFFFFFFFF t.bags 1, dropped := satAdd 0xFFFFFFFF t.dropped dropped
      empty := if p.empty then satAdd 0xFFFFFFFF t.empty 1 else t.empty, cut := t.cut || p.cut }
    stats := match k.stats, p.stats with
      | some st, some (pf, v, clips) => some (st.addBag pf v clips)
      | st, _ => st
    answer := if k.doorbell.isSome then
        some (bitAt p.empty 0 + bitAt p.clip 1 + bitAt p.nonfinite 2, p.pooled) else none
    bags := k.bags.set default b { (default : Bag) with committed := true, space := bag.space } }

/-- A slot of a link is filled; FILL + SPACE never exceeds DEPTH (R172). -/
def State.fillLink (s : State) (q : Nat) : State :=
  let v := s.sem q
  if v.fill + v.space < s.depth q then s.setSem q { v with fill := v.fill + 1, stalled := false } else s

/-- The writes of a committed packet: its result and its side record (R93, R100). -/
def State.issuePacket (s : State) (w : Nat) (k : Work) (d : TaskDesc) (slot : Nat) (p : Packet) : State :=
  let ch := some (s.workChan w)
  let (s, ok) := s.writeOut (.result w) k.cls k.domain (d.result + slot * d.rstride) p.data k.desc.fence ch
  if ok && d.sideEn then (s.writeOut (.result w) k.cls k.domain (d.side + 8 * slot) p.side k.desc.fence ch).1 else s

/-- Where the result of a logical bag goes: a linked operation writes the slots of its pair in turn. -/
def State.packetSlot (s : State) (k : Work) (lb : Nat) : Nat :=
  match k.link with
  | some q => lb % max 1 (s.depth q)
  | none => lb

/-- The stack without its contents that a packet would be written to (R421). -/
def State.packetStack (s : State) (k : Work) (d : TaskDesc) (lb : Nat) (p : Packet) : Option Nat :=
  let slot := s.packetSlot k lb
  match s.lostStack (d.result + slot * d.rstride) p.data.length with
  | some st => some st
  | none => if d.sideEn then s.lostStack (d.side + 8 * slot) 8 else none

/-- A packet commits, and its writes are issued (R62, R93, R100, R146). -/
def State.commitPacket (s : State) (w b : Nat) (d : TaskDesc) (lb : Nat) (p : Packet) : State :=
  match s.work w with
  | none => s
  | some k =>
    let bag := k.bags.get default b
    let slot := s.packetSlot k lb
    let s := (s.finalDrops k.desc.table bag.taken).served (s.unitsOf k b bag) w
    let s := s.modWork w fun k => k.commit b p
    let s := s.each (List.range 8) fun s a =>
      let x := s.array a
      s.setArray a { x with selUsed := x.selUsed.filter fun u => !(u.1 == w && u.2.1 == b) }
    let s := match k.link with
      | some q => s.fillLink q
      | none => s
    let s := match bag.taken.head? with
      | some t =>
        let s := s.countTile t.engine 5 1
        match s.tileOf t.engine with
        | some n => s.tally n 2 b k.cls
        | none => s
      | none => s
    (s.syncLinks).issuePacket w k d slot p

/-- The packet of a bag or sample, as far as its work has come. -/
def State.assemble (s : State) (w b : Nat) : Option (Assembled × TaskDesc × Nat × State) :=
  match s.running w with
  | none => none
  | some k =>
    if (k.bags.get default b).committed then none
    else if k.desc.kind == some .score && (k.desc.score.mode == 1 || k.desc.score.mode == 2) then
      if k.desc.bagCount ≤ b || !s.issuing then none
      else let (p, s) := s.samplePacket w k (k.bags.get default b); some (p, k.desc, b, s)
    else if k.desc.kind == some .scatter then none
    else match s.bagRef w b with
    | none => some (.bad, k.desc, b, s)
    | some (none, _) => none
    | some (some g, s) =>
      let bag := g.k.bags.get default b
      if g.scores then some (scorePacket g bag, g.sh.desc, g.lb, s)
      else let (p, s) := s.gatherPacket w g bag; some (p, g.sh.desc, g.lb, s)

/-- The bytes of a class 0 result before its trailer. -/
def State.class0Size (s : State) (k : Work) : Nat :=
  match k.doorbell with
  | some d => ((s.cfg.table d.table).map d.resultBytes).getD 0
  | none => 0

/-- A packet with an uncorrectable error is rewound, and its bag replays (R101). -/
def State.rewindPacket (s : State) (w b : Nat) : State :=
  ((s.rewindBag w b 1).count 0x006).count 0x009

/-- A class 0 packet of a position's result queue is ready to commit: it goes first (R21, R384). -/
def State.class0Packet (s : State) (pos : Option Nat) : Bool :=
  s.works.any fun e => e.2.cls == 0 && e.2.bags.any fun b => b.2.queuePos == pos && match s.assemble e.1 b.1 with
    | some (.packet _ _, d, _, s) => match (s.work e.1).map fun k => (s.destOk e.1 k d.result (roundUp (s.class0Size k) 16 + 16)).1 with
      | some .ok => true
      | _ => false
    | _ => false

end Sys2Proof.Machine
end

