-- ==== Sys2Proof/Machine/Finish.lean ====
section
/-! DEFINITION. The end of work: the statistics record (R144 to R147), the class 0 trailer (R96) and the
completion record (R102 to R105, R209, R278, R287, R288). -/

namespace Sys2Proof.Machine

open Sys2Proof

/-! ### Statistics -/

/-- Every bag of a gather or SCORE task has committed, and every share has been released. -/
def Work.bagsDone (k : Work) : Bool :=
  (k.shares.all fun sh => sh.placed && sh.released) &&
    (k.bags.countP fun b => b.2.committed) == (k.shares.map Share.count).foldl (· + ·) 0

/-- The channel entries of a statistics record, without LO and HI (R145). -/
def Stats.tails (st : Stats) (isInt : Bool) (ps : List ChParam) : List (Nat × Bytes) :=
  st.chans.zipIdx.map fun e => (64 + 32 * e.2 + 8, e.1.tail (ps.getD e.2 default) isInt)

/-- STATISTICS_WRITE: once for a task, after its last result packet has been issued (R147). -/
def execStatisticsWrite (w : WorkId) (s : State) : Out :=
  match s.running w with
  | some k =>
    match k.stats with
    | some st =>
      if k.statsDone || !k.bagsDone || k.unissued != 0 then .next s
      else
        let d := k.desc
        let n := st.chans.length
        match s.scales w d n with
        | (.wait, _, s) => .next s
        | (.denied, _, s) => .next (s.endWork w 1)
        | (.bytes _, rs, s) =>
          if rs.any badRange then .next (s.openWork w)
          else
            let pf := match s.cfg.table d.table with
              | some td => if d.kind = some .gather then (d.poolSpec td).pf else FFmt.fp32
              | none => FFmt.fp32
            let ps := rs.map fun r => chParam (d.out.elem pf) r.1 r.2
            let s := s.modWork w fun k => { k with statsDone := true }
            let out (s : State) (e : Nat × Bytes) : State :=
              (s.writeOut (.result w) k.cls k.domain (d.stats + e.1) e.2 d.fence (some (s.workChan w))).1
            .next (s.each ((0, st.header d.out d.outInt n ps) :: st.tails d.outInt ps) out)
    | none => .next s
  | none => .next s

/-! ### The end of a work -/

/-- What the block keeps for a work goes with it: its reuse buffer entries (R99), the DISCARD_LAST copies that
it allocated (R217), its fetch slots and its scatter slot. -/
def State.leave (s : State) (w : Nat) : State :=
  let s := s.killSlots fun f => f.work == w
  let s := s.each (List.range 48) fun s p =>
    let s := s.modEngine p fun e => { e with reuse := e.reuse.filter fun r => r.work != w }
    s.cacheDrop p fun x => x.last && x.owner == w
  match s.scatterSlot w with
  | some i => s.setScatter i none
  | none => s

/-- A work and what the block keeps for it are gone. -/
def State.forget (s : State) (w : Nat) : State := (s.leave w).dropWork w

/-- A work leaves, with the operations that its Porters launched. -/
def State.forgetAll (s : State) (w : Nat) : State := (s.each (s.kids w) State.forget).forget w

/-! ### Replay of a PORTER task (R352) -/

/-- A PORTER task aborted for a hardware cause runs again from its entry on every Porter that it names: what its
Porters launched is gone, its channels stop, and its links are empty (R173, R352). -/
def State.replayPorterTask (s : State) (w cause : Nat) : State :=
  match s.work w with
  | some k =>
    if k.ended then s
    else
      let pairs := s.heldPairs w
      let s := s.dropLists fun u => u.2.1 == w
      let s := s.each (List.range 12) fun s m =>
        let s := if (s.porter m).cur.any fun e => e.work == w then s.stopPorter m else s
        s.modPorter m fun p => { p with mail := p.mail.filter fun e => e.work != w }
      let s := s.each (s.kids w) fun s j => (s.endOne j 2).forget j
      let s := s.each pairs State.resetPair
      let mask := k.desc.porterMask
      ((s.setWork w { k with porters := mask, mailbox := mask }).count
        0x006).count (0x008 + cause)
  | none => s

/-! ### Class 0 trailer -/

/-- The trailer of a class 0 request (R96). -/
def trailerBytes (tag status flags pooled epoch : Nat) : Bytes :=
  fit 16 (leBytes 2 tag ++ leBytes 1 status ++ leBytes 1 flags ++ leBytes 4 (put pooled 24 0) ++ leBytes 2 epoch)

/-- The data of a class 0 result has been issued, or acknowledged where a rule asks for it (R287, R288). -/
def Work.dataOut (k : Work) : Bool := k.unissued == 0 && k.storeUnacked == 0 && (!k.desc.fence || k.hostUnacked == 0)

/-- A trailer issued at its position after the result; the request is done. -/
def State.writeTrailer (s : State) (w : Nat) (k : Work) (d : Doorbell) : State :=
  let a := d.result + roundUp (s.class0Size k) 16
  let (flags, pooled) := if k.status = 0 then k.answer.getD (0, 0) else (0, 0)
  let b := trailerBytes d.tag k.status flags pooled s.host.epoch
  let s := (s.writeOut (.result w) 0 k.domain a b k.desc.fence (some (s.workChan w))).1
  ((s.unitsEnd k).tally 113 1 d.tag k.status).forget w

/-- CLASS0_TRAILER_WRITE: after the data of the result; alone when a read lacked its right. A request whose
destination lacks the W right has none, and 0x00D counts it; one that the host epoch discarded has none (R96,
R292). -/
def execClass0TrailerWrite (w : WorkId) (s : State) : Out :=
  match s.work w with
  | some k =>
    match k.doorbell with
    | some d =>
      if !s.targetOn || k.isParked then .next s
      else if k.dead then .next ((if k.status = 1 then s.count 0x00D else s).forget w)
      else if !k.ended then
        if k.answer.isSome && k.dataOut then .next (s.writeTrailer w k d) else .next s
      else match s.destOk w k d.result (roundUp (s.class0Size k) 16 + 16) with
        | (.ok, s) => .next (s.writeTrailer w k d)
        | (.wait, s) => .next s
        | (.lacks, s) => .next ((s.count 0x00D).forget w)
    | none => .next s
  | none => .next s

/-! ### The completion record -/

/-- Every position of every bag of a scatter was issued, and every epoch is acknowledged (R105, R194). -/
def State.scatterDone (s : State) (w : Nat) (k : Work) : Bool :=
  let issued := k.shares.zipIdx.all fun e =>
    let sh := e.1
    sh.placed && sh.released && (List.range sh.count).all fun lb =>
      match sh.range lb with
      | some r => (k.bags.get default (sh.first + lb)).taken.length == r.len
      | none => false
  match (s.scatterSlot w).bind s.scatter with
  | some sc => issued && (sc.issued.all fun p => p < sc.start sc.cuts.length) &&
      (List.range sc.cuts.length).all sc.done
  | none => false

/-- A mover list of a task is queued or runs, or a burst of one has not been written yet. -/
def State.listsBusy (s : State) (w : Nat) : Bool :=
  let mine (u : Option (Nat × Nat × Nat)) : Bool := u.any fun u => u.2.1 == w
  s.mov.chans.any fun e => (mine e.2.user && e.2.st != .idle) || (e.2.heads.any fun h => mine h.user) || (e.2.gone.any fun u => u.2.1 == w) ||
    e.2.reads.any fun r => r.work == some w

/-- Writes of a work, and of its operations, its Porters and its mover lists, that its record waits for (R287, R288,
R350, R376). -/
def State.quiet (s : State) (w : Nat) (k : Work) : Bool :=
  let all := k :: (s.kids w).filterMap s.work
  (all.all fun v => v.unissued == 0 && v.storeUnacked == 0 && (!k.desc.fence || v.hostUnacked == 0)) &&
    !s.listsBusy w &&
    ((s.scatterSlot w).all fun i => !s.crateBusy i) && (s.portersOf w).isEmpty

/-- A task that ended with OK has nothing left to do. -/
def State.finished (s : State) (w : Nat) (k : Work) : Bool :=
  let stats := k.stats.isNone || k.statsDone
  match k.desc.kind with
  | some .gather => k.bagsDone && stats
  | some .scatter => s.scatterDone w k
  | some .score => if k.desc.score.mode = 3 then k.query.isSome else k.bagsDone && stats
  | some .fence => !k.desc.fence || (k.flushed && k.flushes == 0)
  | some .porter => k.porters == 0 && k.mailbox == 0 && (s.kids w).all fun j => (s.work j).all Work.ended
  | none => false

/-- Every position of a bag lies in an epoch that every agent has acknowledged (R209). -/
def bagAcked (sc : Scatter) (k : Work) (sh : Share) (lb : Nat) : Bool :=
  match sh.range lb with
  | some r =>
    let b := k.bags.get default (sh.first + lb)
    b.taken.length == r.len && b.taken.all fun t => sc.done (sc.epochOf t.pos)
  | none => false

/-- BAGS, DROPPED and EMPTY_BAGS of a scatter (R209). -/
def scatterTally (sc : Scatter) (k : Work) : Tally :=
  let bags := k.shares.flatMap fun sh => (List.range sh.count).map fun lb => (sh, lb)
  let good := bags.takeWhile fun e => bagAcked sc k e.1 e.2
  let bagOf (e : Share × Nat) : Bag := k.bags.get default (e.1.first + e.2)
  { k.tally with
    bags := min 0xFFFFFFFF good.length
    dropped := min 0xFFFFFFFF ((k.bags.map fun b => b.2.taken.countP fun t =>
      !t.res.survives && sc.done (sc.epochOf t.pos)).foldl (· + ·) 0)
    empty := min 0xFFFFFFFF (good.countP fun e => (bagOf e).taken.all fun t => !t.res.survives)
    cut := good.any fun e => (e.1.range e.2).any Range.cut }

/-- The counts of two pieces of work together (R350). -/
def Tally.add (a b : Tally) : Tally :=
  let sat (x y : Nat) : Nat := min 0xFFFFFFFF (x + y)
  ⟨sat a.bags b.bags, sat a.dropped b.dropped, sat a.empty b.empty, sat a.indices b.indices, a.cut || b.cut⟩

/-- The counts of a task's record: those of a PORTER task are the sums over the operations that it launched
(R102, R209, R350). -/
def State.counts (s : State) (w : Nat) (k : Work) : Tally :=
  match (s.scatterSlot w).bind s.scatter with
  | some sc => scatterTally sc k
  | none => (s.kids w).foldl (fun t j => t.add (((s.work j).map Work.tally).getD ⟨0, 0, 0, 0, false⟩)) k.tally

/-- The 32 bytes of a completion record (R102). -/
def recordBytes (tag : Nat) (t : Tally) (status ring slot epoch : Nat) (fenced phase : Bool) : Bytes :=
  fit 32 (leBytes 8 tag ++ leBytes 4 t.bags ++ leBytes 1 status ++ leBytes 1 ring ++ leBytes 2 slot ++
    leBytes 4 t.dropped ++ leBytes 4 t.empty ++ leBytes 4 t.indices ++ leBytes 2 epoch ++
    leBytes 1 (bitAt fenced 0 + bitAt t.cut 1 + bitAt phase 7))

/-- The record of a task written to completion slot CPL, with CPL and RG_NOTICE (R278). A record that lacks its right
has no effect in memory (R242), and CPL and the notice follow all the same (DEDUCED, log entry 43). -/
def State.writeRecord (s : State) (w : Nat) (k : Work) (r slot : Nat) (lost : Bool) : State :=
  let g := s.ring r
  let size := s.ringSize r
  let phase := (g.cpl / size + 1) % 2 == 1
  let b := recordBytes k.desc.tag (s.counts w k) k.status r slot s.host.epoch k.desc.fence phase
  let s := if lost then s
    else (s.writeOut (.record w) k.cls (s.cfg.ringDomain r) (s.cqAddr r + 32 * (g.cpl % size)) b k.desc.fence
      (some (r % 4))).1
  let s := s.setRing r { s.ring r with cpl := (g.cpl + 1) % 2 ^ 32 }
  ((((s.unitsEnd k).raise Reg.rgNotice (2 ^ r)).tallyNotice 112).tally 112 1 r slot).forgetAll w

/-- COMPLETION_RECORD_WRITE: a task that is done, or that has ended early, whose writes are issued and
acknowledged as its rules ask, while its completion ring has space (R105, R278, R287, R288). A record whose page is
not known waits for its walk (R264). A task of a ring
that the host epoch stopped ends without a record (R293). -/
def execCompletionRecordWrite (w : WorkId) (s : State) : Out :=
  let s := s.tryQload w
  match s.work w with
  | some k =>
    match k.src with
    | .ring r slot =>
      if !s.targetOn || k.isParked || !s.quiet w k || !(k.ended || s.finished w k) then .next s
      else if k.dead then .next (s.forgetAll w)
      else if posDiff (s.ring r).cpl (s.ring r).cons < s.ringSize r then
        let a := s.cqAddr r + 32 * ((s.ring r).cpl % s.ringSize r)
        if k.recordLost then .next (s.writeRecord w k r slot true)
        else match s.pagesOk (.record w) (s.cfg.ringDomain r) k.cls a 32 with
          | (.ok, s) => .next (s.writeRecord w k r slot false)
          | (.wait, s) => .next s
          | (.lacks, s) => .next (s.writeRecord w k r slot true)
      else .next s
    | _ => .next s
  | none => .next s

end Sys2Proof.Machine
end

