-- ==== Sys2Proof/Machine/Inbox.lean ====
section
/-! DEFINITION. Messages delivered by a link and not yet handled: the receiver takes them in order within a
virtual channel, and owes their credits (R331, R332). -/

namespace Sys2Proof.Machine

open Sys2Proof

/-- The size of a message in 16-byte units (R331). -/
def Msg.units (m : Msg) : Nat := 1 + ceilDiv m.body.length 16

/-- The next message of a virtual channel, when it has a type. -/
def State.peek (s : State) (n : Nat) (d : Dir) (vc mtype : Nat) : Option Msg :=
  match (s.dir n d).inbox.find? fun m => m.vc == vc with
  | some m => if m.mtype = mtype then some m else none
  | none => none

/-- The first element that passes a test, removed. -/
def eraseFirst {α : Type} (p : α → Bool) : List α → List α
  | [] => []
  | x :: xs => if p x then xs else x :: eraseFirst p xs

/-- The next message of a virtual channel taken; its credits are owed to the sender. -/
def State.pop (s : State) (n : Nat) (d : Dir) (m : Msg) : State :=
  s.modDir n d fun q => { q with
    inbox := eraseFirst (fun x => x.vc == m.vc) q.inbox
    owed := q.owed.modify m.vc (· + m.units) }

/-- The agent's side handles messages: its die runs, its stack is in service (R345), and
its link is not DOWN (R418). -/
def State.agentOn (s : State) (n : Nat) : Bool :=
  (s.agent n).up && (s.agent n).repairDone && (s.link n).st != .down && !s.pwr.supply.contains (.agent (Fin.ofNat 16 n))

/-- The Farnum side handles messages. -/
def State.dieOn (s : State) (n : Nat) : Bool := s.targetOn && (s.link n).st != .down

/-- A message toward an agent, taken and handled. -/
def State.atAgent (s : State) (n vc mtype : Nat) (f : Msg → State → State) : Out :=
  if !s.agentOn n then .next s
  else match s.peek n .out vc mtype with
  | some m => .next (f m (s.pop n .out m))
  | none => .next s

/-- A message toward the Farnum die, taken and handled. -/
def State.atDie (s : State) (n vc mtype : Nat) (f : Msg → State → State) : Out :=
  if !s.dieOn n then .next s
  else match s.peek n .inb vc mtype with
  | some m => .next (f m (s.pop n .inb m))
  | none => .next s

/-- A message of an agent on virtual channel 2 (R333). -/
def State.agentSends (s : State) (n mtype addr : Nat) (body : Bytes := []) (tag : Nat := 0) : State :=
  s.queueMsg n .inb (mkMsg mtype 2 2 0 body.length tag addr body)

/-- The slot and the epoch that a message's ADDR names (log entry 12). -/
def Msg.slotOf (m : Msg) : Nat := fld m.addr 32 32
def Msg.epochOf (m : Msg) : Nat := fld m.addr 31 0

end Sys2Proof.Machine
end

