-- ==== Sys2Proof/Machine/Crates.lean ====
section
/-! DEFINITION. The agents' journal and its commit protocol (R190 to R204): GRAD, COMMIT, ABORT, GO, EVICT,
REFRESH_ACK and CRATE_APPLY_DONE. -/

namespace Sys2Proof.Machine

open Sys2Proof

/-! ### Rows by address -/

/-- The row of a table that starts at an address, by the inverse of R65. -/
def TableDesc.rowAt (td : TableDesc) (a : Nat) : Option Nat :=
  let r :=
    if td.placeMode = 0 then (if td.base ≤ a ∧ td.stride ≠ 0 then some ((a - td.base) / td.stride) else none)
    else
      let ss := setBits 24 td.stackMask
      match ss.findIdx? fun st => st == stackOf a with
      | some j =>
        if td.base ≤ stackOff a ∧ td.stride ≠ 0 then
          let l := (stackOff a - td.base) / td.stride
          let n := 2 ^ td.splitLog2
          some ((l / n * ss.length + j) * n + l % n)
        else none
      | none => none
  r.bind fun r => if r < td.rowCount ∧ td.place r = a then some r else none

/-- The table that has a row at an address; composed tables have no rows of their own (R58). -/
def Cfg.tableAt (c : Cfg) (a : Nat) : Option TableDesc :=
  (c.tables.filterMap (·.2)).find? fun td => td.hashMode != 2 && (td.rowAt a).isSome

/-! ### Crate areas -/

/-- The area that holds the Crate of a slot and epoch. -/
def Agent.areaOf (a : Agent) (slot epoch : Nat) : Option (Nat × Crate) :=
  (a.crates.zipIdx.find? fun c => c.1.st != .free && c.1.slot == slot && c.1.epoch == epoch).map fun c => (c.2, c.1)

/-- An area of an agent changed. -/
def State.setCrate (s : State) (n i : Nat) (c : Crate) : State :=
  s.modAgent n fun a => { a with crates := a.crates.set i c }

/-- A Tally item of an agent that names a slot and an epoch (R445). -/
def State.tallyCrate (s : State) (n event : Nat) (c : Crate) : State := s.tally (96 + n) event c.slot c.epoch

/-- The pairs of a gradient record (R188). -/
def recordPairs (b : Bytes) : List Pair :=
  let e := fld (leAt b 14 2) 12 0 + 1
  let lo := bitOf (leAt b 12 1) 1
  (List.range e).map fun j => ⟨leAt b (16 + 4 * j) 4, if lo then leAt b (16 + 4 * e + 4 * j) 4 else 0⟩

/-- A record merged into an entry: its hi and then its lo (R192). -/
def Entry.merge (e : Entry) (ps : List Pair) : Entry :=
  { e with
    merged := satAdd 0xFFFFFFFF e.merged 1
    pairs := (e.pairs.zip ps).map fun p => pairAdd FFmt.fp32 (pairAdd FFmt.fp32 p.1 p.2.hi) p.2.lo }

/-- A Crate with one record more, when the area has room (R191, R193). -/
def Crate.addRecord (c : Crate) (a : Nat) (ps : List Pair) : Option Crate :=
  let c := { c with got := c.got + 1 }
  if c.entries.any fun e => e.addr == a then
    some { c with entries := c.entries.map fun e => if e.addr = a then e.merge ps else e }
  else
    let e : Entry := ⟨a, 1, ps⟩
    if 65536 < c.lines + e.lines ∨ 8192 ≤ c.entries.length then none
    else some { c with entries := c.entries ++ [e] }

/-- A Crate at its high-water mark (R193). -/
def Crate.high (c : Crate) : Bool := 32768 ≤ c.lines || 4096 ≤ c.entries.length

/-- A Crate whose COMMIT's count has merged is sealed (R195, R197). -/
def State.trySeal (s : State) (n i : Nat) (c : Crate) : State :=
  if c.st = .sealing ∧ c.want = some c.got then
    (s.setCrate n i { c with st := .sealed }).agentSends n 0x1A (slotEpoch c.slot c.epoch)
  else s.setCrate n i c

/-- A record that reaches the Crate of its slot and epoch (R192, R193, R196, R197). -/
def State.record (s : State) (n i : Nat) (c : Crate) (a : Nat) (ps : List Pair) : State :=
  if c.st = .open_ ∨ c.st = .sealing then
    match c.addRecord a ps with
    | none => ((s.setCrate n i { c with st := .overflowed }).agentSends n 0x16 (slotEpoch c.slot c.epoch)).tallyCrate n 2 c
    | some c' =>
      let s := s.count (agentCounter n 3)
      if c'.st = .open_ && c'.high && !c'.hwm then
        ((s.setCrate n i { c' with hwm := true }).agentSends n 0x15 (slotEpoch c.slot c.epoch)).tallyCrate n 1 c
      else s.trySeal n i c'
  else s

/-- GRAD: the record of a new slot and epoch opens a free area. -/
def execGrad (n : AgentId) (s : State) : Out :=
  let n := n.val
  s.atAgent n 2 0x05 fun m s =>
    let b := m.body
    let slot := fld (leAt b 12 1) 0 0
    let epoch := leAt b 8 4
    let a := fld (leAt b 0 8) 51 0
    match (s.agent n).areaOf slot epoch with
    | some (i, c) => s.record n i c a (recordPairs b)
    | none =>
      match (s.agent n).crates.findIdx? fun c => c.st == .free with
      | some i =>
        let c := { Crate.empty with st := .open_, slot := slot, epoch := epoch }
        ((s.setCrate n i c).tallyCrate n 0 c).record n i c a (recordPairs b)
      | none => s

/-- The body of a COMMIT (R195, R333): slot, epoch, count, OP, ALPHA and EPS, four bytes each (log entry 12). -/
def commitBody (slot epoch count : Nat) (u : UpdParam) : Bytes :=
  leBytes 4 slot ++ leBytes 4 epoch ++ leBytes 4 count ++ leBytes 4 u.op ++ leBytes 4 u.alpha ++ leBytes 4 u.eps

/-- COMMIT: the count and the parameters are stored, and the Crate waits for its records (R195, R198). -/
def execCommit (n : AgentId) (s : State) : Out :=
  let n := n.val
  s.atAgent n 2 0x06 fun m s =>
    let b := m.body
    match (s.agent n).areaOf (leAt b 0 4) (leAt b 4 4) with
    | some (i, c) =>
      if c.st ≠ .open_ then s
      else
        let c := { c with
          st := .sealing, want := some (leAt b 8 4), op := leAt b 12 4, alpha := leAt b 16 4, eps := leAt b 20 4
          order := (s.agent n).orders }
        (s.modAgent n fun a => { a with orders := a.orders + 1 }).trySeal n i c
    | none => s

/-- ABORT: discards a Crate that has not begun LOGGING (R197). -/
def execAbort (n : AgentId) (s : State) : Out :=
  let n := n.val
  s.atAgent n 2 0x07 fun m s =>
    match (s.agent n).areaOf m.slotOf m.epochOf with
    | some (i, c) => if c.committing then s else (s.setCrate n i Crate.empty).tallyCrate n 5 c
    | none => s

/-- GO: a SEALED Crate waits for the commit engine (R197). -/
def execGo (n : AgentId) (s : State) : Out :=
  let n := n.val
  s.atAgent n 2 0x0A fun m s =>
    match (s.agent n).areaOf m.slotOf m.epochOf with
    | some (i, c) => if c.st = .sealed then s.setCrate n i { c with go := true } else s
    | none => s

/-! ### Management messages and migrations -/

/-- A management message on virtual channel 3 (R333): its body begins with a byte that says its kind (log entry 53). -/
def State.sendMgmt (s : State) (n : Nat) (d : Dir) (kind : Nat) (b : Bytes) : State :=
  s.queueMsg n d (mkMsg 0x20 3 0 0 (b.length + 1) 0 0 (leBytes 1 kind ++ b))

/-- A pending placement of a migration that was abandoned goes (R224). -/
def State.dropPending (s : State) (pos addr : Nat) : State :=
  s.modEngine pos fun e => { e with placed := e.placed.filter fun p => p.valid || p.addr != addr }

/-- A migration begins (R222, step 1): the blocks are taken by a pending copy, and its agent learns of the row. -/
def State.beginMig (s : State) (n : Nat) (g : Migration) : State :=
  let s := s.modEngine g.pos fun e => { e with placed := e.placed ++ [⟨g.addr, g.table, g.block, false, g.pinned⟩] }
  let s := s.modAgent n fun x => { x with mig := some g }
  s.sendMgmt n .out 17 (leBytes 4 ((s.tileOf g.pos).getD g.pos) ++ leBytes 8 g.addr)

/-- The pinned placement that has waited longest for an agent begins its migration, when the agent has none and the
throttle level starts migrations (R219, R224, R235). -/
def State.nextMig (s : State) (n : Nat) : State :=
  if (s.agent n).mig.isSome || !(s.agent n).up || (s.link n).st == .down || 2 ≤ s.levelAt (1 + n / 2) then s
  else match s.sk.repin.find? fun g => s.ownerAgent g.addr == n with
    | some g => (s.modSk fun k => { k with repin := k.repin.filter (· != g) }).beginMig n g
    | none => s

/-- A pinned placement that an error took is placed again, unless its position is away (R219). -/
def State.repin (s : State) (g : Migration) : State :=
  let e := s.engine g.pos
  if e.moving || e.lost then s
  else
    let g := { g with attempt := 0, noted := false, enabled := false, pinned := true }
    (s.modSk fun k => { k with repin := k.repin.filter (fun x => x.pos != g.pos || x.block != g.block) ++ [g] }).nextMig
      (s.ownerAgent g.addr)

/-- A migration is abandoned: its blocks are free again (R224); a pinned row waits for another one (R219). -/
def State.abandonMigration (s : State) (n : Nat) : State :=
  match (s.agent n).mig with
  | some g =>
    let s := ((s.dropPending g.pos g.addr).modAgent n fun a => { a with mig := none }).count (agentCounter n 11)
    let s := s.tally (96 + n) 8 ((s.tileOf g.pos).getD 0) 0
    if g.pinned then s.repin g else s.nextMig n
  | none => s

/-! ### New rows -/

/-- The format of a row's elements for an update (R201). -/
def TableDesc.ff (td : TableDesc) : FFmt := td.fmt.ffmt.getD FFmt.fp32

/-- rne(1 ÷ √v) of R202. -/
def invSqrt (v : FV) : Nat :=
  match v with
  | .nan => FFmt.fp32.nanCode
  | .inf false => 0
  | .inf true => FFmt.fp32.nanCode
  | .fin neg m e =>
    if m = 0 then FFmt.fp32.infCode false
    else if neg then FFmt.fp32.nanCode
    else FFmt.fp32.divSqrt false 1 0 m e

/-- One element updated: w + c × G rounded once to the row format (R201). -/
def updElem (f : FFmt) (w : FV) (c : Option Nat) (p : Pair) : Nat :=
  let g := pairValue FFmt.fp32 p
  f.encode .nearest (w.add (match c with
    | none => g
    | some c => (FFmt.fp32.decode c).mul g))

/-- The accumulator and the factor of a ROWWISE update (R202). -/
def rowwise (ps : List Pair) (a alpha eps : Nat) : Nat × Nat :=
  let f := FFmt.fp32
  let hs := ps.map fun p => f.decode p.hi
  let sq := dotProducts (hs.map fun h => h.mul h)
  let mean := f.divV (f.decode sq) (.fin false ps.length 0)
  let a2 := f.add a mean
  let r := invSqrt ((f.decode a2).add (f.decode eps))
  (a2, f.mul alpha r)

/-- The new image of a row, and whether an element is not finite; a FROZEN row keeps its image (R48, R49, R201,
R203). -/
def newImage (td : TableDesc) (c : Crate) (e : Entry) (img : Bytes) : Bytes × Bool × Bool :=
  let r := td.row img
  if td.hdr && r.hdr.frozen then (img, false, true)
  else
    let rw := rowwise e.pairs r.hdr.optAcc c.alpha c.eps
    let k := match c.op with
      | 0 => none
      | 1 => some c.alpha
      | _ => some rw.2
    let codes := (r.codes.zip e.pairs).map fun x => updElem td.ff (td.fmt.value x.1) k x.2
    let hdr := { r.hdr with version := (r.hdr.version + 1) % 2 ^ 16, optAcc := if c.op = 2 then rw.1 else r.hdr.optAcc }
    ((if td.hdr then hdr.bytes else []) ++ td.fmt.pack codes, codes.any fun x => !td.ff.isFin x, false)

/-- The images of a Crate's rows, computed in order (R201): each with whether it is not finite and whether the
row is frozen. -/
def State.crateImages (s : State) (c : Crate) : List (Nat × Bytes × Bool × Bool) :=
  c.entries.map fun e => match s.cfg.tableAt e.addr with
    | some td => (e.addr, newImage td c e (s.load e.addr td.rowBytes))
    | none => (e.addr, [], false, false)

/-- The seal (R199). -/
def sealBytes (slot epoch entries : Nat) (done : Bool) (crc : Nat) : Bytes :=
  fit 64 (leBytes 1 0x5A ++ leBytes 1 slot ++ leBytes 1 (bitAt done 0) ++ zeros 1 ++ leBytes 4 epoch ++
    leBytes 4 entries ++ leBytes 4 crc)

/-- The log of a Crate written: its row records, then its seal (R199). An agent with no log address writes
none. -/
def State.writeLog (s : State) (n : Nat) (c : Crate) (imgs : List (Nat × Bytes)) : State :=
  match (s.agent n).logBase with
  | some base =>
    let rows := imgs.flatMap fun e => logRow e.1 e.2
    (s.store (base + 128) rows).store (base + 64)
      (sealBytes c.slot c.epoch imgs.length false (crc32c rows).toNat)
  | none => s

/-- The log marked done (R199). -/
def State.markDone (s : State) (n : Nat) : State :=
  match (s.agent n).logBase with
  | some base => s.storeByte (base + 66) 1#8
  | none => s

/-- A row of a Crate has been lost: no update is applied to it (R422). -/
def State.crateLost (s : State) (n : Nat) (c : Crate) : Bool :=
  c.entries.any fun e =>
    let len := ((s.cfg.tableAt e.addr).map TableDesc.rowBytes).getD 1
    (s.agent n).lost.any fun x => e.addr ≤ x && x < e.addr + len

/-- The next Crate that its agent commits: the first SEALED one that has GO (R197, R198). -/
def Agent.nextCommit (a : Agent) : Option (Crate × Nat) :=
  (a.crates.zipIdx.filter fun c => c.1.st == .sealed && c.1.go).foldl (fun (b : Option (Crate × Nat)) c => match b with
    | none => some c
    | some d => if c.1.order < d.1.order then some c else b) none

/-- A Crate computes its new rows and writes the commit log and the seal; it is then APPLYING (R197 to R202). -/
def State.startCommit (s : State) (n i : Nat) (c : Crate) : State :=
  let imgs := s.crateImages c
  let rows := imgs.map fun e => (e.1, e.2.1)
  let s := s.countN (agentCounter n 5) (imgs.countP fun e => e.2.2.2)
  let s := if imgs.any fun e => e.2.2.1 then (s.notice Reg.scNotice 4 6).count (agentCounter n 6) else s
  let s := s.writeLog n c rows
  (s.setCrate n i { c with st := .applying, images := rows }).tallyCrate n 3 c

/-! ### In place, refreshed, acknowledged -/

/-- A Crate is done: CRATE_ACK, and its log is marked done (R197, R199). -/
def State.crateDone (s : State) (n i : Nat) (c : Crate) : State :=
  let s := (s.agentSends n 0x17 (slotEpoch c.slot c.epoch)).markDone n
  let s := (s.setCrate n i Crate.empty).modAgent n fun a => { a with
    commits := (a.commits + 1) % 2 ^ 32, acks := a.acks ++ [(c.slot, c.epoch)] }
  (s.count (agentCounter n 4)).tallyCrate n 4 c

/-- A Crate in REFRESHING sends every row image to the positions recorded for it; with none it is done (R204). -/
def State.beginRefresh (s : State) (n i : Nat) (c : Crate) : State :=
  let dir := (s.agent n).dir
  let due := c.images.flatMap fun e => (dir.filter fun d => d.1 == e.1).map fun d => (e.1, d.2, e.2)
  if due = [] then s.crateDone n i c
  else
    let s := s.setCrate n i { c with st := .refreshing, refresh := due.map fun d => (d.1, d.2.1) }
    s.each due fun s d => s.agentSends n 0x18 d.1 d.2.2 ((s.tileOf d.2.1).getD d.2.1)

/-- A class 0 read of a row waits at an agent: a write of the row that has not begun lets it go first (R200). -/
def State.class0Waits (s : State) (n a len : Nat) : Bool :=
  let hit (m : Msg) : Bool := m.mtype == 0x01 && m.cls == 0 && m.addr < a + len && a < m.addr + m.len
  (s.dir n .out).inbox.any hit || (s.agent n).hold.any fun h => hit h.msg

/-- The entries of an RD_PACK (R333): address, length and tag, 16 bytes each. -/
def packEntries (b : Bytes) : List (Nat × Nat × Nat) :=
  (List.range (b.length / 16)).map fun i =>
    (fld (leAt b (16 * i) 8) 51 0, leAt b (16 * i + 8) 2, leAt b (16 * i + 12) 4)

/-- The bytes that a request reads or writes, by address and length. -/
def Msg.rows (m : Msg) : List (Nat × Nat) :=
  if m.mtype = 0x02 then (packEntries m.body).map fun e => (e.1, e.2.1 % 2 ^ 15) else [(m.addr, m.len)]

/-- A commit's reads and writes of its rows wait: the agent's supply is out of range (R425), its hold queue is full, or a
held request touches one of the rows (R338). -/
def State.commitWaits (s : State) (n : Nat) (rows : List (Nat × Nat)) : Bool :=
  let a := s.agent n
  s.pwr.supply.contains (.agent (Fin.ofNat 16 n)) || 64 ≤ a.hold.length ||
    a.hold.any fun h => rows.any fun r => h.msg.rows.any fun x => r.1 < x.1 + max 1 x.2 && x.1 < r.1 + max 1 r.2

/-- CRATE_APPLY_DONE: every new image is in place, and the Crate refreshes the Larder copies (R203, R204). -/
def execCrateApplyDone (n : AgentId) (s : State) : Out :=
  let n := n.val
  match (s.agent n).crates.zipIdx.find? fun c => c.1.st == .applying with
  | some (c, i) =>
    if !(s.agent n).up || s.commitWaits n (c.images.map fun e => (e.1, e.2.length)) ||
        c.images.any (fun e => s.class0Waits n e.1 e.2.length) then .next s
    else
      let s := s.each c.images fun s e => s.store e.1 e.2
      .next (s.beginRefresh n i c)
  | none => .next s

/-- EVICT: the position leaves the row's copy directory entry, unless it holds a copy of the row again, or fetches the row
and may cache what returns: a row that a slice holds stays recorded (R204, R216, R223). -/
def execEvict (n : AgentId) (s : State) : Out :=
  let n := n.val
  s.atAgent n 2 0x08 fun m s =>
    let e := s.engine m.tag
    if (e.placed.any fun p => p.addr == m.addr) || (e.cache.any fun c => c.addr == m.addr) ||
        e.slots.any fun x => x.2.any fun f => f.addr == m.addr && f.data.isNone && !f.err && !f.old then s
    else s.modAgent n fun a => { a with dir := a.dir.filter fun d => !(d.1 == m.addr && d.2 == m.tag) }

/-- REFRESH_ACK: a Crate that waits for no more acknowledgements is done (R204); one for an ENABLE, marked in
FLAGS, completes the migration (R222, log entry 12). -/
def execRefreshAck (n : AgentId) (s : State) : Out :=
  let n := n.val
  s.atAgent n 2 0x09 fun m s =>
    let pos := s.posOfTile m.tag
    if m.flags = 1 then
      match (s.agent n).mig with
      | some g => if g.enabled && g.addr == m.addr && g.pos == pos then
          ((s.modAgent n fun a => { a with mig := none }).count (agentCounter n 9)).nextMig n else s
      | none => s
    else
      match (s.agent n).crates.zipIdx.find? fun c => c.1.st == .refreshing with
      | some (c, i) =>
        let c := { c with refresh := eraseFirst (fun r => r == (m.addr, pos)) c.refresh }
        if c.refresh = [] then s.crateDone n i c else s.setCrate n i c
      | none => s

end Sys2Proof.Machine
end

