-- ==== Sys2Proof/Machine/Epochs.lean ====
section
/-! DEFINITION. The dispatcher's side of a scatter (R194 to R198, R207, R209): ENGINE_EPOCH_REPORT, EPOCH_CUT, HWM,
FULL, SEALED and CRATE_ACK; and the tiles' side of a refresh (R204, R222): REFRESH and ENABLE. -/

namespace Sys2Proof.Machine

open Sys2Proof

/-- The positions of an epoch that a scatter has taken. -/
def Work.takenIn (k : Work) (sc : Scatter) (e : Nat) : List Taken :=
  (k.bags.flatMap fun b => b.2.taken).filter fun t => sc.epochOf t.pos == e

/-- The drops of an epoch become final: its last Crate was acknowledged, or no agent was due a record (R209). -/
def State.epochFinal (s : State) (sc : Scatter) (e : Nat) : State :=
  match s.work sc.work with
  | some k => s.finalDrops k.desc.table (k.takenIn sc e)
  | none => s

/-- The halves that are due a record of an epoch and that no Crate has committed, by the agent that acts for
them (R195, R419). -/
def State.dueAt (s : State) (sc : Scatter) (e n : Nat) : List Nat :=
  (sc.due e).filter fun h => s.ownerOf h == n && !sc.acked.contains (e, h)

/-- The agents that act for those halves. -/
def State.dueAgents (s : State) (sc : Scatter) (e : Nat) : List Nat :=
  (List.range 16).filter fun n => s.dueAt sc e n != []

/-- COMMIT of an epoch to every agent that is due a record (R195). -/
def State.sendCommits (s : State) (i e : Nat) : State :=
  match s.scatter i with
  | some sc =>
    let sc := { sc with committed := sc.committed ++ [e] }
    let s := s.setScatter i (some sc)
    match s.work sc.work with
    | some k =>
      let s := s.each (s.dueAgents sc e) fun s n =>
        let count := ((s.dueAt sc e n).map (sc.sentTo e)).foldl (· + ·) 0
        s.sendCtl n 0x06 k.cls (slotEpoch i e) (commitBody i e count k.desc.upd)
      if sc.due e = [] then s.epochFinal sc e else s
    | none => s
  | none => s

/-- An engine holds a position of an epoch: a fetch of a composed product is outstanding. -/
def State.holdsEpoch (s : State) (pos : Nat) (sc : Scatter) (e : Nat) : Bool :=
  (s.engine pos).slots.any fun x => x.2.any fun f => f.work == sc.work && !f.dead && sc.epochOf f.pos == e

/-- The positions whose reports a cut waits for: every position that serves work. -/
def State.reporters (s : State) : List Nat := (List.range 48).filter fun p => !(s.engine p).lost

/-- ENGINE_EPOCH_REPORT: after its positions of the epoch are done, an engine emits its merge cache rows of the
epoch and reports its counts; with the last report the dispatcher sends COMMIT (R195). -/
def execEngineEpochReport (slot : ScatterSlot) (pos : PosId) (s : State) : Out :=
  let i := slot.val
  let p := pos.val
  match s.scatter i with
  | some sc =>
    match (List.range sc.cuts.length).find? fun e => !sc.committed.contains e with
    | none => .next s
    | some e =>
      if !s.targetOn || sc.holds e || sc.ending || (s.engine p).lost || (s.engine p).moving ||
          !sc.issued.contains (sc.start (e + 1) - 1) || sc.reports.contains (e, p) || s.holdsEpoch p sc e then .next s
      else
        let mine (r : MergeRow) : Bool := r.slot == i && r.epoch == e
        let rows := (s.engine p).merge.filter mine
        let s := s.modEngine p fun g => { g with merge := g.merge.filter fun r => !mine r }
        let s := s.each rows fun s r => s.emitRecord p r
        let s := match s.tileOf p with
          | some t => s.tally t 8 e i
          | none => s
        match s.scatter i with
        | some sc =>
          let sc := { sc with reports := sc.reports ++ [(e, p)] }
          let s := s.setScatter i (some sc)
          if s.reporters.all fun q => sc.reports.contains (e, q) then .next (s.sendCommits i e) else .next s
        | none => .next s
  | none => .next s

/-- Every position of a scatter's stream has been issued: each bag is known and taken. -/
def Work.allIssued (k : Work) : Bool :=
  k.shares.all fun sh => sh.placed && sh.released && (List.range sh.count).all fun lb =>
    match sh.range lb with
    | some r => (k.bags.get default (sh.first + lb)).taken.length == r.len
    | none => false

/-- EPOCH_CUT: at a cut condition, once the epoch before it is acknowledged everywhere, the cut fixes the first
position of the next epoch (R194). -/
def execEpochCut (slot : ScatterSlot) (s : State) : Out :=
  match s.scatter slot.val with
  | some sc =>
    match s.running sc.work with
    | some k =>
      let here := sc.issued.filter fun p => sc.start sc.cuts.length ≤ p
      if sc.hold.isSome || sc.ending || here = [] || !(sc.wantCut || k.allIssued) ||
          !((List.range sc.cuts.length).all sc.done) then .next s
      else .next (s.setScatter slot.val (some { sc with
          cuts := sc.cuts ++ [here.foldl max 0 + 1], wantCut := false }))
    | none => .next s
  | none => .next s

/-- HWM: a cut condition for the epoch that is not cut (R194). -/
def execHwm (n : AgentId) (s : State) : Out :=
  s.atDie n.val 2 0x15 fun m s =>
    match s.scatter m.slotOf with
    | some sc => if !sc.holds m.epochOf && m.epochOf == sc.cuts.length then
        s.setScatter m.slotOf (some { sc with wantCut := true }) else s
    | none => s

/-- FULL: the epoch is aborted everywhere and replayed with half its positions as the limit (R196). Cut positions
after its start no longer hold, since the epoch takes a smaller one (DEDUCED, log entry 16). -/
def execFull (n : AgentId) (s : State) : Out :=
  s.atDie n.val 2 0x16 fun m s =>
    let i := m.slotOf
    let e := m.epochOf
    match s.scatter i with
    | some sc =>
      if sc.holds e || sc.ending || e < sc.base then s
      else
        let count := sc.issued.countP fun p => sc.epochOf p == e
        let s := (s.notice Reg.scNotice 1 7).count (agentCounter n.val 7)
        let s := (s.setScatter i (some { sc with limit := some (max 1 (count / 2)) })).replayFrom sc.work e
        match s.scatter i with
        | some sc => s.setScatter i (some { sc with cuts := sc.cuts.take e })
        | none => s
    | none => s

/-- SEALED: when every due agent has sealed the epoch, GO (R195). -/
def execSealed (n : AgentId) (s : State) : Out :=
  s.atDie n.val 2 0x1A fun m s =>
    let i := m.slotOf
    let e := m.epochOf
    match s.scatter i with
    | some sc =>
      if sc.holds e || sc.ending || !sc.committed.contains e then s
      else
        let sc := { sc with sealedBy := sc.sealedBy ++ [(e, n.val)] }
        let agents := s.dueAgents sc e
        if (agents.all fun a => sc.sealedBy.contains (e, a)) && !sc.gone.contains e then
          (s.setScatter i (some { sc with gone := sc.gone ++ [e] })).each agents fun s a =>
            s.sendCtl a 0x0A 2 (slotEpoch i e)
        else s.setScatter i (some sc)
    | none => s

/-- A Crate of some halves is committed: the checkpoint of its slot advances (R198, R207), and with the last one
the epoch is final (R209). -/
def State.crateAcked (s : State) (i e : Nat) (halves : List Nat) : State :=
  match s.scatter i with
  | some sc =>
    let sc' := { sc with acked := sc.acked ++ (halves.filter fun h => !sc.acked.contains (e, h)).map fun h => (e, h) }
    let s := s.setScatter i (some sc')
    if sc'.done e && !sc.done e then s.epochFinal sc' e else s
  | none => s

/-- CRATE_ACK (R198): the Crate held the records of every half that the agent acts for. -/
def execCrateAck (n : AgentId) (s : State) : Out :=
  s.atDie n.val 2 0x17 fun m s =>
    let due := match s.scatter m.slotOf with
      | some sc => s.dueAt sc m.epochOf n.val
      | none => []
    let s := s.modAgent n.val fun a => { a with acks := a.acks.erase (m.slotOf, m.epochOf) }
    s.crateAcked m.slotOf m.epochOf (n.val :: due)

/-- A REFRESH_ACK of a position; FLAGS[0] marks the acknowledgement of an ENABLE (log entry 12). -/
def State.ackRefresh (s : State) (n pos a : Nat) (enable : Bool) : State :=
  s.queueMsg n .out (mkMsg 0x09 2 2 (bitAt enable 0) 0 ((s.tileOf pos).getD pos) a)

/-- REFRESH: a position writes the new image over its copy, cached or placed, pending copies too, and
acknowledges; with no copy it discards the image, and does not cache an answer that an older fetch of the row still waits
for (R204, R205, R223, R225). -/
def execRefresh (n : AgentId) (s : State) : Out :=
  s.atDie n.val 2 0x18 fun m s =>
    let p := s.posOfTile m.tag
    let s := s.modEngine p fun e => { e with
      cache := e.cache.map fun x => if x.addr = m.addr then { x with data := m.body } else x
      slots := e.slots.map fun x => (x.1, x.2.map fun f =>
        if f.addr = m.addr ∧ f.data.isNone ∧ !(e.cache.any fun c => c.addr == m.addr) then { f with old := true } else f) }
    let s := match (s.engine p).placed.find? fun x => x.addr == m.addr with
      | some x => match s.cfg.table x.table with
        | some td => s.writePlaced p x.block td m.body
        | none => s
      | none => s
    s.ackRefresh n.val p m.addr false

/-- ENABLE: the migrated placement becomes valid (R222); at level 3 the migration is abandoned instead (R235). -/
def execEnable (n : AgentId) (s : State) : Out :=
  s.atDie n.val 2 0x19 fun m s =>
    let p := s.posOfTile m.tag
    if 3 ≤ s.levelAt (1 + n.val / 2) then s.abandonMigration n.val
    else
      let s := s.modEngine p fun e => { e with
        placed := e.placed.map fun x => if x.addr = m.addr then { x with valid := true } else x }
      s.ackRefresh n.val p m.addr true

end Sys2Proof.Machine
end

