-- ==== Sys2Proof/Machine/Serve.lean ====
section
/-! DEFINITION. The agents as memory (R290, R314, R315, R335, R338, R339): RD, RD_PACK, WR, FLUSH and the hold queue;
and the answers at the Farnum die: RD_RSP, RD_PACK_RSP, WR_ACK and FLUSH_ACK. -/

namespace Sys2Proof.Machine

open Sys2Proof

/-! ### The copy directory and the touch table -/

/-- Rows that a copy directory can hold (R204). -/
def dirSize : Nat := 131072

/-- A position recorded for a row; false: the directory has no free entry (R204). -/
def Agent.recordCopy (a : Agent) (addr pos : Nat) : Agent × Bool :=
  if a.dir.contains (addr, pos) then (a, true)
  else if (a.dir.any fun d => d.1 == addr) || (a.dir.map (·.1)).eraseDups.length < dirSize then
    ({ a with dir := (addr, pos) :: a.dir }, true)
  else (a, false)

/-- The touch table entry with the smallest count. -/
def smallestTouch (l : List (Nat × Nat × Nat)) : Option (Nat × Nat × Nat) :=
  l.foldl (fun b e => match b with
    | none => some e
    | some d => if e.2.2 < d.2.2 then some e else b) none

/-- A sampled read of a row counts in the touch table; with no entry free it takes over the smallest one and adds
1 to its count (R221). -/
def touchRow (l : List (Nat × Nat × Nat)) (addr pos : Nat) : List (Nat × Nat × Nat) :=
  if l.any fun e => e.1 == addr then
    l.map fun e => if e.1 = addr then (addr, pos, min 0xFFFF (e.2.2 + 1)) else e
  else if l.length < 4096 then l ++ [(addr, pos, 1)]
  else match smallestTouch l with
    | some d => l.map fun e => if e.1 = d.1 then (addr, pos, min 0xFFFF (d.2.2 + 1)) else e
    | none => l

/-- A read served to an engine: one in 2^SAMPLE_LOG2 is sampled (R221). -/
def State.sampleRead (s : State) (n addr pos : Nat) : State :=
  s.modAgent n fun a =>
    let k := a.sampled + 1
    { a with sampled := k, touch := if k % 2 ^ s.cfg.agents.sampleLog2 = 0 then touchRow a.touch addr pos else a.touch }

/-! ### Stack errors -/

/-- The 4 KiB unit of a stack offset (R340). -/
def unitOf (off : Nat) : Nat := off % 2 ^ 37 / 4096 * 4096

/-- A corrected or an uncorrectable error counted for a unit of an agent, in their order (R342). -/
def Agent.stackError (a : Agent) (unit : Nat) (bad : Bool) : Agent :=
  let old := (a.errUnits.find? fun e => e.1 == unit).getD (unit, 0, 0)
  let mark := if bad then max 1 old.2.2 else if old.2.2 = 0 then 0 else 2
  { a with errUnits := (unit, old.2.1 + (if bad then 0 else 1), mark) :: a.errUnits.filter fun e => e.1 != unit }

/-! ### Requests -/

/-- A lost address lies in some bytes. -/
def Agent.lostIn (a : Agent) (addr len : Nat) : Bool := a.lost.any fun x => addr ≤ x && x < addr + len

/-- One row read: its bytes, or none for a row that is lost (R422), and FLAGS of the response (R333, R334). -/
def State.readRow (s : State) (n addr len tag : Nat) (fill : Bool) : Option Bytes × Nat × State :=
  let s := (s.count (agentCounter n 0)).sampleRead n addr (fld tag 14 9)
  if (s.agent n).lostIn addr len then (none, 2, s)
  else if fill then
    let (a, ok) := (s.agent n).recordCopy addr (fld tag 14 9)
    let s := s.setAgent n a
    let s := if ok then s else s.count (agentCounter n 12)
    (some (s.load addr len), bitAt (!ok) 0, s)
  else (some (s.load addr len), 0, s)

/-- One row of an RD_PACK_RSP: its tag, length and FLAGS in 16 bytes, then its bytes, padded (R335; log entry 12). -/
def packEntry (tag flags : Nat) (b : Bytes) : Bytes :=
  fit 16 (leBytes 4 tag ++ leBytes 2 b.length ++ leBytes 1 flags) ++ padTo 16 b

/-- The rows of a pack read, in one answer (R335). A row that may be cached has bit 15 of its length set. -/
def State.servePack (s : State) (n : Nat) (m : Msg) : State :=
  let (body, s) := (packEntries m.body).foldl (fun (acc : Bytes × State) e =>
    let (b, flags, s) := acc.2.readRow n e.1 (e.2.1 % 2 ^ 15) e.2.2 (bitOf e.2.1 15)
    (acc.1 ++ packEntry e.2.2 flags (b.getD []), s.count (agentCounter n 1))) ([], s)
  s.queueMsg n .inb (mkMsg 0x12 1 m.cls 0 body.length m.tag 0 body)

/-- A request served: a read answers with the row, a pack with its rows, a write stores its body and is
acknowledged. -/
def State.serve (s : State) (n : Nat) (m : Msg) : State :=
  if m.mtype = 0x01 then
    let (b, flags, s) := s.readRow n m.addr m.len m.tag (bitOf m.flags 0)
    let body := b.getD []
    s.queueMsg n .inb (mkMsg 0x11 m.vc m.cls flags body.length m.tag m.addr body)
  else if m.mtype = 0x02 then s.servePack n m
  else if m.mtype = 0x03 then
    let s := (s.store m.addr m.body).count (agentCounter n 2)
    s.queueMsg n .inb (mkMsg 0x13 m.vc m.cls 0 0 m.tag m.addr)
  else s

/-- The answer to an RD or a WR that failed (R339): ERR in the answer of a read, the acknowledgement of a write. -/
def Msg.failed (m : Msg) : Msg :=
  if m.mtype = 0x01 then mkMsg 0x11 m.vc m.cls 2 0 m.tag m.addr
  else mkMsg 0x13 m.vc m.cls 0 0 m.tag m.addr

/-! ### The hold queue and the order of a row (R200, R338) -/

/-- Two requests touch a row in common. -/
def Msg.meets (m k : Msg) : Bool :=
  m.rows.any fun x => k.rows.any fun y => x.1 < y.1 + max 1 y.2 && y.1 < x.1 + max 1 x.2

/-- A class 0 row read. -/
def Msg.first (m : Msg) : Bool := m.mtype == 0x01 && m.cls == 0

/-- The hold queue is full: the agent issues no new request (R338). -/
def Agent.full (a : Agent) : Bool := 64 ≤ a.hold.length

/-- A request meets a held one of its row, behind which it waits; a class 0 read waits behind no read and no write that
itself waits (R200, R338). -/
def Agent.behind (a : Agent) (m : Msg) : Bool := a.hold.any fun h => h.msg.meets m && (!m.first || h.msg.first)

/-- The request at the front of a virtual channel goes to the hold queue; it keeps its place in the link's credits,
which are owed when it is accepted (R338). The channel that refused it is the controller's, so that its number in the Tally
item is a free value (R445; log entry 60). -/
def State.hold (s : State) (n : Nat) (m : Msg) : State :=
  let s := s.modDir n .out fun q => { q with inbox := eraseFirst (fun x => x.vc == m.vc) q.inbox }
  let s := (s.modAgent n fun a => { a with hold := a.hold ++ [⟨m⟩] }).count (agentCounter n 15)
  let (channel, s) := s.draw
  s.tally (96 + n) 11 channel (s.agent n).hold.length

/-- A read or write at the front of a virtual channel (R200, R338): it is served, it waits in the hold queue behind a
request of the same row, or it waits where it is. -/
def State.takeRequest (s : State) (n vc mtype : Nat) : Out :=
  match s.peek n .out vc mtype with
  | some m =>
    if !s.agentOn n || (s.agent n).full || (m.vc != 0 && m.rows.any fun r => s.class0Waits n r.1 r.2) then .next s
    else if (s.agent n).behind m then .next (s.hold n m)
    else .next ((s.pop n .out m).serve n m)
  | none => .next s

/-- RD: an agent reads one whole row version (R51, R200, R314). -/
def execRd (n : AgentId) (vc : VcId) (s : State) : Out := s.takeRequest n.val vc.val 0x01

/-- RD_PACK: the rows of a pack in one answer (R335). -/
def execRdPack (n : AgentId) (s : State) : Out := s.takeRequest n.val 1 0x02

/-- WR (R253, R288, R315). -/
def execWr (n : AgentId) (vc : VcId) (s : State) : Out := s.takeRequest n.val vc.val 0x03

/-- Writes that a flush waits for: held ones, and any that has not reached the agent's controller. -/
def State.writesBefore (s : State) (n : Nat) : Bool :=
  (s.agent n).hold.any (fun h => h.msg.mtype == 0x03) ||
    ((s.dir n .out).inbox.takeWhile fun m => m.mtype != 0x04).any (fun m => m.mtype == 0x03) ||
    (s.dir n .out).queue.any fun m => m.msg.vc == 0 && m.msg.mtype == 0x03

/-- FLUSH: acknowledged once every earlier write of the link is ordered (R290). -/
def execFlush (n : AgentId) (s : State) : Out :=
  let n := n.val
  if s.writesBefore n then .next s
  else s.atAgent n 1 0x04 fun m s => s.queueMsg n .inb (mkMsg 0x14 1 m.cls 0 0 m.tag 0)

/-! ### The hold queue -/

/-- CONTROLLER_BUSY: the refused request goes to the hold queue of 64 (R338). -/
def execControllerBusy (n : AgentId) (vc : VcId) (s : State) : Out :=
  let n := n.val
  match (s.dir n .out).inbox.find? fun m => m.vc == vc.val with
  | some m =>
    if !s.agentOn n || !([0x01, 0x02, 0x03].contains m.mtype) || (s.agent n).full then .next s
    else .next (s.hold n m)
  | none => .next s

/-- A held request accepted: it is served, and its credits are owed. -/
def State.serveHeld (s : State) (n : Nat) (h : Held) : State :=
  (s.modDir n .out fun q => { q with owed := q.owed.modify h.msg.vc (· + h.msg.units) }).serve n h.msg

/-- The held requests that a reissue serves, and those that stay, oldest first: an accepted one goes on unless another of
its row waits before it, where a class 0 read waits before all others (R200, R338). -/
def reissue (hs : List Held) (accepted : List Bool) : List Held × List Held :=
  hs.zipIdx.foldl (fun (acc : List Held × List Held) e =>
    let h := e.1
    let waits := if h.msg.first then acc.2.any fun k => k.msg.first && k.msg.meets h.msg
      else (acc.2.any fun k => k.msg.meets h.msg) || (hs.drop (e.2 + 1)).any fun k => k.msg.first && k.msg.meets h.msg
    if accepted.getD e.2 false && !waits then (acc.1 ++ [h], acc.2) else (acc.1, acc.2 ++ [h])) ([], [])

/-- HOLD_REISSUE: each held request is issued again; those that the controller accepts are served (R338). -/
def execHoldReissue (n : AgentId) (accepted : List Bool) (s : State) : Out :=
  let n := n.val
  if !s.agentOn n then .next s
  else
    let (go, stay) := reissue (s.agent n).hold accepted
    .next ((s.modAgent n fun a => { a with hold := stay }).each go fun s h => s.serveHeld n h)

/-! ### Answers at the Farnum die -/

/-- RD_RSP: the row reaches its slot; with ERR it carries no usable data (R334). -/
def execRdRsp (n : AgentId) (vc : VcId) (s : State) : Out :=
  s.atDie n.val vc.val 0x11 fun m s =>
    s.deliver m.tag (if bitOf m.flags 1 then none else some m.body) (!bitOf m.flags 0)

/-- The rows of an RD_PACK_RSP: tag, FLAGS and bytes, by fuel. -/
def packRows : Nat → Bytes → List (Nat × Nat × Bytes)
  | 0, _ => []
  | f + 1, b =>
    if b.length < 16 then []
    else
      let n := leAt b 4 2
      (leAt b 0 4, leAt b 6 1, (b.drop 16).take n) :: packRows f (b.drop (16 + roundUp n 16))

/-- RD_PACK_RSP: each row returns by its tag (R335). -/
def execRdPackRsp (n : AgentId) (s : State) : Out :=
  s.atDie n.val 1 0x12 fun m s =>
    s.each (packRows 8 m.body) fun s r =>
      s.deliver r.1 (if bitOf r.2.1 1 then none else some r.2.2) (!bitOf r.2.1 0)

/-- A write or flush with a tag is acknowledged to what issued it (R253). -/
def State.acked (s : State) (tag : Nat) : State :=
  match s.net.sent.get none tag with
  | some m =>
    ({ s with net := { s.net with sent := s.net.sent.set none tag none } }).ownAcked m.own false
  | none => s

/-- WR_ACK (R253). -/
def execWrAck (n : AgentId) (vc : VcId) (s : State) : Out := s.atDie n.val vc.val 0x13 fun m s => s.acked m.tag

/-- FLUSH_ACK (R290). -/
def execFlushAck (n : AgentId) (s : State) : Out := s.atDie n.val 1 0x14 fun m s => s.acked m.tag

end Sys2Proof.Machine
end

