-- ==== Sys2Proof/Machine/Mover.lean ====
section
/-! DEFINITION. The mover (R244 to R258): descriptor lists, bursts, grants, cold fetches (R229, R230), aborts
and completions. -/

namespace Sys2Proof.Machine

open Sys2Proof

/-! ### A channel's class, domain and priority -/

/-- The class of a channel (R244, R258). -/
def State.chanClass (s : State) (ch : Nat) : Nat :=
  if ch = 28 then 1
  else if 28 < ch then 3
  else match s.chanWork ch with
    | some k => k.cls
    | none => s.regFld (Reg.mvCtl ch) 3 2

/-- The priority of a channel (R245); firmware channels have no register of their own for it, and run at 0
(DESIGN CHOICE, log entry 17). -/
def State.chanPrio (s : State) (ch : Nat) : Nat := if 28 ≤ ch then 0 else s.regFld (Reg.mvCtl ch) 1 0

/-! ### The loops of a descriptor (R251) -/

/-- Bytes of an element. -/
def MoverDesc.elem (d : MoverDesc) : Nat := 2 ^ d.esize

/-- Bytes of a swap unit (R250). -/
def MoverDesc.unit (d : MoverDesc) : Nat :=
  match d.swap with
  | 1 => 2 | 2 => 4 | 3 => 8 | 4 => 4 | _ => 1

/-- Elements that a descriptor moves. -/
def MoverDesc.total (d : MoverDesc) : Nat := if d.op = 2 then 0 else d.c0 * d.c1 * d.c2

/-- An address of R251: a sum below zero wraps modulo 2^52. -/
def wrapAddr (i : Int) : Nat := if i < 0 then wrapInt 52 i else i.toNat

/-- The source address of element i; a FILL has none. -/
def MoverDesc.srcAt (d : MoverDesc) (i : Nat) : Nat :=
  wrapAddr (d.src + (i / (d.c0 * d.c1) : Nat) * d.s2 + (i / d.c0 % d.c1 : Nat) * d.s1 + (i % d.c0 : Nat) * d.s0)

/-- The destination address of element i. -/
def MoverDesc.dstAt (d : MoverDesc) (i : Nat) : Nat :=
  wrapAddr (d.dst + (i / (d.c0 * d.c1) : Nat) * d.d2 + (i / d.c0 % d.c1 : Nat) * d.d1 + (i % d.c0 : Nat) * d.d0)

/-- Element i leaves the 52-bit addresses (R252). -/
def MoverDesc.passes (d : MoverDesc) (i : Nat) : Bool :=
  2 ^ 52 < d.dstAt i + d.elem || (d.op == 0 && 2 ^ 52 < d.srcAt i + d.elem)

/-- Bytes from an address to the end of its 256 MiB. -/
def toPageEnd (a : Nat) : Nat := 2 ^ 28 - a % 2 ^ 28

/-- A swap unit of element i straddles a split: the element is moved whole (R267). -/
def MoverDesc.whole (d : MoverDesc) (i : Nat) : Bool :=
  let cut (a : Nat) : Bool := toPageEnd a < d.elem && toPageEnd a % d.unit != 0
  d.op == 0 && (cut (d.srcAt i) || cut (d.dstAt i))

/-- The iterations of loop 0 from i on that continue without a gap on both sides (R246). -/
def MoverDesc.run (d : MoverDesc) (i : Nat) : Nat :=
  if d.d0 = d.elem ∧ (d.op = 1 ∨ d.s0 = d.elem) then d.c0 - i % d.c0 else 1

/-- The next burst of a descriptor (R246, R267): how many bytes, and whether a page boundary split it. -/
def MoverDesc.burst (d : MoverDesc) (i part : Nat) : Nat × Bool :=
  if part = 0 ∧ d.whole i then (d.elem, true)
  else
    let most := min (d.run i) (1 + (256 - (d.elem - part)) / d.elem)
    let n := ((List.range most).find? fun j => 0 < j && d.whole (i + j)).getD most
    let bytes := n * d.elem - part
    let cut := min (toPageEnd (d.dstAt i + part)) (if d.op = 0 then toPageEnd (d.srcAt i + part) else bytes)
    (min bytes cut, cut < bytes)

/-- The bytes of an element with its units swapped (R250). -/
def swapUnits (mode : Nat) (b : Bytes) : Bytes :=
  match mode with
  | 1 => (chunks 2 b).flatMap List.reverse
  | 2 => (chunks 4 b).flatMap List.reverse
  | 3 => (chunks 8 b).flatMap List.reverse
  | 4 => (chunks 4 b).flatMap fun u => u.drop 2 ++ u.take 2
  | _ => b

/-- n bytes of a FILL pattern from an offset of the element on (R251). -/
def fillBytes (pattern off n : Nat) : Bytes :=
  let p := leBytes 8 pattern
  (List.range n).map fun j => p.getD ((off + j) % 8) 0#8

/-- A malformed descriptor, also one between two peer windows (R252, R300). -/
def MoverDesc.bad (d : MoverDesc) : Bool := d.malformed || (d.op == 0 && spaceOf d.src == 8 && spaceOf d.dst == 8)

/-! ### What a descriptor reads and writes (R247, R255) -/

/-- The bytes of one side of a descriptor: for each pass of loop 0 one set of runs; at gives the addresses and step the
stride of loop 0. -/
def MoverDesc.runs (d : MoverDesc) (at_ : Nat → Nat) (step : Int) : List Wild :=
  (List.range (d.c1 * d.c2)).map fun j =>
    let first := at_ (j * d.c0)
    if step = d.elem then ⟨first, d.c0 * d.elem, 0, 1⟩
    else if 0 ≤ step then ⟨first, d.elem, step.toNat, d.c0⟩
    else ⟨wrapAddr (first + (d.c0 - 1 : Nat) * step), d.elem, (-step).toNat, d.c0⟩

/-- The destination of a descriptor. -/
def MoverDesc.dests (d : MoverDesc) : List Wild := if d.op = 2 then [] else d.runs d.dstAt d.d0

/-- The source of a COPY. -/
def MoverDesc.srcs (d : MoverDesc) : List Wild := if d.op = 0 then d.runs d.srcAt d.s0 else []

/-- Two sets of bytes have one in common. -/
def meetAny (a b : List Wild) : Bool := a.any fun x => b.any x.meets

/-- Some byte lies in a set twice. -/
def meetSelf (a : List Wild) : Bool := a.any Wild.meetsSelf || a.zipIdx.any fun e => (a.drop (e.2 + 1)).any e.1.meets

/-- A descriptor overlaps itself, or reads what an earlier one of its channel writes with no barrier between (R247). -/
def MoverDesc.overlaps (d : MoverDesc) (since : List Wild) : Bool :=
  meetSelf d.dests || meetAny d.srcs d.dests || meetAny d.srcs since

/-- A list commits a host error (R8, R255): the destinations of its descriptors are open, those that start later among
them, and the tables on which it holds write or atomic rights. Where it writes otherwise, and its state, stay as the
rules say. -/
def State.openList (s : State) (ch : Nat) (more : List Wild) : State :=
  let c := s.chan ch
  (s.openBytes (s.chanDomain ch) (more ++ c.dests ++ s.rightTables (s.chanDomain ch))).setChan ch { c with broken := true }

/-- Live work whose destinations a list would write too (R7). -/
def State.worksHit (s : State) (ds : List Wild) : List Nat :=
  (s.works.filter fun e => e.2.live && e.2.link.isNone && meetAny (s.dests e.2) ds).map (·.1)

/-- Lists of other channels that write bytes that a list would write too (R7). -/
def State.listsHit (s : State) (ch : Nat) (ds : List Wild) : List Nat :=
  (s.mov.chans.filter fun e => e.1 != ch && meetAny e.2.dests ds).map (·.1)

/-- The host errors of a descriptor that starts: malformed, between two windows (R300), or overlapping bytes (R7, R247);
what they reach is open. -/
def State.checkDesc (s : State) (ch : Nat) (d : MoverDesc) (bad : Bool) : State :=
  let c := s.chan ch
  let ws := s.worksHit d.dests
  let ls := s.listsHit ch d.dests
  if bad || c.broken || d.overlaps c.since || ws != [] || ls != [] then
    ((s.each ws State.openDests).each ls fun s q => s.openList q []).openList ch d.dests
  else s

/-! ### Checks before a burst (R242, R245) -/

/-- What a channel finds of one side of a burst. -/
inductive SideSt where
  | ok (pa : Nat)
  | wait
  | miss (a : Nat) (write : Bool)
  | denied (a need : Nat)
  deriving DecidableEq, Repr

/-- One part of a burst: its rights, its translation, its window; need is 1 R or 2 W. Spaces 0x0 and 0x1 have no
translation to miss (R227). -/
def State.checkPart (s : State) (dom need : Nat) (p : Nat × Nat) : SideSt :=
  let a := p.1
  match spaceOf a with
  | 0 =>
    if !s.allows dom a p.2 need then .denied a need
    else if need = 1 && !s.reach a p.2 then .wait else .ok 0
  | 1 => if s.allows dom a p.2 need then .ok 0 else .denied a need
  | 8 =>
    match s.outWindow a p.2 need with
    | some (c, _) => if s.peerRoom c then .ok 0 else .wait
    | none => .denied a need
  | sp =>
    if sp ≠ 2 ∧ sp ≠ 3 then .denied a need
    else if dom = 16 then .ok (a % 2 ^ 48)
    else match s.tcFind (s.cfg.domain dom).pasid sp (a % 2 ^ 48) with
      | some (_, e) => if e.rights &&& need = 0 then .denied a need else .ok (e.pa + a % 2 ^ 48 % e.size)
      | none => .miss a (need == 2)

/-- The first part that is not in order. -/
def firstBad (l : List SideSt) : Option SideSt := l.find? fun x => match x with | .ok _ => false | _ => true

/-- The parts of a channel's next burst. -/
structure NextBurst where
  srcs : List (Nat × Nat)
  dsts : List (Nat × Nat)
  bytes : Nat
  split : Bool
  deriving DecidableEq, Repr

/-- The next burst of a channel whose descriptor has elements left. -/
def State.nextBurst (s : State) (ch : Nat) : Option (MoverDesc × NextBurst) :=
  let c := s.chan ch
  match c.cur with
  | some d =>
    if c.st = .stopping ∨ c.st = .idle ∨ d.total ≤ c.iter ∨ d.passes c.iter then none
    else
      let b := d.burst c.iter c.part
      let parts (a : Nat) := ranges (2 ^ 28) a b.1
      some (d, ⟨if d.op = 0 then parts (d.srcAt c.iter + c.part) else [], parts (d.dstAt c.iter + c.part), b.1, b.2⟩)
  | none => none

/-- How a channel's next burst stands: every part's state, sources first. -/
def State.burstSides (s : State) (ch : Nat) (b : NextBurst) : List SideSt :=
  b.srcs.map (s.checkPart (s.chanDomain ch) 1) ++ b.dsts.map (s.checkPart (s.chanDomain ch) 2)

/-! ### Bursts -/

/-- The bytes of a channel's burst written to its destinations (R251, R300). -/
def State.writeParts (s : State) (ch : Nat) (r : ChRead) (data : Bytes) : State :=
  (r.dsts.foldl (fun (st : State × Bytes) p =>
    let (s, rest) := st
    let (a, pa, n) := p
    let b := rest.take n
    let own := Owner.chanWrite ch r.work
    let fence := (r.work.bind s.work).any fun k => k.desc.fence
    let s :=
      if spaceOf a = 8 then
        match s.outWindow a n 2 with
        | some (c, addr) =>
          let src := match r.srcs with
            | [(x, _)] => if spaceOf x < 2 ∧ r.swap = 0 ∧ r.dsts.length = 1 then some x else none
            | _ => none
          s.sendMover c { Sent.new 0 addr n 0 src b with ch := some (ch, a), work := r.work, dno := r.dno }
        | none => s.denied own a 2
      else if spaceOf a < 2 then (s.writeOut own r.cls r.domain a b fence (some ch)).1
      else (s.ownQueued own 1 true).requestAt ⟨own, r.domain, r.cls, true, a, n, b, fence, some ch⟩ pa r.serial
    (s, rest.drop n)) (s, data)).1

/-- The bytes of a burst's sources, once every one has arrived. -/
def ChRead.bytes (r : ChRead) : Option Bytes :=
  let bs := r.srcs.flatMap fun p => (List.range p.2).map fun i => stagedByte r.got (p.1 + i)
  if bs.all Option.isSome then some (bs.map fun b => b.getD 0#8) else none

/-- Data that a burst waited for: when all of it is there, the burst is written. -/
def State.chanGot (s : State) (ch k a : Nat) (data : Bytes) : State :=
  let c := s.chan ch
  match c.reads.find? fun r => r.num == k with
  | some r =>
    let r := { r with got := r.got ++ [(a, data)] }
    match r.bytes with
    | some b => (s.setChan ch { c with reads := c.reads.filter fun x => x.num != k }).writeParts ch r (swapUnits r.swap b)
    | none => s.setChan ch { c with reads := c.reads.map fun x => if x.num = k then r else x }
  | none => s

/-- One source part read (R240, R300). The reads of channel 28, by which firmware walks, take any initiator channel
(R257, R276). -/
def State.readPart (s : State) (ch k : Nat) (r : ChRead) (a n pa : Nat) : State :=
  if spaceOf a < 2 then s.chanGot ch k a (s.load a n)
  else if spaceOf a = 8 then
    match s.outWindow a n 1 with
    | some (c, addr) =>
      s.sendRead c ch k a { Sent.new 1 addr n 0 none [] with ch := some (ch, a), work := r.work, dno := r.dno }
    | none => s
  else s.requestAt ⟨.chanRead ch k, r.domain, r.cls, false, a, n, [], false, if ch = 28 then none else some ch⟩ pa
    r.serial

/-- The package addresses of sides that are in order. -/
def SideSt.pa : SideSt → Nat
  | .ok pa => pa
  | _ => 0

/-- A burst granted: the channel's loops advance, its sources are read, and its data is written when all of it
is there (R246, R251). -/
def State.issueBurst (s : State) (ch : Nat) (d : MoverDesc) (b : NextBurst) : State :=
  let c := s.chan ch
  let dom := s.chanDomain ch
  let pas := (s.burstSides ch b).map SideSt.pa
  let srcPas := pas.take b.srcs.length
  let dstPas := pas.drop b.srcs.length
  let k := c.nextRead
  let r : ChRead :=
    { num := k, srcs := b.srcs, dsts := (b.dsts.zip dstPas).map fun p => (p.1.1, p.2, p.1.2), swap := d.swap
      serial := s.mov.serial, cls := s.chanClass ch, domain := dom
      work := c.user.map fun u => u.2.1, dno := c.dno, got := [] }
  let hits := (b.srcs ++ b.dsts).filterMap fun p =>
    if spaceOf p.1 = 2 ∨ spaceOf p.1 = 3 then
      (s.tcFind (s.cfg.domain dom).pasid (spaceOf p.1) (p.1 % 2 ^ 48)).map (·.1)
    else none
  let done := c.part + b.bytes
  let left := d.total ≤ c.iter + done / d.elem
  let s := s.setChan ch { c with
    iter := c.iter + done / d.elem, part := done % d.elem, nextRead := k + 1
    st := if left ∧ d.barrier then .barrier else .running
    reads := if d.op = 0 then c.reads ++ [r] else c.reads }
  let s := s.modMov fun m => { m with serial := m.serial + 1 }
  let s := if dom = 16 then s else s.each hits State.touchTc
  let s := if b.split then s.count 0x019 else s
  if d.op = 1 then s.writeParts ch r (fillBytes d.src c.part b.bytes)
  else s.each (b.srcs.zip srcPas) fun s p => s.readPart ch k r p.1.1 p.1.2 p.2

/-- Channel bursts in flight across the mover (R245): those whose read data has not all arrived (DESIGN CHOICE, log
entry 51). -/
def State.burstsInFlight (s : State) : Nat := s.mov.chans.foldl (fun n e => n + e.2.reads.length) 0

/-- A channel whose next burst may be granted (R245). -/
def State.chanReady (s : State) (ch : Nat) : Bool :=
  match s.nextBurst ch with
  | some (_, b) => (s.chan ch).st == .running && (firstBad (s.burstSides ch b)).isNone
  | none => false

/-- A descriptor that is about to leave the 52-bit addresses, a host error, moves no further (R252). -/
def State.cutDesc (s : State) (ch : Nat) : State :=
  let c := s.chan ch
  match c.cur with
  | some d => if c.iter < d.total && d.passes c.iter then
      (s.openList ch []).modChan ch fun c => { c with iter := d.total, part := 0 }
    else s
  | none => s

/-- Before a grant, a descriptor that leaves the addresses is cut, a channel whose next burst misses waits in the fault
table, and one whose next burst lacks a right stops (R242, R252, R264). -/
def State.settleChan (s : State) (ch : Nat) : State :=
  let s := s.cutDesc ch
  match s.nextBurst ch with
  | some (_, b) =>
    if (s.chan ch).st ≠ .running then s
    else match firstBad (s.burstSides ch b) with
      | some (.miss a w) => s.waitPage ch (s.chanDomain ch) (s.chanClass ch) a w
      | some (.denied a need) => s.stopChan ch 1 (some (a, need))
      | _ => s
  | none => s

/-- Bytes of the Store Room that an uncorrectable error has lost: a burst that reads them is issued again (R247). -/
def State.lostBytes (s : State) (a n : Nat) : Bool :=
  spaceOf a == 0 && (ranges 4096 a n).any fun p =>
    (s.agent (s.ownerAgent p.1)).lost.any fun x => p.1 < x + 64 && x < p.1 + p.2

/-! ### Grants -/

/-- The priorities of the 15 slots (R245). -/
def slotCycle : List Nat := [3, 2, 3, 1, 3, 2, 3, 0, 3, 2, 3, 1, 3, 2, 3]

/-- The next ready channel of a priority, by round robin. -/
def State.robin (s : State) (prio : Nat) : Option Nat :=
  let from_ := s.mov.lastOf.get 0 prio
  ((List.range 32).map fun i => (from_ + i) % 32).find? fun ch => s.chanPrio ch == prio && s.chanReady ch

/-- The channel of the next grant: the slot's priority, then the next lower, wrapping (R245). -/
def State.grantChan (s : State) : Option Nat :=
  let p := slotCycle.getD s.mov.slot 0
  [p, (p + 3) % 4, (p + 2) % 4, (p + 1) % 4].findSome? s.robin

/-- The next cold fetch: the lowest class, in arrival order (R230). -/
def State.grantCold (s : State) : Option Cold :=
  if 512 ≤ s.mov.flight.length then none
  else [0, 1, 2, 3].findSome? fun cls => s.mov.cold.find? fun c => c.cls == cls

/-- A cold fetch issued: its granules are read (R228, R229). -/
def State.issueCold (s : State) (c : Cold) : State :=
  let (a, n) := c.granules
  let s := s.count 0x010
  let s := s.modMov fun m => { m with
    cold := m.cold.filter (· != c), lastCold := true
    flight := m.flight ++ [⟨c, n, [], false⟩] }
  s.readOut (.cold c.tag) c.cls c.domain a n none

/-- MOVER_BURST_GRANT (R245): grants alternate between the cold-fetch queue and the channels. A burst whose data meets an
uncorrectable error takes its grant and is issued again (R247). -/
def execMoverBurstGrant (s : State) : Out :=
  if !s.targetOn then .next s
  else
    let s := s.each (List.range 32) State.settleChan
    let chan := if s.burstsInFlight < 256 then s.grantChan else none
    let giveChan (ch : Nat) : Out :=
      let s := s.modMov fun m => { m with
        lastCold := false, slot := (m.slot + 1) % 15
        lastOf := m.lastOf.set 0 (s.chanPrio ch) ((ch + 1) % 32) }
      match s.nextBurst ch with
      | some (d, b) => if b.srcs.any fun p => s.lostBytes p.1 p.2 then .next s else .next (s.issueBurst ch d b)
      | none => .next s
    match s.grantCold, chan with
    | some c, some ch => if s.mov.lastCold then giveChan ch else .next (s.issueCold c)
    | some c, none => .next (s.issueCold c)
    | none, some ch => giveChan ch
    | none, none => .next s

/-! ### Lists -/

/-- A list that starts: the oldest queued head, or none and the channel becomes idle with a code (R255). -/
def State.nextList (s : State) (ch code : Nat) : State :=
  let c := s.chan ch
  let c := { c with cur := none, ahead := [], reading := none, iter := 0, part := 0, stop := none, user := none
                    dests := [], broken := false, gone := []
                    phys := false, code := code }
  match c.heads with
  | h :: rest =>
    let c := { c with st := .running, heads := rest, user := h.user }
    match h.built with
    | none => s.setChan ch { c with list := some h.addr }
    | some b => s.setChan ch { c with list := none, ahead := [(0, some b)] }
  | [] => s.setChan ch { c with st := .idle, list := none }

/-- A list head queued: CODE and the fault clear, and an idle channel starts it (R255). -/
def State.queueHead (s : State) (ch : Nat) (h : Head) : State :=
  let c := s.chan ch
  let s := s.setChan ch { c with heads := c.heads ++ [h], code := 0, fault := none }
  if c.st = .idle then s.nextList ch 0 else s

/-- A write to MV_CH_HEAD (R255, R257, R258). A head past the four that a channel holds, or one that is not aligned, is
a host error of the channel's register: its WO field may take any value, so that any head may be queued or none. -/
def State.headWrite (s : State) (ch addr : Nat) : State :=
  if 28 ≤ ch ∨ (s.cfg.chan ch).porterOwned then s
  else if addr % 64 ≠ 0 ∨ 4 ≤ (s.chan ch).heads.length then
    let (v, s) := s.draw
    let c := s.chan ch
    let h : Head := ⟨v / 2 % 2 ^ 46 * 64, none, none⟩
    if !bitOf v 0 then s
    else if 4 ≤ c.heads.length then s.setChan ch { c with heads := c.heads.take 3 ++ [h] } else s.queueHead ch h
  else s.queueHead ch ⟨addr, none, none⟩

/-- A write of 1 to MV_CH_CTL.ABORT (R256, R257, R258). -/
def State.abortChan (s : State) (ch : Nat) : State :=
  if 28 ≤ ch ∨ (s.cfg.chan ch).porterOwned then s else s.stopChan ch 2

/-- A request of an owner waits on an initiator channel or is in flight. -/
def State.hostHas (s : State) (f : Owner → Bool) : Bool :=
  s.hi.any fun e => e.2.queue.any (fun r => f r.own) || e.2.flight.any fun r => r.2.any fun r => !r.old && f r.own

/-- A channel's every burst has completed and every write is acknowledged (R253, R256). -/
def State.chanQuiet (s : State) (ch : Nat) : Bool :=
  let c := s.chan ch
  c.reads.isEmpty && c.unacked == 0 && !s.chanPackets ch

/-- The same for a channel that stops: a burst that waits only for a LOST connection is given up (R308). -/
def State.stopQuiet (s : State) (ch : Nat) : Bool :=
  let c := s.chan ch
  let lost (r : ChRead) : Bool := r.srcs.any fun p => spaceOf p.1 == 8 &&
    (s.conn (fld (s.reg (Reg.pwOb (fld p.1 47 40))) 15 8)).lost
  c.reads.all lost && c.unacked == 0 && !s.chanPacketsLive ch

/-- A read of a mover channel. -/
def Owner.reads (o : Owner) (ch : Nat) : Bool :=
  match o with
  | .chanRead c _ => c == ch
  | .chanDesc c => c == ch
  | _ => false

/-- CHANNEL_STOPPED (R256): the channel becomes idle with its code. The tasks whose Porters launched the list that stopped,
or a queued one that the stop discarded, end with that code as their status (R103, R351; log entry 63). -/
def execChannelStopped (ch : ChanId) (s : State) : Out :=
  let c := s.chan ch
  if !s.targetOn ∨ c.st ≠ .stopping ∨ !(s.stopQuiet ch) ∨ s.hostHas (fun o => o.reads ch) then .next s
  else
    let code := c.stop.getD 2
    let s := (((s.setChan ch { c with reads := [] }).nextList ch code).raise Reg.mvNotice (2 ^ ch.val)).tallyNotice 114
    let us := (c.user.toList ++ c.gone).filter fun u => u.2.2 < 32
    .next (s.each us fun s u => (s.each (s.portersOf u.2.1) State.leaveCache).endWork u.2.1 code)

/-- The address of the next descriptor to read after one (R255): none at the end of a list, at a malformed
descriptor and at an unreadable one. -/
def nextDesc (b : Option Bytes) : Option Nat :=
  match b with
  | some b =>
    let d := MoverDesc.ofBytes b
    if d.last || d.bad then none else some d.next
  | none => none

/-- A descriptor read ahead has arrived. -/
def Chan.gotDesc (c : Chan) (b : Bytes) : Chan :=
  match c.reading with
  | some a => { c with ahead := c.ahead ++ [(a, some b)], reading := none, list := nextDesc (some b) }
  | none => c

/-- The bytes of a descriptor have come; a channel that stops drops them. -/
def Chan.takeDesc (c : Chan) (b : Bytes) : Chan := if c.st = .stopping then { c with reading := none } else c.gotDesc b

/-- MOVER_DESCRIPTOR_READ (R255): the next descriptor of a list, at most two ahead. -/
def execMoverDescriptorRead (ch : ChanId) (s : State) : Out :=
  let c := s.chan ch
  let dom := s.chanDomain ch
  match c.list with
  | some a =>
    if !s.targetOn ∨ c.st = .idle ∨ c.st = .stopping ∨ c.reading.isSome ∨ 2 ≤ c.ahead.length then .next s
    else if spaceOf a = 2 ∨ spaceOf a = 3 then
      .next ((s.setChan ch { c with reading := some a, list := none }).readOut (.chanDesc ch) (s.chanClass ch) dom a 64
        (some ch))
    else if spaceOf a = 8 then
      match s.outWindow a 64 1 with
      | some (n, addr) => .next ((s.setChan ch { c with reading := some a, list := none }).sendDesc n ch a addr)
      | none => .next (s.setChan ch { c with ahead := c.ahead ++ [(a, none)], list := none })
    else match s.readNow dom a 64 with
      | .bytes b => .next (s.setChan ch ({ c with reading := some a }.gotDesc b))
      | .wait => .next s
      | .denied => .next (s.setChan ch { c with ahead := c.ahead ++ [(a, none)], list := none })
  | none => .next s

/-- A malformed descriptor as it starts: it moves nothing, and the list goes on to some next descriptor or ends with it,
which R8 leaves open (log entry 7). -/
def MoverDesc.broken (d : MoverDesc) (v : Nat) : MoverDesc :=
  { d with op := 2, swap := 0, esize := 0, last := d.last || bitOf v 0, next := d.next / 64 * 64 }

/-- A descriptor starts: the channel takes it, with what it writes. -/
def Chan.start (c : Chan) (d : MoverDesc) (rest : List (Nat × Option Bytes)) (ds : List Wild) : Chan :=
  { c with
    ahead := rest, cur := some d, iter := 0, part := 0, dno := c.dno + 1, dests := c.dests ++ ds
    since := if d.barrier then [] else c.since ++ ds
    st := if d.total = 0 ∧ d.barrier then .barrier else .running }

/-- A descriptor of an operation starts on a channel (R251, R252, R255); a malformed one starts whatever its
operation. -/
def State.startDesc (s : State) (ch op : Nat) : Out :=
  let c := s.chan ch
  if !s.targetOn ∨ c.st ≠ .running ∨ c.cur.isSome then .next s
  else match c.ahead with
    | (a, none) :: _ => .next (s.stopChan ch 1 (some (a, 1)))
    | (_, some b) :: rest =>
      let d := MoverDesc.ofBytes b
      if d.bad || reservedMover b then
        let (v, s) := s.draw
        let e := d.broken v
        let s := s.checkDesc ch d true
        .next (s.setChan ch { (s.chan ch).start e rest d.dests with list := if e.last then none else some e.next })
      else if d.op ≠ op then .next s
      else
        let s := s.checkDesc ch d false
        .next (s.setChan ch ((s.chan ch).start d rest d.dests))
    | [] => .next s

/-- COPY (R251). -/
def execCopy (ch : ChanId) (s : State) : Out := s.startDesc ch 0

/-- FILL (R251). -/
def execFill (ch : ChanId) (s : State) : Out := s.startDesc ch 1

/-- NOP (R249). -/
def execNop (ch : ChanId) (s : State) : Out := s.startDesc ch 2

/-- MOVER_DESCRIPTOR_COMPLETE (R253 to R255): after the last burst, or after the barrier wait. -/
def execMoverDescriptorComplete (ch : ChanId) (s : State) : Out :=
  let c := s.chan ch
  match c.cur with
  | some d =>
    if !s.targetOn ∨ c.st = .idle ∨ c.st = .stopping ∨ c.iter < d.total ∨ (d.barrier && !s.chanQuiet ch) then .next s
    else
      let s := if d.irq then
          ((s.setChan ch { c with last := d.tag }).raise Reg.mvNotice (2 ^ ch.val)).tallyNotice 114
        else s
      if d.last then .next (s.nextList ch 0)
      else .next (s.modChan ch fun c => { c with cur := none, st := .running, iter := 0, part := 0 })
  | none => .next s

/-- FIRMWARE_CHANNEL_START (R257): one descriptor, taken as LAST = 1, on an idle channel of the Storekeeper.
Its addresses in spaces 0x2 and 0x3 are package addresses whatever PHYS says: the firmware domain has no PASID
(log entry 17). -/
def execFirmwareChannelStart (ch : FwChanId) (desc : Bytes) (phys : Bool) (s : State) : Out :=
  let n := 28 + ch.val
  let c := s.chan n
  if !s.sk.up || s.sk.skLost || !s.targetOn || c.st ≠ .idle then .next s
  else
    let b := fit 64 desc
    let b := b.set 1 (b.getD 1 0#8 ||| 2#8)
    .next (s.setChan n { c with
      st := .running, code := 0, fault := none, list := none, ahead := [(0, some b)], phys := phys })

/-! ### Cold fetches -/

/-- A part of a cold fetch has arrived. -/
def State.coldGot (s : State) (tag a : Nat) (data : Bytes) : State :=
  s.modMov fun m => { m with
    flight := m.flight.map fun f =>
      if f.c.tag = tag then { f with left := f.left - data.length, parts := f.parts ++ [(a, data)] } else f }

/-- The bytes of the row of a cold fetch. -/
def ColdFlight.row (f : ColdFlight) : Bytes :=
  (List.range f.c.len).map fun i => (stagedByte f.parts (f.c.addr + i)).getD 0#8

/-- COLD_FETCH_RETURN (R229, R267): the row goes to its engine once every part has arrived; one that was
denied returns with no data, once none of its reads is out. -/
def execColdFetchReturn (tag : BitVec 23) (s : State) : Out :=
  let out := s.readPending (fun o => o == .cold tag.toNat) 0 (2 ^ 53)
  match s.mov.flight.find? fun f => s.targetOn && f.c.tag == tag.toNat && (f.left == 0 || (f.bad && !out)) with
  | some f =>
    let s := s.modMov fun m => { m with flight := m.flight.filter (· != f) }
    .next (s.deliver tag.toNat (if f.bad then none else some f.row) true)
  | none => .next s

end Sys2Proof.Machine
end

