-- ==== Sys2Proof/Machine/Translate.lean ====
section
/-! DEFINITION. The fault table's service and invalidations (R262, R265), with the demotion of promoted pages
that an invalidation reaches (R232). -/

namespace Sys2Proof.Machine

open Sys2Proof

/-- FAULT_TAKE (R265): the Storekeeper takes a waiting entry, at most 8 at once. -/
def execFaultTake (e : FaultId) (s : State) : Out :=
  let walks := s.mov.faults.countP fun x => x.2.any FaultEnt.walking
  match s.faultEnt e with
  | some f =>
    if !s.sk.up || s.sk.skLost || !s.targetOn || f.walking || 8 ≤ walks then .next s
    else .next (s.setFault e (some { f with walking := true }))
  | none => .next s

/-- A page lies in a migrate-on-touch range of the image, all of it (R260). -/
def Cfg.isMot (c : Cfg) (pasid space va size : Nat) : Bool :=
  space == 2 && c.trans.mot.any fun p => p.pasid == pasid && p.space == space && p.va ≤ va &&
    va + size ≤ p.va + p.units * 2 ^ 28

/-- A page is one that the image locks (R261). -/
def Cfg.isLocked (c : Cfg) (pasid space va : Nat) : Bool :=
  c.trans.locked.any fun p => p.pasid == pasid && p.space == space &&
    va == p.va / (if p.big then 2 ^ 34 else 2 ^ 28) * (if p.big then 2 ^ 34 else 2 ^ 28)

/-- The translation copy entry of a mapping for a page address (R259 to R261). Its rights are those of the page. -/
def Cfg.tcEntry (c : Cfg) (pasid space va : Nat) (m : PageMapping) : TcEnt :=
  let size := if m.big then 2 ^ 34 else 2 ^ 28
  let v := va / size * size
  { locked := c.isLocked pasid space v, mot := c.isMot pasid space v size, big := m.big, space := space, pasid := pasid
    va := v, pa := m.pa / size * size, r := m.r, w := m.w, a := m.a, touch := 0 }

/-- The fault entries that a mapping of one of them completes: a 16 GiB page completes every entry in it. -/
def FaultEnt.inPage (t : FaultEnt) (m : TcEnt) : Bool := m.covers t.pasid t.space t.va

/-- WALK_DONE (R265): the walk of an entry ends with a mapping or none. A page of another size is no mapping
(R260). -/
def execWalkDone (e : FaultId) (res : Option PageMapping) (s : State) : Out :=
  match s.faultEnt e with
  | some f =>
    if !f.walking || !s.sk.up || s.sk.skLost || !s.targetOn then .next s
    else if f.stale then .next ((s.setFault e (some { f with stale := false })).count 0x017)
    else match res with
      | none =>
        let s := s.setFault e none
        .next ((s.each f.waiters fun s a => (s.unqueue a).denied a.own a.addr (if a.write then 2 else 1)).retryPort)
      | some m =>
        let t := s.cfg.tcEntry f.pasid f.space f.va m
        let ends := s.mov.faults.filter fun x => x.2.any fun g => x.1 == e.val || (m.big && g.inPage t)
        let s := (s.tcFill t).count 0x016
        let s := s.each ends fun s x => s.setFault x.1 none
        .next ((s.each ends fun s x => s.resumeAll ((x.2.map FaultEnt.waiters).getD [])).retryPort)
  | none => .next s

/-! ### Invalidations (R262) -/

/-- A page of some size is in the scope of an invalidation. -/
def inScope (sc : InvScope) (pasid space va size : Nat) : Bool :=
  match sc with
  | .range p sp a n => p.toNat == pasid && sp == space && a < va + size && va < a + n
  | .pasid p => p.toNat == pasid
  | .all => true

/-- A promoted page is demoted: its frame drains until every fetch issued to it has returned (R232). -/
def State.demote (s : State) (f : Nat) : State :=
  match s.frame f with
  | .held _ => (s.setFrame f .draining).count 0x013
  | .copying _ _ => s.setFrame f .draining
  | _ => s

/-- A promotion of a frame is in some scope. -/
def FrameSt.inScope (f : FrameSt) (sc : InvScope) : Bool :=
  let hit (p : Promo) := Machine.inScope sc p.pasid p.space p.va (if p.big then 2 ^ 34 else 2 ^ 28)
  match f with
  | .held p => hit p
  | .copying p _ => hit p
  | _ => false

/-- TRANSLATION_INVALIDATE (R262, steps 1 to 3): entries in scope go, fault entries in scope are stale, and
promoted pages in scope are demoted. Accesses translated before it keep their translation. -/
def execTranslationInvalidate (scope : InvScope) (s : State) : Out :=
  if !s.targetOn then .next s
  else
    let gone := s.mov.tc.filter fun e => e.2.any fun t => inScope scope t.pasid t.space t.va t.size
    let frames := s.mov.frames.filter fun e => e.2.inScope scope
    let s := s.count 0x018
    let s := s.modMov fun m => { m with
      tc := m.tc.filter fun e => !(e.2.any fun t => inScope scope t.pasid t.space t.va t.size)
      lru := m.lru.filter fun i => !(gone.any fun e => e.1 == i)
      faults := m.faults.map fun e => (e.1, e.2.map fun t =>
        if inScope scope t.pasid t.space t.va (2 ^ 28) then { t with stale := true } else t)
      invals := m.invals ++ [(gone.filterMap (·.2), m.serial)], serial := m.serial + 1 }
    .next (s.each (frames.map (·.1)) State.demote)

/-- An access that was translated with one of some entries before a point in the order of translations. -/
def State.usedBefore (s : State) (es : List TcEnt) (n dom dev serial : Nat) : Bool :=
  serial < n && dom != 16 && es.any fun e => e.covers (s.cfg.domain dom).pasid (spaceOf dev) (dev % 2 ^ 48)

/-- An access made with one of some entries has not completed (R262, step 4); those of older host epochs count as
completed (R292). -/
def State.invalBusy (s : State) (es : List TcEnt) (n : Nat) : Bool :=
  let req (r : HiReq) : Bool := !r.old && s.usedBefore es n r.domain r.dev r.serial
  (s.hi.any fun e => e.2.queue.any req || e.2.flight.any fun r => r.2.any req) ||
    s.mov.chans.any fun e => e.2.reads.any fun r =>
      r.srcs.any (fun p => s.usedBefore es n r.domain p.1 r.serial) ||
        r.dsts.any fun p => s.usedBefore es n r.domain p.1 r.serial

/-- INVALIDATION_DONE (R262, steps 4 and 5): the oldest invalidation ends when every access made with an entry
it removed has completed; a younger one ends after it (DESIGN CHOICE, log entry 73). -/
def execInvalidationDone (s : State) : Out :=
  match s.mov.invals with
  | (es, n) :: rest =>
    if !s.targetOn || s.invalBusy es n then .next s
    else .next (s.modMov fun m => { m with invals := rest, invalDone := m.invalDone + 1 })
  | [] => .next s

end Sys2Proof.Machine
end

