-- ==== Sys2Proof/Machine/HostPort.lean ====
section
/-! DEFINITION. The Host Port: credits and issue on the initiator channels (R109, R273 to R276), their answers
(R275, R286), and the host epoch (R291 to R294). -/

namespace Sys2Proof.Machine

open Sys2Proof

/-! ### Credits -/

/-- REQUEST_CREDIT (R275, R276): requests that found no channel with a credit go to the first that gets one. A
credit that comes while PORT_UP = 0 is lost (R294; DESIGN CHOICE, log entry 75). -/
def execRequestCredit (c : HiChanId) (s : State) : Out :=
  if !s.targetOn || !s.host.portUp then .next s
  else
    let q := s.hiChan c
    let pool := s.hiChan hiPool
    let s := s.setHiChan hiPool { pool with queue := [] }
    .next (s.setHiChan c { q with credits := q.credits + 1, queue := q.queue ++ pool.queue })

/-- WRITE_BEAT_CREDIT (R275). -/
def execWriteBeatCredit (c : HiChanId) (s : State) : Out :=
  if !s.targetOn || !s.host.portUp then .next s
  else
    let q := s.hiChan c
    .next (s.setHiChan c { q with beats := q.beats + 1 })

/-- TARGET_CREDIT_START (R270): 64 write beat credits and 8 read request credits. -/
def execTargetCreditStart (s : State) : Out :=
  if s.targetOn && !s.pwr.credits then
    .next { s with pwr := { s.pwr with credits := true, wcred := 64, rcred := 8 } }
  else .next s

/-! ### Issue -/

/-- The 128-byte blocks that a request's data touches (R275). -/
def HiReq.beats (r : HiReq) : Nat :=
  if r.ty = .write ∨ r.ty = .writePc then ceilDiv (r.pa % 128 + r.len) 128 else 0

/-- The stream of a request (R109): one task's traffic, one mover channel's, or one other part's. -/
def State.streamOf (s : State) (o : Owner) : Nat × Nat :=
  match o with
  | .work w => (0, s.root w)
  | .result w => (0, s.root w)
  | .record w => (0, s.root w)
  | .flush w => (0, s.root w)
  | .cold tag => (0, ((s.tagWork tag).map s.root).getD 0)
  | .porter _ w => (0, s.root w)
  | .chanRead ch _ => (1, ch)
  | .chanWrite ch _ => (1, ch)
  | .chanDesc ch => (1, ch)
  | .descr r _ => (2, r)
  | .peer c _ => (3, c)
  | .tally u => (4, u)
  | .snap => (5, 0)
  | .stage => (6, 0)
  | .none => (7, 0)

/-- The first request of each stream of a queue, in order. -/
def State.heads (s : State) : List (Nat × Nat) → List HiReq → List HiReq
  | _, [] => []
  | seen, r :: rs =>
    let k := s.streamOf r.own
    if seen.contains k then s.heads seen rs else r :: s.heads (k :: seen) rs

/-- Reads of a channel in flight. -/
def HiChan.readsOut (q : HiChan) : Nat := q.flight.countP fun e => e.2.any fun r => r.ty == .read

/-- A request may be presented now: its data beats have credits, and fewer than 1,024 reads are outstanding. -/
def HiChan.canIssue (q : HiChan) (r : HiReq) : Bool :=
  r.beats ≤ q.beats && (r.ty != .read || q.readsOut < 1024)

/-- An identifier that is free; when none is, one whose answer would be discarded (log entry 18). -/
def HiChan.freeId (q : HiChan) (base : Nat) : Option Nat :=
  let ids := (List.range 1024).map (base + ·)
  match ids.find? fun i => (q.flight.get none i).isNone with
  | some i => some i
  | none => ids.find? fun i => (q.flight.get none i).any HiReq.old

/-- A request leaves a channel: it takes its credits and an identifier. -/
def State.present (s : State) (c : Nat) (r : HiReq) : State :=
  let q := s.hiChan c
  match q.freeId (if r.ty = .read then 0 else 1024) with
  | some i =>
    let s := s.setHiChan c { q with
      credits := q.credits - 1, beats := q.beats - r.beats
      queue := eraseFirst (fun x => x == r) q.queue, flight := q.flight.set none i (some r) }
    if r.ty = .read then s else s.ownIssued r.own
  | none => s

/-- INITIATOR_ISSUE (R21, R109, R275): a ready class 0 request goes first; among the streams of the other
classes the grant depends on drain rates that the model does not count, and is a free value (log entry 2). -/
def execInitiatorIssue (c : HiChanId) (s : State) : Out :=
  let q := s.hiChan c
  if !s.targetOn || !s.host.portUp || q.credits = 0 then .next s
  else
    let hs := (s.heads [] q.queue).filter q.canIssue
    match hs.find? fun r => r.cls == 0 with
    | some r => .next (s.present c r)
    | none =>
      match hs with
      | [] => .next s
      | [r] => .next (s.present c r)
      | r :: _ =>
        let (v, s) := s.draw
        .next (s.present c (hs.getD (v % hs.length) r))

/-! ### Answers -/

/-- A peer READ_REQ served from host memory: its bytes have arrived; when all are there its READ_RESP is sent
(R304, R305). -/
def State.peerGot (s : State) (c psn a : Nat) (data : Bytes) : State :=
  let k := s.conn c
  match k.serve.find? fun r => r.psn == psn with
  | some r =>
    let r := { r with got := r.got ++ [(a, data)] }
    let bs := (List.range r.len).map fun i => stagedByte r.got (r.dev + i)
    if bs.all Option.isSome then
      (s.setConn c { k with serve := k.serve.filter fun x => x.psn != psn }).sendSeq c
        (Sent.new 2 r.addr r.len r.readId none (bs.map fun b => b.getD 0#8))
    else s.setConn c { k with serve := k.serve.map fun x => if x.psn = psn then r else x }
  | none => s

/-- Read data reaches what asked for it. -/
def State.answer (s : State) (r : HiReq) (data : Bytes) : State :=
  match r.own with
  | .descr g slot => s.setRing g ((s.ring g).gotDesc slot (.bytes data))
  | .work w => s.modWork w fun k => if k.ended then k else { k with staged := k.staged ++ [(r.dev, data)] }
  | .cold tag => s.coldGot tag r.dev data
  | .chanRead ch k => s.chanGot ch k r.dev data
  | .chanDesc ch => s.modChan ch fun c => c.takeDesc data
  | .peer c psn => s.peerGot c psn r.dev data
  | _ => s

/-- The right that a request needs: 1 R, 2 W (R240). -/
def HiReq.need (r : HiReq) : Nat := if r.ty = .read then 1 else 2

/-- A request leaves the channel's outstanding set. -/
def State.retire (s : State) (c id : Nat) : State :=
  let q := s.hiChan c
  s.setHiChan c { q with flight := q.flight.set none id none }

/-- DENIED and POISON are counted (R275, R442). -/
def State.countResp (s : State) (resp : Resp) : State :=
  match resp with
  | .ok => s
  | .denied => s.count 0x01B
  | .poison => s.count 0x01C

/-- READ_DATA (R275, R292). -/
def execReadData (c : HiChanId) (id : ReqId) (resp : Resp) (data : Bytes) (s : State) : Out :=
  match (s.hiChan c).flight.get none id.toNat with
  | some r =>
    let s := s.retire c id.toNat
    if r.old then .next s
    else if resp = .ok then .next (s.answer r (fit r.len data))
    else .next ((s.countResp resp).denied r.own r.dev r.need)
  | none => .next s

/-- WRITE_RESPONSE (R275, R286, R292). -/
def execWriteResponse (c : HiChanId) (id : ReqId) (resp : Resp) (s : State) : Out :=
  match (s.hiChan c).flight.get none (1024 + id.toNat) with
  | some r =>
    let s := s.retire c (1024 + id.toNat)
    if r.old then .next s
    else
      let s := s.ownAcked r.own true
      if resp = .ok then .next s else .next ((s.countResp resp).denied r.own r.dev r.need)
  | none => .next s

/-! ### The host epoch -/

/-- Some destination of a task lies in host memory: results, side records, statistics (R292). -/
def Work.hostDest (k : Work) : Bool :=
  let d := k.desc
  (d.kind == some .gather || (d.kind == some .score && d.score.mode != 3)) &&
    ((k.link.isNone && spaceOf d.result == 3) || (d.sideEn && spaceOf d.side == 3) || (d.statsEn && spaceOf d.stats == 3))

/-- A ring whose submission or completion ring lies in host memory (R293). -/
def State.hostRing (s : State) (r : Nat) : Bool := spaceOf (s.sqAddr r) == 3 || spaceOf (s.cqAddr r) == 3

/-- A piece of work that a host epoch rise ends (R292, R293). -/
def State.epochEnds (s : State) (w : Nat) (k : Work) : Bool :=
  match k.src with
  | .ring r _ => s.hostRing r || k.hostDest || (s.kids w).any fun j => (s.work j).any Work.hostDest
  | .class0 _ _ => k.doorbell.any fun d => spaceOf d.result == 3
  | .porter _ _ _ _ => false

/-- A work is ended by the epoch; one that may write no record or trailer is dead (R292, R293). -/
def State.epochEnd (s : State) (w : Nat) (k : Work) : State :=
  let dead := match k.src with
    | .ring r _ => s.hostRing r
    | _ => true
  let s := s.endWork w 3
  if dead then s.modWork w fun k => { k with dead := true } else s

/-- A channel whose current descriptor touches host memory (R256). -/
def Chan.touchesHost (c : Chan) : Bool :=
  c.st != .idle && c.cur.any fun d => (d.op == 0 && spaceOf d.src == 3) || (d.op != 2 && spaceOf d.dst == 3)

/-- A read that is issued again in the new epoch: one of work, of a channel or of a part that continues; lost are the
channels whose descriptor touches host memory (R292). A channel that stops for another reason completes its bursts. -/
def State.carries (s : State) (lost : List Nat) (r : HiReq) : Bool :=
  r.ty == .read && match r.own with
  | .work w => (s.work w).any fun k => !k.ended
  | .chanRead ch _ => !lost.contains ch
  | .chanDesc ch => (s.chan ch).st != .stopping
  | .descr r _ => !s.hostRing r
  | _ => true

/-- A request that was discarded before its issue counts no longer in any wait; a flush that was not issued counts as
acknowledged with the writes before it (DESIGN CHOICE, log entry 18). -/
def State.discard (s : State) (r : HiReq) : State :=
  if r.ty = .read then
    match r.own with
    | .chanDesc ch => s.modChan ch fun c => { c with reading := none }
    | _ => s
  else (s.ownIssued r.own).ownAcked r.own true

/-- The initiator channels after a rise: issued writes count as acknowledged, requests that were not issued are
discarded, and the reads that go on wait again (R292). -/
def State.resetChannel (s : State) (lost : List Nat) (c : Nat) : State :=
  let q := s.hiChan c
  let live := q.flight.filterMap fun e => e.2.bind fun r => if r.old then none else some r
  let s := s.each (live.filter fun r => r.ty != .read) fun s r => s.ownAcked r.own true
  let rest := (live.filter fun r => r.ty == .read) ++ q.queue
  let s := s.each (rest.filter fun r => !s.carries lost r) State.discard
  s.setHiChan c
    { credits := 0, beats := 0, queue := rest.filter (s.carries lost)
      flight := q.flight.map fun e => (e.1, e.2.map fun r => { r with old := true }) }

/-- HOST_PORT_RESUME (R294). -/
def execHostPortResume (s : State) : Out :=
  if s.targetOn then .next { s with host := { s.host with rstN := true, linkUp := true, portUp := true } } else .next s

end Sys2Proof.Machine
end

