-- ==== Sys2Proof/Machine/Peer.lean ====
section
/-! DEFINITION. The Peer Ports: reception, windows, reliability and the protected management class (R298 to
R312). -/

namespace Sys2Proof.Machine

open Sys2Proof

/-! ### The header (R303) -/

/-- The fields of a peer packet. -/
structure PeerHdr where
  ver : Nat
  ty : Nat
  conn : Nat
  psn : Nat
  ack : Nat
  sack : Nat
  off : Nat
  win : Nat
  len : Nat
  aux : Nat
  deriving DecidableEq, Repr

/-- The header of a payload. -/
def PeerHdr.ofBytes (b : Bytes) : PeerHdr :=
  { ver := fld (leAt b 0 1) 3 0, ty := fld (leAt b 0 1) 7 4, conn := leAt b 2 1, psn := leAt b 4 4, ack := leAt b 8 4
    sack := leAt b 12 4, off := fld (leAt b 16 8) 39 0, win := fld (leAt b 16 8) 47 40, len := leAt b 24 2
    aux := leAt b 26 2 }

/-- The data or body of a payload. -/
def rxData (k : PeerRx) : Bytes := slice k.payload 32 (PeerHdr.ofBytes k.payload).len

/-- The CRC-32C of a payload holds (R303). -/
def rxCrcOk (k : PeerRx) : Bool :=
  32 ≤ k.payload.length &&
    (crc32c (k.payload.take 28 ++ zeros 4 ++ k.payload.drop 32)).toNat == leAt k.payload 28 4

/-- The types of R304. -/
def peerTypes : List Nat := [0, 1, 2, 3, 4, 8]

/-! ### Drops (R298, R299) -/

/-- A management packet by its type. -/
def rxMgmt (k : PeerRx) : Bool := (PeerHdr.ofBytes k.payload).ty == 8

/-- The buffer of a packet has no room: 256 KiB of data packets, or 64 management packets. -/
def State.noRoom (s : State) (p : Nat) (k : PeerRx) : Bool :=
  let q := s.port p
  if rxMgmt k then 64 ≤ q.held.countP rxMgmt else 262144 < q.buffered + k.payload.length

/-- The counter of a packet that is dropped: a full buffer, rx_err, a bad CRC, a reserved TYPE or VER. -/
def State.dropCause (s : State) (p : Nat) (k : PeerRx) : Option Nat :=
  let h := PeerHdr.ofBytes k.payload
  if s.noRoom p k then some 4
  else if k.err then some 5
  else if !rxCrcOk k then some 6
  else if h.ver ≠ 1 ∨ !peerTypes.contains h.ty then some 7
  else none

/-- The source of a packet matches its connection's entry (R299). -/
def State.sourceOk (s : State) (k : PeerRx) : Bool :=
  let c := (PeerHdr.ofBytes k.payload).conn
  let ctl := s.reg (Reg.pwCn c + 0x10)
  let ip := s.reg (Reg.pwCn c) + if k.ipv6 then s.reg (Reg.pwCn c + 8) * 2 ^ 64 else 0
  bitOf ctl 0 && bitOf ctl 1 == k.ipv6 && fld ctl 31 16 == k.srcPort &&
    (if k.ipv6 then ip == k.srcIp else fld ip 31 0 == k.srcIp)

/-- The Peer Ports run (R295, PW_CTL.EN). -/
def State.peerOn (s : State) : Bool := s.targetOn && bitOf (s.reg Reg.pwCtl) 0

/-- A packet dropped and counted. A management packet that fails its CRC fails a check of R310 and sets MGMT_AUTH. -/
def State.dropPacket (s : State) (p : Nat) (k : PeerRx) (j : Nat) : State :=
  let s := s.count (peerCounter p j)
  if j = 6 && rxMgmt k then (s.raise Reg.pwNotice 2).tallyNotice 116 else s

/-- PEER_PACKET_DROP (R298). -/
def execPeerPacketDrop (p : PortId) (pkt : PeerRx) (s : State) : Out :=
  if !s.peerOn then .next s
  else match s.dropCause p pkt with
    | some j => .next (s.dropPacket p pkt j)
    | none => .next s

/-! ### The sender's side -/

/-- PSN a lies before PSN b, modulo 2^32. -/
def psnBefore (a b : Nat) : Bool := 0 < posDiff b a && posDiff b a ≤ 2 ^ 31

/-- A PSN that is no older than its comparison modulo 2^32 with another allows (R305). -/
def psnNear (a b : Nat) : Bool := psnBefore a b || posDiff a b ≤ 512

/-- A packet queued again (R307). -/
def State.resend (s : State) (c psn : Nat) : State :=
  let p := s.cnPort c
  let q := s.port p
  s.setPort p { q with queue := q.queue ++ [⟨2, c, [], some psn, none⟩] }

/-- A sequenced packet of a connection waits at its port. -/
def State.queuedPsn (s : State) (c psn : Nat) : Bool :=
  (s.port (s.cnPort c)).queue.any fun x => x.conn == c && x.psn == some psn

/-- ACK_PSN and SACK of a received packet (R307, R308): what they acknowledge leaves the sender, an advance
restores the interval and ends LOST, a PSN that three later ones passed is sent again once an interval, and packets that
waited for room go on. What the mover sent is remembered for a late NAK as long as the receiver records PSNs (R305,
R309). -/
def State.applyAck (s : State) (c ack sack : Nat) : State :=
  let k := s.conn c
  let adv := psnBefore k.una ack
  let una := if adv then ack else k.una
  let got := (Machine.setBits 32 sack).map fun i => (ack + 1 + i) % 2 ^ 32
  let gone (n : Nat) : Bool := psnBefore n una || got.contains n
  let left := (k.sent.filter fun x => !gone x.psn).map fun x => if adv then { x with resent := false } else x
  let again := (left.filter fun x => !x.resent && 3 ≤ got.countP fun n => psnBefore x.psn n).map Sent.psn
  let p := s.cnPort c
  let q := s.port p
  let s := s.setPort p { q with queue := q.queue.filter fun x => !(x.conn == c && x.psn.any gone) }
  let s := s.setConn c { k with
    past := (((k.sent.filter fun (x : Sent) => gone x.psn && x.ch.isSome).map fun (x : Sent) => { x with data := [] }).reverse ++
      k.past).filter fun (x : Sent) => psnNear x.psn una
    una := una, expiries := if adv then 0 else k.expiries, lost := k.lost && !adv
    sent := left.map fun x => if again.contains x.psn then { x with resent := true } else x }
  let s := s.each again fun s n => s.resend c n
  s.each ((s.peer.conns.map (·.1)).filter fun i => s.cnPort i == p) State.drainSeq

/-! ### The receiver's side -/

/-- An inbound window's answer to a request (R301, R309): the domain and the local address, or a NAK code. -/
def State.inWindow (s : State) (c w off len need : Nat) : Except Nat (Nat × Nat) :=
  let b := s.reg (Reg.pwIb w)
  let z := s.reg (Reg.pwIb w + 8)
  let a := fld b 51 0 + off
  let dom := fld z 43 40
  if !bitOf b 52 || !(bitOf b 55 || fld b 63 56 == c) then .error 1
  else if fld z 39 0 + 1 < off + len then .error 2
  else if !bitOf b (if need = 1 then 53 else 54) then .error 3
  else if spaceOf a = 0 then (if len = 0 || s.allows dom a len need then .ok (dom, a) else .error 3)
  else if spaceOf a = 3 && a < 2 ^ 52 then .ok (dom, a)
  else .error 3

/-- A packet is recorded as received (R305, R306): one out of order, and one that fills a hole, ask for an ACK. -/
def State.recordPsn (s : State) (c psn : Nat) : State :=
  let k := s.conn c
  let order := psn != k.exp || !k.got.isEmpty
  let k := k.record psn
  s.setConn c { k with
    since := k.since + 1, naks := k.naks.filter fun n => psnNear n.1 k.exp
    due := if order then k.due ++ [psn] else k.due }

/-- A sequenced packet (R305): a duplicate is answered at once, by its NAK again when it was refused; a PSN
256 or more past EXP is dropped; any other is applied. -/
def State.sequenced (s : State) (p : Nat) (h : PeerHdr) (f : State → State) : State :=
  let c := h.conn
  let s := s.applyAck c h.ack h.sack
  let k := s.conn c
  if k.recorded h.psn then
    let s := (s.count (peerCounter p 3)).sendAck c
    match k.naks.find? fun n => n.1 == h.psn with
    | some (_, code) => s.sendNak c h.psn code
    | none => s
  else if 256 ≤ posDiff h.psn k.exp then s
  else (f (s.recordPsn c h.psn)).dueAck c

/-- A WRITE applied (R301). One into host memory takes any initiator channel, since R276 has no row for it (DESIGN CHOICE,
log entry 76). -/
def State.applyWrite (s : State) (p : Nat) (h : PeerHdr) (data : Bytes) : State :=
  match s.inWindow h.conn h.win h.off h.len 2 with
  | .error code => s.refuse h.conn h.psn code
  | .ok (dom, a) => ((s.count (peerCounter p 2)).writeOut (.peer h.conn h.psn) 2 dom a data false none).1

/-- A READ_REQ applied (R301, R305): one READ_RESP, at once or when the local read has ended. -/
def State.applyReadReq (s : State) (p : Nat) (h : PeerHdr) : State :=
  let c := h.conn
  let addr := h.off + put h.win 8 40
  match s.inWindow c h.win h.off h.len 1 with
  | .error code => s.refuse c h.psn code
  | .ok (dom, a) =>
    let s := s.count (peerCounter p 2)
    if spaceOf a = 3 ∧ h.len ≠ 0 then
      let k := s.conn c
      (s.setConn c { k with serve := k.serve ++ [⟨h.psn, h.aux, addr, a, h.len, []⟩] }).readOut (.peer c h.psn) 2 dom a
        h.len none
    else s.sendSeq c (Sent.new 2 addr h.len h.aux (some a) (s.load a h.len))

/-- The bytes of a READ_RESP given to the descriptor or the parts of bursts that asked for them, in order. -/
def State.giveParts (s : State) : List PeerWant → Bytes → State
  | [], _ => s
  | r :: rs, data =>
    let b := data.take r.len
    (match r.burst with
      | some k => s.chanGot r.ch k r.addr b
      | none => s.modChan r.ch fun c => c.takeDesc b).giveParts rs (data.drop r.len)

/-- A READ_RESP applied (R304): its data goes to the mover channel that asked. -/
def State.applyReadResp (s : State) (p : Nat) (h : PeerHdr) (data : Bytes) : State :=
  let s := s.count (peerCounter p 2)
  let k := s.conn h.conn
  (s.setConn h.conn { k with reads := k.reads.filter fun r => r.id != h.aux }).giveParts
    (k.reads.filter fun r => r.id == h.aux) data

/-- A NAK (R309): the channel that sent the packet ends with ACCESS_VIOLATION, and the packet's bursts with it, also when
an acknowledgement has covered the packet before; a descriptor that it asked for could not be read (R255). -/
def State.applyNak (s : State) (p : Nat) (h : PeerHdr) : State :=
  let s := s.count (peerCounter p 10)
  let c := h.conn
  let k := s.conn c
  match (k.sent ++ k.past).find? fun x => x.psn == h.ack with
  | some x =>
    let s := s.setConn c { k with
      sent := k.sent.filter fun y => y.psn != h.ack, past := k.past.filter fun y => y.psn != h.ack
      reads := if x.ty = 1 then k.reads.filter fun r => r.id != x.aux else k.reads }
    let s := if x.ty = 1 then
        s.each (k.reads.filter fun r => r.id == x.aux) fun s r => match r.burst with
          | some b => s.modChan r.ch fun q => { q with reads := q.reads.filter fun y => y.num != b }
          | none => s.denied (.chanDesc r.ch) r.addr 1
      else s
    if x.ty = 1 ∧ x.dno = 0 then s.drainSeq c
    else match x.ch with
    | some (ch, a) => (s.failWrite ch x.work a (if x.ty = 1 then 1 else 2)).drainSeq c
    | none => s.drainSeq c
  | none => s

/-- A data packet handled. -/
def State.peerData (s : State) (p : Nat) (pkt : PeerRx) : State :=
  let h := PeerHdr.ofBytes pkt.payload
  if !s.sourceOk pkt then s.count (peerCounter p 8)
  else match h.ty with
    | 0 => s.sequenced p h fun s => s.applyWrite p h (rxData pkt)
    | 1 => s.sequenced p h fun s => s.applyReadReq p h
    | 2 => s.sequenced p h fun s => s.applyReadResp p h (rxData pkt)
    | 3 => s.applyAck h.conn h.ack h.sack
    | _ => s.applyNak p h

/-! ### The protected management class (R310, R311) -/

/-- A management message checked: the key, TAG and SEQ; the key's slot, SEQ and message when it passes. -/
def State.mgmtCheck (s : State) (pkt : PeerRx) : Option (Nat × Nat × Bytes) :=
  let h := PeerHdr.ofBytes pkt.payload
  let body := (rxData pkt)
  let key := leAt body 0 1
  let seq := leAt body 8 8
  match s.sk.hmac.getD key none with
  | some (kb, high) =>
    let signed := body.take (h.len - 32)
    if h.len < 48 then none
    else if hmacSha256 kb (pkt.payload.take 28 ++ signed) ≠ body.drop (h.len - 32) then none
    else if seq ≤ high then none
    else some (key, seq, signed.drop 16)
  | none => none

/-- A management packet handled: delivered to the Storekeeper, or dropped with MGMT_AUTH. -/
def State.peerMgmt (s : State) (p : Nat) (pkt : PeerRx) : State :=
  if !s.sourceOk pkt then s.count (peerCounter p 8)
  else
    let s := s.count (peerCounter p 12)
    match s.mgmtCheck pkt with
    | some (key, seq, msg) =>
      let s := s.modSk fun k => { k with
        hmac := k.hmac.modify key fun e => e.map fun x => (x.1, seq)
        ceilings := k.ceilings.modify key fun c => if c ≤ seq then seq + 65536 else c }
      let q := s.port p
      s.setPort p { q with mgmtIn := q.mgmtIn ++ [((PeerHdr.ofBytes pkt.payload).conn, key, msg)] }
    | none =>
      (((s.raise Reg.pwNotice 2).tallyNotice 116).count (peerCounter p 13)).log 116 0 0x0032
        (leBytes 1 p ++ zeros 7 ++ leBytes 16 pkt.srcIp)

/-! ### Reception -/

/-- A packet kept in its receive buffer. -/
def State.holdPacket (s : State) (p : Nat) (pkt : PeerRx) : State :=
  let q := s.port p
  s.setPort p { q with
    held := q.held ++ [pkt], buffered := if rxMgmt pkt then q.buffered else q.buffered + pkt.payload.length }

/-- A received packet of some type: dropped and counted (R298); held while an activation drains, when it is a data packet (R391), or
while no Storekeeper takes management messages; else handled. -/
def State.receive (s : State) (p : Nat) (pkt : PeerRx) (ty : Nat) : Out :=
  if !s.peerOn then .next s
  else match s.dropCause p pkt with
    | some j => .next (s.dropPacket p pkt j)
    | none =>
      if (PeerHdr.ofBytes pkt.payload).ty ≠ ty then .next s
      else if ty = 8 then
        if s.sk.up && !s.sk.skLost then .next (s.peerMgmt p pkt) else .next (s.holdPacket p pkt)
      else if s.quiescing && ty ≤ 2 then .next (s.holdPacket p pkt)
      else .next (s.peerData p pkt)

/-- Held packets of one kind leave the receive buffers and are handled in order. -/
def State.releasePeers (s : State) (mgmt : Bool) : State :=
  s.each [0, 1] fun s p =>
    let q := s.port p
    let go := q.held.filter fun k => rxMgmt k == mgmt
    let s := s.setPort p { q with
      held := q.held.filter fun k => rxMgmt k != mgmt, buffered := if mgmt then q.buffered else 0 }
    s.each go fun s k => if mgmt then s.peerMgmt p k else s.peerData p k

/-- WRITE (R301, R305). -/
def execWrite (p : PortId) (pkt : PeerRx) (s : State) : Out := s.receive p pkt 0

/-- READ_REQ (R301, R305). -/
def execReadReq (p : PortId) (pkt : PeerRx) (s : State) : Out := s.receive p pkt 1

/-- READ_RESP (R304). -/
def execReadResp (p : PortId) (pkt : PeerRx) (s : State) : Out := s.receive p pkt 2

/-- ACK (R307). -/
def execAck (p : PortId) (pkt : PeerRx) (s : State) : Out := s.receive p pkt 3

/-- NAK (R309). -/
def execNak (p : PortId) (pkt : PeerRx) (s : State) : Out := s.receive p pkt 4

/-- MGMT (R310). -/
def execMgmt (p : PortId) (pkt : PeerRx) (s : State) : Out := s.receive p pkt 8

/-! ### Timers -/

/-- PEER_ACK_TIMER (R306). -/
def execPeerAckTimer (c : ConnId) (s : State) : Out :=
  if s.peerOn && s.cnValid c && ((s.conn c).since != 0 || (s.conn c).owes) then .next (s.sendAck c) else .next s

/-- PEER_RTO_EXPIRE (R307, R308): every packet that was sent and is not acknowledged goes again, oldest first. -/
def execPeerRtoExpire (c : ConnId) (s : State) : Out :=
  let k := s.conn c
  let again := (k.sent.filter fun x => !s.queuedPsn c x.psn).map Sent.psn
  if !s.peerOn || !s.cnValid c || again.isEmpty then .next s
  else
    let n := min 15 (k.expiries + 1)
    let lose := 8 ≤ n && !k.lost
    let s := s.setConn c { k with
      expiries := n, lost := k.lost || lose, sent := k.sent.map fun x => { x with resent := false } }
    let s := if lose then ((s.notice Reg.pwNotice 1 4).tallyNotice 116).count (peerCounter (s.cnPort c) 14) else s
    .next (s.each again fun s n => s.resend c n)

/-! ### Transmission -/

/-- The payload of a sequenced packet, built from its source (R303, R305). -/
def State.seqPayload (s : State) (c : Nat) (x : Sent) : Bytes :=
  let k := s.conn c
  let data := match x.src with
    | some a => s.load a x.len
    | none => x.data
  peerPacket x.ty (s.cnRconn c) x.psn k.ackPsn k.sack x.addr x.len x.aux (if x.ty = 1 then [] else data)

/-- The place of the next packet of a port (R312): management when 15 others have started since the last, then
ACK and NAK, then data, then management. -/
def PeerPort.pick (q : PeerPort) : Option PeerTx :=
  let first (k : Nat) := q.queue.find? fun x => x.kind == k
  let due := if 15 ≤ q.starts then first 1 else none
  ((due.orElse fun _ => first 0).orElse fun _ => first 2).orElse fun _ => first 1

/-- The sideband of a packet of a connection (R296, R312): the remote end of its entry, the local port, and the DSCP of
its kind. -/
def State.sideOf (s : State) (c kind : Nat) : PeerSide :=
  let ctl := s.reg (Reg.pwCn c + 0x10)
  let v6 := bitOf ctl 1
  { dstIp := if v6 then s.reg (Reg.pwCn c) + s.reg (Reg.pwCn c + 8) * 2 ^ 64 else fld (s.reg (Reg.pwCn c)) 31 0
    ipv6 := v6, dport := fld ctl 31 16, sport := s.regFld Reg.pwCtl 31 16
    dscp := if kind = 1 then s.regFld Reg.pwCtl 45 40 else s.regFld Reg.pwCtl 37 32 }

/-- The counters of a packet that starts (R313, R442): sent, and sent again, as a NAK or as management. -/
def startCounters (x : PeerTx) (payload : Bytes) (again : Bool) : List Nat :=
  [0] ++ (if again then [1] else []) ++ (if x.kind = 0 && fld (leAt payload 0 1) 7 4 == 4 then [9] else []) ++
    (if x.kind = 1 then [11] else [])

/-- A packet of port p starts: it leaves the queue, with its sideband, and is counted. -/
def State.startPacket (s : State) (p : Nat) (x : PeerTx) (payload : Bytes) (again : Bool) : State :=
  let q := s.port p
  let s := s.setPort p { q with
    queue := eraseFirst (fun y => y == x) q.queue, starts := if x.kind = 1 then 0 else q.starts + 1
    sent := q.sent ++ [{ x with payload := payload, side := some (s.sideOf x.conn x.kind) }] }
  s.each (startCounters x payload again) fun s j => s.count (peerCounter p j)

/-- PEER_PACKET_START (R312). A packet of a connection that is no longer valid is not sent (R302). -/
def execPeerPacketStart (p : PortId) (s : State) : Out :=
  let q := s.port p
  match q.pick with
  | some x =>
    let drop : Out := .next (s.setPort p { q with queue := eraseFirst (fun y => y == x) q.queue })
    if !s.peerOn then .next s
    else if !s.cnValid x.conn then drop
    else match x.psn with
      | none => .next (s.startPacket p x x.payload false)
      | some n =>
        match (s.conn x.conn).sent.find? fun y => y.psn == n with
        | some y =>
          let b := s.seqPayload x.conn y
          let k := s.conn x.conn
          let s := s.setConn x.conn { k.acknowledged with
            sent := k.sent.map fun z => if z.psn = n then { z with started := true } else z }
          .next (s.startPacket p x b y.started)
        | none => drop
  | none => .next s

end Sys2Proof.Machine
end

