-- ==== Sys2Proof/Machine/Links.lean ====
section
/-! DEFINITION. The agent links: lanes (R318), training (R319 to R321), flits and replay (R322 to R326), link states
(R327, R328), messages and credits (R331, R332, R335), and the loss of a link (R197, R417, R418). -/

namespace Sys2Proof.Machine

open Sys2Proof

/-! ### Messages as bytes (R331) -/

/-- A message laid out: its header, and its body padded to 16 bytes. -/
def Msg.encode (m : Msg) : Bytes :=
  leBytes 1 m.mtype ++ leBytes 1 (put m.vc 2 0 + put m.cls 2 2 + put m.flags 4 4) ++ leBytes 2 m.len ++
    leBytes 4 m.tag ++ leBytes 8 m.addr ++ padTo 16 m.body

/-- The message at the start of some bytes, and how many bytes it takes; LEN of an RD is what it reads. -/
def Msg.decode (b : Bytes) : Msg × Nat :=
  let ty := leAt b 0 1
  let v := leAt b 1 1
  let len := leAt b 2 2
  let n := if ty = 0x01 then 0 else len
  (⟨ty, fld v 1 0, fld v 3 2, fld v 7 4, len, leAt b 4 4, leAt b 8 8, slice b 16 n⟩, 16 + roundUp n 16)

/-- The whole messages at the start of a stream, and the rest; 16 bytes with no MTYPE are padding. By fuel. -/
def takeMsgs : Nat → Bytes → List Msg × Bytes
  | 0, b => ([], b)
  | f + 1, b =>
    if b.length < 16 then ([], b)
    else if leAt b 0 1 = 0 then takeMsgs f (b.drop 16)
    else
      let (m, n) := Msg.decode b
      if b.length < n then ([], b)
      else let (ms, rest) := takeMsgs f (b.drop n); (m :: ms, rest)

/-! ### Flits as bytes (R322, R323) -/

/-- The other direction of a link. -/
def opp : Dir → Dir
  | .out => .inb
  | .inb => .out

/-- A flit with its CRC. -/
def flitBytes (ty seq ack vc count : Nat) (payload : Bytes) : Bytes :=
  let b := leBytes 8 (put ty 4 0 + put seq 12 4 + put ack 12 16 + put vc 2 28 + put count 8 30) ++ fit 256 payload
  b ++ leBytes 8 (crc64 b).toNat

/-- The header of a flit. -/
structure FHdr where
  ty : Nat
  seq : Nat
  ack : Nat
  vc : Nat
  count : Nat
  deriving DecidableEq, Repr

/-- The header of a flit's bytes. -/
def FHdr.ofBytes (b : Bytes) : FHdr :=
  let h := leAt b 0 8
  ⟨fld h 3 0, fld h 15 4, fld h 27 16, fld h 29 28, fld h 37 30⟩

/-- The CRC of a flit holds. -/
def flitOk (b : Bytes) : Bool := leAt b 264 8 == (crc64 (b.take 264)).toNat

/-- SEQ a lies before SEQ b, modulo 4,096. -/
def seqBefore (a b : Nat) : Bool :=
  let d := (b + 4096 - a % 4096) % 4096
  0 < d && d ≤ 2048

/-! ### Power -/

/-- The sender of a direction runs: the Farnum die outbound, the agent inbound. -/
def State.sender (s : State) (n : Nat) : Dir → Bool
  | .out => s.targetOn
  | .inb => (s.agent n).up

/-- Both dies run and the link carries traffic. -/
def State.linkRuns (s : State) (n : Nat) : Bool := s.targetOn && (s.agent n).up && (s.link n).up

/-! ### Starting messages (R332, R335) -/

/-- Data bytes of a row that an RD reads, by the table of its fetch slot. -/
def State.rdData (s : State) (m : Msg) : Nat :=
  match (s.engine (fld m.tag 14 9)).slots.get none (fld m.tag 8 0) with
  | some f => ((s.cfg.table f.table).map TableDesc.dataBytes).getD m.len
  | none => m.len

/-- Row fetches that may share an RD_PACK: narrow rows of one engine and one class, 1 to 3 (R335). -/
def State.packs (s : State) (ms : List OutMsg) : Bool :=
  2 ≤ ms.length && ms.length ≤ 8 && ms.all fun m => m.msg.mtype == 0x01 && m.msg.cls != 0 && s.rdData m.msg ≤ 64 &&
    ms.all fun k => k.msg.cls == m.msg.cls && fld k.msg.tag 14 9 == fld m.msg.tag 14 9

/-- The RD_PACK of some reads (R333); its entries carry FILL beside the length (log entry 12). -/
def packMsg (ms : List OutMsg) : Msg :=
  let body := ms.flatMap fun m => leBytes 8 m.msg.addr ++ leBytes 2 (m.msg.len + bitAt (bitOf m.msg.flags 0) 15) ++
    zeros 2 ++ leBytes 4 m.msg.tag
  mkMsg 0x02 1 ((ms.map fun m => m.msg.cls).getD 0 1) 0 body.length 0 0 body

/-- The reserve that each class holds of a virtual channel, in 16-byte units: one largest message (R27, R332). -/
def classReserve (vc : Nat) : Nat :=
  match vc with
  | 1 => 258
  | 2 => 1026
  | _ => 0

/-- Units of a virtual channel that a class has taken and that have not returned. -/
def LinkDir.usedBy (q : LinkDir) (vc cls : Nat) : Nat :=
  (q.used.filter fun e => e.1 == vc && e.2.1 == cls).foldl (fun n e => n + e.2.2) 0

/-- The sender holds credits for a whole message, and the reserves of the other classes are not touched (R332). -/
def LinkDir.mayStart (q : LinkDir) (vc cls units : Nat) : Bool :=
  let keep := ([1, 2, 3].filter (· != cls)).foldl (fun n c => n + (classReserve vc - q.usedBy vc c)) 0
  units + keep ≤ q.credits.getD vc 0

/-- The first message of a virtual channel may start. -/
def LinkDir.ready (q : LinkDir) (vc : Nat) : Bool :=
  match q.queue.find? fun m => m.msg.vc == vc with
  | some m => q.mayStart vc m.msg.cls m.msg.units
  | none => false

/-- Messages started: their bytes join the stream of their virtual channel, and they take its credits. -/
def LinkDir.start (q : LinkDir) (used : List OutMsg) (m : Msg) : LinkDir :=
  { q with
    queue := used.foldl (fun l x => eraseFirst (fun y => y == x) l) q.queue
    credits := q.credits.modify m.vc (· - m.units), used := q.used ++ [(m.vc, m.cls, m.units)]
    streams := if m.vc = 3 then q.streams else q.streams.modify m.vc (· ++ m.encode)
    mgmt := if m.vc = 3 then q.mgmt ++ m.encode else q.mgmt }

/-- The piece of work that a row fetch is for. -/
def State.fetchWork (s : State) (m : OutMsg) : Nat := ((s.tagWork m.msg.tag).map s.root).getD 0

/-- The stream that a message of virtual channel 1 or 2 toward an agent belongs to (R109): the traffic of one task, of one
mover channel, or of one scatter slot. -/
def State.linkStream (s : State) (m : OutMsg) : Nat × Nat :=
  if m.msg.mtype = 0x01 then (0, s.fetchWork m)
  else if m.msg.vc = 2 then
    if m.msg.gradOf 0 || m.msg.ofSlot 0 then (3, 0) else if m.msg.gradOf 1 || m.msg.ofSlot 1 then (3, 1) else (2, 0)
  else match m.own with
    | .result w => (0, s.root w)
    | .record w => (0, s.root w)
    | .porter _ w => (0, s.root w)
    | .flush w => (0, s.root w)
    | .chanWrite ch _ => (1, ch)
    | _ => (2, 1)

/-- The messages among which the arbiter of a virtual channel chooses (R109): the first of each stream. A flush stays behind
every earlier write of the link (R290), and what an agent sends keeps its order (R223, R333). -/
def State.linkHeads (s : State) (dir : Dir) (vc : Nat) (mine : List OutMsg) : List OutMsg :=
  if dir == .inb || vc = 0 || vc = 3 then mine.take 1
  else
    let hs := (mine.foldl (fun (acc : List (Nat × Nat) × List OutMsg × Bool) m =>
      let k := s.linkStream m
      let write := acc.2.2 || m.msg.mtype == 0x03
      if acc.1.contains k then (acc.1, acc.2.1, write)
      else if m.msg.mtype = 0x04 ∧ acc.2.2 then (k :: acc.1, acc.2.1, write)
      else (k :: acc.1, acc.2.1 ++ [m], write)) ([], [], false)).2.1
    if hs = [] then mine.take 1 else hs

/-- Row fetches that an engine may pack, by engine and class: the first n of the group that v picks (R335). -/
def State.packGroup (s : State) (mine : List OutMsg) (n v : Nat) : List OutMsg :=
  let key (m : OutMsg) : Nat × Nat := (fld m.msg.tag 14 9, m.msg.cls)
  let narrow := mine.filter fun m => m.msg.mtype == 0x01 && m.msg.cls != 0 && s.rdData m.msg ≤ 64
  let keys := (narrow.map key).eraseDups
  let k := keys.getD (v % keys.length) (0, 0)
  (narrow.filter fun m => key m == k).take n

/-- LINK_MESSAGE_SEND (R21, R332, R335): a message of a virtual channel starts when the sender holds credits for all of
it; pack asks for that many narrow row fetches of one engine and class in one RD_PACK. A class 0 message that may start
goes before channels 1 and 2. Among the streams the grant depends on drain rates that the model does not count, and is a
free value (log entry 46). -/
def execLinkMessageSend (n : AgentId) (dir : Dir) (vc : VcId) (pack : Nat) (s : State) : Out :=
  let q := s.dir n dir
  let mine := q.queue.filter fun m => m.msg.vc == vc.val
  if !s.linkRuns n || ((vc.val == 1 || vc.val == 2) && q.ready 0) then .next s
  else
    let hs := s.linkHeads dir vc.val mine
    let (v, s) := if 1 < hs.length || 1 < pack then s.draw else (0, s)
    let few := s.packGroup mine pack v
    if dir == .out && vc.val == 1 && pack == few.length && s.packs few then
      let msg := packMsg few
      if q.mayStart 1 msg.cls msg.units then .next (s.modDir n dir fun q => q.start few msg) else .next s
    else match hs[v % hs.length]? with
      | some m =>
        if q.mayStart vc.val m.msg.cls m.msg.units then .next (s.modDir n dir fun q => q.start [m] m.msg) else .next s
      | none => .next s

/-! ### Sending flits (R324, R325) -/

/-- A sequenced flit sent: it takes the next SEQ and stays in the retry buffer. -/
def LinkDir.sendSeq (q : LinkDir) (f : Flit) : LinkDir :=
  { q with seq := (q.seq + 1) % 4096, retry := q.retry ++ [f], wire := q.wire ++ [f] }

/-- The payload of a DATA flit: virtual channel 0 first, then the other two in some order (R332); its bytes, the channel
of each slot, and what is left of the streams. -/
def LinkDir.fill (q : LinkDir) (order : List Nat) : Bytes × List Nat × List Bytes :=
  order.foldl (fun (acc : Bytes × List Nat × List Bytes) v =>
    let b := (acc.2.2.getD v []).take (256 - acc.1.length)
    (acc.1 ++ b, acc.2.1 ++ List.replicate (b.length / 16) v, acc.2.2.modify v (·.drop b.length))) ([], [], q.streams)

/-- FLIT_SLOT (R324): a RETRY that is due takes the slot; flits to send again go before new ones; every 32nd slot
is a CONTROL flit; the others carry DATA when messages wait, and IDLE otherwise. Between virtual channels 1 and 2 the
slots go by an arbitration whose rates the model does not count: their order is a free value (log entry 46). -/
def execFlitSlot (n : AgentId) (dir : Dir) (s : State) : Out :=
  let n := n.val
  let q := s.dir n dir
  let r := s.dir n (opp dir)
  let next (q : LinkDir) : LinkDir := { q with slot := (q.slot + 1) % 32 }
  let wait (q : LinkDir) : LinkDir := if q.slot = 31 then q else next q
  let vc := ((List.range 4).find? fun v => r.owed.getD v 0 != 0).getD 0
  let count := min 255 (r.owed.getD vc 0)
  let paid (s : State) : State := s.modDir n (opp dir) fun r => { r with owed := r.owed.modify vc (· - count) }
  if !s.linkRuns n || !s.sender n dir then .next s
  else if q.retrySend then
    let f := flitBytes 3 0 r.expect 0 0 []
    .next (s.modDir n dir fun q => wait { q with retrySend := false, wire := q.wire ++ [⟨f, [], false⟩] })
  else if 0 < q.resend then
    .next (s.modDir n dir fun q => wait { q with
      resend := q.resend - 1, wire := q.wire ++ (q.retry.drop (q.retry.length - q.resend)).take 1 })
  else if 128 ≤ q.retry.length then
    let f := flitBytes 0 0 r.expect vc count []
    .next (paid (s.modDir n dir fun q => wait { q with wire := q.wire ++ [⟨f, [], false⟩] }))
  else if q.slot = 31 then
    let owed := (List.range 4).map fun v => min 0xFFFF (r.owed.getD v 0)
    let trig := dir == .out && s.obs.snap.st == .latching && s.obs.snap.waiting.contains n
    let f := flitBytes 2 q.seq r.expect 0 0 (zeros 8 ++ owed.flatMap (leBytes 2) ++ q.mgmt.take 240)
    let s := s.modDir n dir fun q => next { q.sendSeq ⟨f, [], trig⟩ with mgmt := q.mgmt.drop 240 }
    .next (s.modDir n (opp dir) fun r => { r with owed := (r.owed.zip owed).map fun x => x.1 - x.2 })
  else if q.streams.any (· != []) then
    let both := q.streams.getD 1 [] != [] && q.streams.getD 2 [] != []
    let (v, s) := if both then s.draw else (0, s)
    let (b, slots, rest) := q.fill (if bitOf v 0 then [0, 2, 1] else [0, 1, 2])
    let f := flitBytes 1 q.seq r.expect vc count b
    .next (paid (s.modDir n dir fun q => next { q.sendSeq ⟨f, slots, false⟩ with streams := rest }))
  else
    let f := flitBytes 0 0 r.expect vc count []
    .next (paid (s.modDir n dir fun q => next { q with wire := q.wire ++ [⟨f, [], false⟩] }))

/-! ### Receiving flits -/

/-- The physical lane of a logical lane (R318). -/
def LinkDir.lanePhys (q : LinkDir) (i : Nat) : Nat :=
  ((List.range 52).filter fun p => !bitOf q.bad p).getD i 0

/-- The width of a direction. -/
def LinkDir.width (q : LinkDir) : Nat := if q.half then 24 else 48

/-- Bit errors counted by physical lane, at the receiver of the direction (R318, R443). -/
def State.laneErrors (s : State) (n : Nat) (d : Dir) (err : Bytes) : State :=
  let q := s.dir n d
  let base := match d with
    | .inb => 24
    | .out => 76
  s.each (err.take 272).zipIdx fun s e =>
    if e.1 = 0#8 then s
    else s.countN (agentCounter n (base + q.lanePhys ((q.lane + e.2) % q.width))) (popcount 8 e.1.toNat)

/-- Units of a virtual channel that return: they belong to its oldest messages, since a receiver takes them in order. -/
def dropUsed (vc : Nat) : Nat → List (Nat × Nat × Nat) → List (Nat × Nat × Nat)
  | _, [] => []
  | n, e :: l =>
    if e.1 != vc then e :: dropUsed vc n l
    else if e.2.2 ≤ n then dropUsed vc (n - e.2.2) l
    else (vc, e.2.1, e.2.2 - n) :: l

/-- Credits of a virtual channel returned to its sender. -/
def LinkDir.returned (q : LinkDir) (vc n : Nat) : LinkDir :=
  { q with credits := q.credits.modify vc (· + n), used := dropUsed vc n q.used }

/-- An ACK and returned credits of an accepted flit of direction d: they concern the other direction's sender. -/
def State.flitAck (s : State) (n : Nat) (d : Dir) (h : FHdr) : State :=
  s.modDir n (opp d) fun q =>
    let left := q.retry.filter fun f => !seqBefore (FHdr.ofBytes f.bytes).seq h.ack
    ({ q with retry := left, resend := min q.resend left.length } : LinkDir).returned h.vc h.count

/-- A flit is dropped: the first drop asks for a RETRY (R325). -/
def State.dropFlit (s : State) (n : Nat) (d : Dir) : State :=
  if (s.dir n d).waiting then s
  else (s.modDir n d fun q => { q with waiting := true }).modDir n (opp d) fun q => { q with retrySend := true }

/-- Bytes received on a virtual channel: whole messages reach the inbox (R331). -/
def LinkDir.gotBytes (q : LinkDir) (vc : Nat) (b : Bytes) : LinkDir :=
  let old := q.partials.getD vc []
  let (ms, rest) := takeMsgs (old.length + 256) (old ++ b)
  { q with inbox := q.inbox ++ ms, partials := q.partials.set vc rest }

/-- The bytes of the slots of one virtual channel in a DATA flit. -/
def Flit.ofVc (f : Flit) (b : Bytes) (vc : Nat) : Bytes :=
  f.slots.zipIdx.flatMap fun e => if e.1 = vc then slice b (8 + 16 * e.2) 16 else []

/-- The payload of an accepted sequenced flit: whole messages reach the inbox; a CONTROL flit returns the credits
of every virtual channel first, and carries virtual channel 3 (R323, R331). -/
def State.payload (s : State) (n : Nat) (d : Dir) (ty : Nat) (f : Flit) (b : Bytes) : State :=
  if ty = 2 then
    let s := s.modDir n (opp d) fun q => (List.range 4).foldl (fun q v => q.returned v (leAt b (16 + 2 * v) 2)) q
    s.modDir n d fun q => q.gotBytes 3 (slice b 24 240)
  else s.modDir n d fun q => [0, 1, 2].foldl (fun q v => q.gotBytes v (f.ofVc b v)) q

/-- A flit of some type received, with bit errors (R325): one with a bad CRC is dropped, and so is a sequenced one
whose SEQ is not the one expected. f is what an accepted flit does besides. -/
def State.rxFlit (s : State) (n : Nat) (d : Dir) (ty : Nat) (err : Bytes) (f : FHdr → Bytes → State → State) : Out :=
  let q := s.dir n d
  match q.wire with
  | raw :: rest =>
    if !s.linkRuns n || (FHdr.ofBytes raw.bytes).ty ≠ ty then .next s
    else
      let s := s.laneErrors n d err
      let s := s.modDir n d fun q => { q with wire := rest, lane := (q.lane + 272) % 48 }
      let b := xorBytes raw.bytes err
      let h := FHdr.ofBytes b
      if !flitOk b then .next (s.dropFlit n d)
      else if ty = 1 ∨ ty = 2 then
        if h.seq ≠ q.expect then .next (s.dropFlit n d)
        else
          let s := s.modDir n d fun q => { q with expect := (q.expect + 1) % 4096, waiting := false }
          .next (f h b ((s.flitAck n d h).payload n d ty raw b))
      else .next (f h b (s.flitAck n d h))
  | [] => .next s

/-- IDLE_FLIT (R323). -/
def execIdleFlit (n : AgentId) (dir : Dir) (err : Bytes) (s : State) : Out :=
  s.rxFlit n.val dir 0 err fun _ _ s => s

/-- DATA_FLIT (R325). -/
def execDataFlit (n : AgentId) (dir : Dir) (err : Bytes) (s : State) : Out :=
  s.rxFlit n.val dir 1 err fun _ _ s => s

/-- The code of a direction in a Tally item. -/
def dirCode : Dir → Nat
  | .out => 0
  | .inb => 1

/-- RETRY_FLIT (R325, R326): the other direction's sender sends every buffered flit from the named SEQ again. -/
def execRetryFlit (n : AgentId) (dir : Dir) (err : Bytes) (s : State) : Out :=
  s.rxFlit n.val dir 3 err fun h _ s =>
    let o := opp dir
    let s := s.modDir n.val o fun q => { q with
      resend := q.retry.length, replays := q.replays + 1, lastRetry := h.ack
      failed := if q.replays ≠ 0 ∧ q.lastRetry = h.ack then q.failed + 1 else 1 }
    (s.count (agentCounter n.val 13)).tally (96 + n.val) 9 (dirCode o) h.ack

/-- RETRY_TIMEOUT (R325): 200 ns after a RETRY, another may be sent. -/
def execRetryTimeout (n : AgentId) (dir : Dir) (s : State) : Out :=
  if s.linkRuns n && (s.dir n dir).waiting then
    .next (s.modDir n (opp dir) fun q => { q with retrySend := true })
  else .next s

/-! ### Retrain (R326 to R328) -/

/-- A link enters RETRAIN: traffic holds, the retry buffers stay, and what is in flight is lost. -/
def State.enterRetrain (s : State) (n : Nat) : State :=
  let stop (q : LinkDir) : LinkDir := { q with wire := [] }
  let s := s.keepBank n
  (s.modLink n fun l => { l with
    st := .retrain, retrains := satAdd 0xFFFF l.retrains 1, out := stop l.out, inb := stop l.inb }).count
    (agentCounter n 14)

/-- RETRAIN_ON_REPLAYS (R326): 8 replays in 10 µs, or the second replay of one flit failed. -/
def execRetrainOnReplays (n : AgentId) (dir : Dir) (s : State) : Out :=
  let q := s.dir n dir
  if s.linkRuns n && (8 ≤ q.replays || 3 ≤ q.failed) then .next (s.enterRetrain n) else .next s

/-- EYE_MARGIN_LOW (R326): found by the Storekeeper's eye monitor on a lane that is in use. -/
def execEyeMarginLow (n : AgentId) (dir : Dir) (lane : LaneId) (s : State) : Out :=
  if s.linkRuns n && s.sk.up && !s.sk.skLost && !bitOf (s.dir n dir).bad lane.val then .next (s.enterRetrain n)
  else .next s

/-! ### Work at an agent (R417) -/

/-- The Store Room address that a fetch slot reads. -/
def State.slotRead (s : State) (f : FSlot) : Option Nat :=
  match f.frame with
  | some fr => some (s.cfg.frameAddr fr + f.addr % (if fr < s.cfg.trans.frames16G then 2 ^ 34 else 2 ^ 28))
  | none => if spaceOf f.addr = 0 then some f.addr else none

/-- The agent that a fetch slot's row waits for. -/
def State.slotAgent (s : State) (f : FSlot) : Option Nat :=
  if f.data.isSome || f.err then none else (s.slotRead f).map s.ownerAgent

/-- The agent that an unacknowledged write or flush went to. -/
def State.msgAgent (s : State) (m : Msg) : Nat := if m.mtype = 0x04 then s.ownerOf m.addr else s.ownerAgent m.addr

/-- Work with something outstanding at an agent: a fetch, a write, a flush, or a Crate. -/
def State.worksAt (s : State) (n : Nat) : List Nat :=
  let fetches := s.eng.engines.flatMap fun e => e.2.slots.filterMap fun x => x.2.bind fun f =>
    if s.slotAgent f = some n then some f.work else none
  let writes := s.net.sent.filterMap fun e => e.2.bind fun m =>
    if s.msgAgent m.msg = n then (match m.own with
      | .result w => some w
      | .work w => some w
      | .flush w => some w
      | .porter _ w => some w
      | .chanWrite _ w => w
      | _ => none) else none
  let crates := [0, 1].filterMap fun i => (s.scatter i).bind fun sc =>
    if sc.counts.any fun c => c.2.2 != 0 && s.ownerOf c.2.1 == n && !sc.acked.contains (c.1, c.2.1) then some sc.work
    else none
  let fills := (List.range 12).filterMap fun m =>
    if (s.porter m).miss.any (fun l => s.ownerAgent l.line == n) then
      (s.porter m).cur.map Mail.work
    else none
  ((fetches ++ writes ++ crates ++ fills).eraseDups).filter fun w => (s.work w).isSome

/-- Work aborted for a hardware cause and parked, with the task that it belongs to (R101, R207, R416). -/
def State.rewindAndPark (s : State) (w cause : Nat) (c : ParkCause) : State :=
  let r := s.root w
  if (s.work r).any fun k => k.desc.kind == some .porter then (s.replayPorterTask r cause).park r c
  else (s.rewindWork w cause).park w c

/-! ### A link goes DOWN -/

/-- The messages that an agent still owes the Farnum die after a loss: CRATE_ACKs that were not handled, the
refreshes that were not acknowledged, and an ENABLE (R204, R222). -/
def State.agentDebts (s : State) (n : Nat) : List OutMsg :=
  let a := s.agent n
  let msg (ty addr : Nat) (body : Bytes) (tag : Nat) : OutMsg := ⟨mkMsg ty 2 2 0 body.length tag addr body, .none⟩
  let tile (p : Nat) : Nat := (s.tileOf p).getD p
  a.acks.map (fun k => msg 0x17 (slotEpoch k.1 k.2) [] 0) ++
    (a.crates.flatMap fun c => if c.st = .refreshing then c.refresh.map fun r =>
      msg 0x18 r.1 (((c.images.find? fun i => i.1 == r.1).map (·.2)).getD []) (tile r.2) else []) ++
    match a.mig with
    | some g => if g.enabled then [msg 0x19 g.addr [] (tile g.pos)] else []
    | none => []

/-- A direction with nothing in flight, and some messages that wait. -/
def LinkDir.cleared (q : LinkDir) (queue : List OutMsg) : LinkDir :=
  { LinkDir.init with queue := queue, bad := q.bad, half := q.half }

/-- An agent after a loss of its link (R197, R418): open Crates and held requests are gone, and a migration that
has not sent ENABLE is abandoned (R224). -/
def Agent.lostLink (a : Agent) : Agent :=
  { a with
    crates := a.crates.map fun c => if c.committing then c else Crate.empty
    hold := [], mig := a.mig.bind fun g => if g.enabled then some g else none }

/-- A link enters DOWN (R197, R326, R330, R417, R418): work at the agent is rewound and parked, its fetch slots
free, and what the link carried is lost; unacknowledged writes and flushes wait to be sent again. -/
def State.linkDown (s : State) (n : Nat) : State :=
  if (s.link n).st = .down then s
  else
    let s := (s.keepBank n).dropPart n
    let ws := s.worksAt n
    let s := s.each ws fun s w => s.rewindAndPark w 2 (.link n)
    let s := s.eachEngine fun e => { e with
      slots := e.slots.filter fun x => !(x.2.any fun f => s.slotAgent f == some n) }
    let gone := (s.agent n).mig.filter fun g => !g.enabled
    let s := match gone with
      | some g => ((s.dropPending g.pos g.addr).count (agentCounter n 11)).tally (96 + n) 8 ((s.tileOf g.pos).getD 0) 0
      | none => s
    let s := s.modAgent n Agent.lostLink
    let again := s.net.sent.filterMap fun e => e.2.bind fun m => if s.msgAgent m.msg = n then some m else none
    let evicts := (s.dir n .out).queue.filter fun m => m.msg.mtype == 0x08
    let debts := s.agentDebts n
    let s := s.modLink n fun l => { l with
      st := .down, step := .idle, heldMismatch := false, exchanged := false
      out := l.out.cleared (evicts ++ again), inb := l.inb.cleared debts }
    let s := match gone with
      | some g => if g.pinned then s.repin g else s
      | none => s
    s.notice (Reg.maNotice n) 2 5

/-- NO_FLIT_TIMEOUT (R326, R327). -/
def execNoFlitTimeout (n : AgentId) (dir : Dir) (s : State) : Out :=
  let _ := dir
  if s.targetOn && (s.link n).up then .next (s.linkDown n) else .next s

/-! ### Training (R319 to R321) -/

/-- Both sides of a link are powered. -/
def State.bothUp (s : State) (n : Nat) : Bool := s.targetOn && (s.agent n).up

/-- LINK_TRAIN_START (R319). -/
def execLinkTrainStart (n : AgentId) (s : State) : Out :=
  let l := s.link n
  if s.bothUp n && l.st == .down && l.step == .idle then
    .next (s.setLink n { l with step := .detect, exchanged := false, heldMismatch := false })
  else .next s

/-- TRAINING_STEP_TIMEOUT (R319, R327): training starts again at DETECT; a retrain ends DOWN. An agent at the wrong
position stays at EXCHANGE (R320). -/
def execTrainingStepTimeout (n : AgentId) (s : State) : Out :=
  let l := s.link n
  if !s.bothUp n then .next s
  else if l.st = .retrain then .next (s.linkDown n)
  else if l.st = .down && l.step != .idle && !l.heldMismatch then
    .next (s.setLink n { l with step := .detect, exchanged := false })
  else .next s

/-- EXCHANGE (R319, R320): an agent at the wrong position stays here, and its link counts as DOWN. -/
def execExchange (n : AgentId) (agentNo stackNo capGib : Nat) (version : BitVec 32) (s : State) : Out :=
  let _ := version
  let l := s.link n
  if !s.bothUp n || l.st != .down || l.step == .idle || l.heldMismatch then .next s
  else if agentNo = n.val ∧ stackNo = n.val / 2 then
    let s := s.modAgent n fun a => { a with capGib := capGib, stackNo := stackNo }
    .next (s.setLink n { l with step := .exchange, exchanged := true, heldMismatch := false })
  else .next (s.setLink n { l with step := .exchange, exchanged := false, heldMismatch := true })

/-- The receive buffers in 16-byte units (R332). -/
def vcBuffers : List Nat := [512, 3072, 6144, 128]

/-- A direction after training (R319 step 7): sequence numbers and credits start from zero, and each receiver
returns its whole buffer as credits. -/
def LinkDir.trained (q : LinkDir) (bad : Nat) (half : Bool) : LinkDir :=
  { LinkDir.init with queue := q.queue, owed := vcBuffers, bad := bad, half := half }

/-- The width of 24 that a number of bad lanes gives (R319 step 3). -/
def narrow (bad : Nat) : Bool := 4 < popcount 52 bad

/-- Reports of the directions of a link that run at width 24 (R321, R327, R399). -/
def State.reportHalf (s : State) (n : Nat) : State :=
  let l := s.link n
  let rings := s.ringMask (s.worksAt n)
  let one (s : State) (q : LinkDir) : State :=
    if q.half then s.report 0x03 { unit := n, rings := rings, detail0 := q.bad } else s
  let s := if l.out.half || l.inb.half then s.notice (Reg.maNotice n) 1 5 else s
  one (one s l.out) l.inb

/-- The state of a link by its widths. -/
def Link.byWidth (l : Link) : LinkSt := if l.out.half || l.inb.half then .degraded else .active

/-! ### An agent returns (R199, R420, R421) -/

/-- The log check of an agent that returns (R199): a sealed commit is written in place, refreshed and
acknowledged. An agent whose Crate is still there goes on with it. -/
def State.logCheck (s : State) (n : Nat) : State :=
  if (s.agent n).crates.any Crate.committing then s
  else match s.validSeal n with
    | some (slot, epoch, rows) =>
      let s := (s.raise Reg.scNotice 2).count (agentCounter n 8)
      let s := s.each rows fun s r => s.store r.1 r.2
      s.beginRefresh n 0 { Crate.empty with st := .applying, slot := slot, epoch := epoch, images := rows }
    | none => s

/-- A stack that has not kept its contents (R421): its agents apply no log, and work that needs it is parked. -/
def State.contentsLost (s : State) (st : Nat) : State :=
  let ws := ((stackAgents st).flatMap s.worksAt).eraseDups
  let parked := s.works.filter fun e => e.2.parked.any fun c => (stackAgents st).any fun n => c == .link n
  let s := s.each (stackAgents st) fun s n => s.modAgent n fun a => { a with noContents := true }
  let s := s.each ws fun s w => s.rewindAndPark w 2 (.contents st)
  let s := s.each parked fun s e => s.modWork e.1 fun k => { k with
    parked := (k.parked.filter fun c => !((stackAgents st).any fun n => c == .link n)) ++ [.contents st] }
  let all := (ws ++ parked.map (·.1)).eraseDups
  s.report 0x0A { unit := st, rings := s.ringMask all, parked := all.length }

/-- The stack marker at the start of an agent's log region holds the value kept for it (R421). -/
def State.markerOk (s : State) (n : Nat) : Bool :=
  match (s.agent n).marker, (s.agent n).logBase with
  | some v, some base => leNat (s.load base 8) == v
  | _, _ => true

/-- A log region treated as empty: zero over bytes 64 onward (R474). -/
def State.coldLog (s : State) (n : Nat) : State :=
  match (s.agent n).logBase with
  | some base => (s.clearRange (base + 64) (2 ^ 23 - 64)).modAgent n fun a => { a with cold := true }
  | none => s

/-- The stack marker of an agent (R421, R474): bytes 0 to 63 of its log region, of which the first eight hold a value that
the Storekeeper draws and keeps; the others are free values. A region that no marker value was kept for is treated as an
empty log first. An agent that the Storekeeper does not reach gets its marker, and the place of its log, when it returns
(log entry 61). -/
def State.writeMarker (s : State) (n : Nat) : State :=
  match s.cfg.logAddr n with
  | some base =>
    if (s.agent n).out then s
    else if !s.inService n then s.modAgent n fun a => { a with owed := true }
    else
      let s := s.modAgent n fun a => { a with logBase := some base, owed := false, cold := a.cold && a.logBase == some base }
      let s := if (s.agent n).marker.isNone && !(s.agent n).cold then s.coldLog n else s
      let (v, s) := s.draw
      let v := v % 2 ^ 64
      let (rest, s) := s.drawBytes 56
      (s.store base (leBytes 8 v ++ rest)).modAgent n fun a => { a with marker := some v, noContents := false }
  | none => s

/-- An agent whose link has returned checks its marker and then its log (R420, R421); while the Storekeeper holds no
marker value it checks neither, and its log is cleared once (R474). A marker that an activation owes it follows, and the
log records that waited for it reach the mirror (R433). -/
def State.agentReturns (s : State) (n : Nat) : State :=
  if (s.agent n).out then s
  else
    let s := if (s.agent n).marker.isNone then (if (s.agent n).cold then s else s.coldLog n)
      else if s.markerOk n then s.logCheck n
      else if (s.agent n).noContents then s
      else s.contentsLost (n / 2)
    (if (s.agent n).owed then s.writeMarker n else s).mirrorGo

/-- The remap list that the Storekeeper keeps for a stack is installed in an agent, before its link reaches ACTIVE (R343;
R471 installs it once the link is ACTIVE: DEDUCED, log entry 54). -/
def State.installRemaps (s : State) (n : Nat) : State :=
  if s.skOn then
    s.modAgent n fun a => { a with remap := (s.sk.remap.filter fun e => e.1 == n / 2).map (·.2) }
  else s

/-- TRAINING_COMPLETE (R319, R320, R321, R327): the link enters ACTIVE or DEGRADED. With more than 28 bad lanes it
cannot train and stays DOWN. -/
def execTrainingComplete (n : AgentId) (badOut badIn : BitVec 52) (s : State) : Out :=
  let l := s.link n
  let bo := badOut.toNat
  let bi := badIn.toNat
  if !s.bothUp n || l.st != .down || !l.exchanged then .next s
  else if 28 < popcount 52 bo ∨ 28 < popcount 52 bi then
    .next (s.setLink n { l with step := .idle, exchanged := false })
  else
    let l := { l with
      out := l.out.trained bo (narrow bo), inb := l.inb.trained bi (narrow bi), step := .idle, resetDone := true }
    let t := s.setLink n { l with st := l.byWidth }
    let t := (t.installRemaps n).modAgent n fun a => { a with present := true }
    let t := t.reportHalf n
    .next ((if (t.agent n).repairDone then t.agentReturns n else t).noteReady s |>.nextMig n)

/-! ### The end of a retrain -/

/-- A direction after a retrain (R325, R328): bad lanes only grow, and every buffered flit is sent again. -/
def LinkDir.retrained (q : LinkDir) (bad : Nat) : LinkDir :=
  let b := q.bad ||| bad
  { q with
    bad := b, half := q.half || narrow b, resend := q.retry.length, wire := [], replays := 0, failed := 0
    waiting := false, retrySend := false, lane := 0 }

/-- The 16 or 17 payload bytes that a RETRAIN log record holds (R432). -/
def Link.retrainLog (l : Link) : Bytes :=
  leBytes 8 l.out.bad ++ leBytes 8 l.inb.bad ++ leBytes 1 (bitAt l.out.half 0 + bitAt l.inb.half 1)

/-- RETRAIN_COMPLETE (R327, R328). -/
def execRetrainComplete (n : AgentId) (badOut badIn : BitVec 52) (s : State) : Out :=
  let l := s.link n
  if !s.bothUp n || l.st != .retrain then .next s
  else
    let l := { l with out := l.out.retrained badOut.toNat, inb := l.inb.retrained badIn.toNat }
    if 28 < popcount 52 l.out.bad ∨ 28 < popcount 52 l.inb.bad then .next ((s.setLink n l).linkDown n)
    else
      let s := (s.setLink n { l with st := l.byWidth }).log (96 + n.val) 0 0x0021 l.retrainLog
      let lanes := popcount 52 l.out.bad + 256 * popcount 52 l.inb.bad
      .next ((s.tally (96 + n.val) 10 (bitAt l.out.half 0 + bitAt l.inb.half 1) lanes).reportHalf n)

/-! ### A held request times out (R339) -/

/-- HOLD_TIMEOUT: a request held for 1 ms fails as an uncorrectable stack error of its address, which is lost with it:
reads are answered with ERR; a write is acknowledged (log entry 19). Of a pack, the rows whose channel refused it fail, at
least one; which they are is open, and the others are served. -/
def execHoldTimeout (n : AgentId) (i : Nat) (s : State) : Out :=
  let n := n.val
  match (s.agent n).hold[i]? with
  | some h =>
    if !s.agentOn n then .next s
    else
      let m := h.msg
      let s := s.modAgent n fun a => { a with hold := a.hold.eraseIdx i }
      let s := s.modDir n .out fun q => { q with owed := q.owed.modify m.vc (· + m.units) }
      let s := ((s.raise (Reg.maNotice n) 8).count (agentCounter n 19)).tally (96 + n) 13 1 0
      let (v, s) := s.draw
      let refused := m.rows.zipIdx.filter fun r => m.mtype != 0x02 || r.2 == v % m.rows.length || bitOf (v / 8) r.2
      let s := s.report 0x05 { unit := n, rings := s.ringMask (s.worksAt n), detail0 := ((refused.map fun r => r.1.1)).getD 0 0 }
      let s := s.each refused fun s r => s.modAgent n fun a => { a.stackError (unitOf (stackOff r.1.1)) true with
        lost := r.1.1 :: a.lost.filter (· != r.1.1) }
      if m.mtype = 0x02 then .next (s.servePack n m) else .next (s.queueMsg n .inb m.failed)
  | none => .next s

end Sys2Proof.Machine
end

