-- ==== Sys2Proof/Machine/Stacks.lean ====
section
/-! DEFINITION. The stacks and their two agents: stack throttle levels, remap and repair (R340 to R345), lost rows
(R422), promotion (R231, R232), throttle levels (R234, R236), and the failover of an agent
(R419, R420) with the release of parked work (R416). -/

namespace Sys2Proof.Machine

open Sys2Proof

/-- The Storekeeper and an agent can exchange management messages. -/
def State.managed (s : State) (n : Nat) : Bool := s.skOn && s.linkRuns n

/-- The first device address of a stack (R226). -/
def stackStart (st : Nat) : Nat := st * 2 ^ 37

/-! ### Throttle levels -/

/-- A temperature reading in quarters of a degree (R430). -/
def reading (c : Nat) : Int := sext 16 c

/-- The block level after a sample of the hottest reading (R234): up at once to the highest level whose entry point
it reaches, down one step when it lies 5 °C or more below the entry point of the current level. -/
def nextLevel (entries : List Nat) (level : Nat) (hot : Int) : Nat :=
  let reach (l : Nat) : Int := 4 * (entries.getD (l - 1) 0 : Int)
  match ([3, 2, 1].filter fun l => level < l).find? fun l => reach l ≤ hot with
  | some l => l
  | none => if level ≠ 0 ∧ hot ≤ reach level - 20 then level - 1 else level

/-- The hottest of some readings, with the index of its first sensor. -/
def hottestOf (ts : List Nat) : Nat × Nat :=
  ts.zipIdx.foldl (fun b t => if reading b.1 < reading t.1 then t else b) (ts.getD 0 0, 0)

/-- Pinned placements that the throttle level held back go on (R219, R235). -/
def State.pinsGoOn (s : State) : State := s.each (List.range 16) State.nextMig

/-- THERMAL_SAMPLE (R234, R430): OB_TEMP shows the hottest of the 64 readings, and the block level follows it while
the engine domain is up. -/
def execThermalSample (temps : List (BitVec 16)) (s : State) : Out :=
  if !s.skOn then .next s
  else
    let ts := (List.range 64).map fun i => ((temps[i]?).map BitVec.toNat).getD (s.sk.temps.getD i 0)
    let (hot, i) := hottestOf ts
    let s := s.modSk fun k => { k with temps := ts, hottest := hot, sensor := i }
    if s.pwr.engineUp then .next ((s.setLevel none (nextLevel s.cfg.thermal s.eng.block (reading hot))).pinsGoOn) else .next s

/-- RAMP_STEP (R29): the ramps of a position advance by 250 ns. -/
def execRampStep (pos : PosId) (s : State) : Out :=
  if !s.targetOn then .next s
  else .next (s.each (List.range 25) fun s k =>
    let i := pos.val + 64 * k
    let r := s.eng.ramps.get Ramp.idle i
    let r := if r.step < 7 then { r with step := r.step + 1 } else Ramp.idle
    s.modEng fun e => { e with ramps := e.ramps.set Ramp.idle i r })

/-! ### Stack errors -/

/-! ### Row remap -/

/-- A free frame of the remap pool, the top 1 MiB of the stack's raw capacity (R341). -/
def State.freeFrame (s : State) (n : Nat) : Option Nat :=
  ((List.range 256).map fun i => (s.agent n).capGib * 2 ^ 30 - 2 ^ 20 + 4096 * i).find? fun f =>
    !((s.remaps (n / 2)).any fun e => e.2 == f)

/-- A unit gets a frame (R340, R342): its bytes are copied to the frame, and the persistent list takes the unit
(R343). -/
def State.copyUnit (s : State) (n unit frame : Nat) : State :=
  let st := n / 2
  let bytes := s.load (stackStart st + unit) 4096
  let s := { s with mem := Memory.write s.mem (stackStart st + frame) bytes }
  (s.modSk fun k => { k with remap := k.remap ++ [(st, unit, frame)] }).log (96 + n) 0 0x0022 (leBytes 8 unit)

/-- An agent writes a remap entry (R342). -/
def State.addRemap (s : State) (n unit frame : Nat) : State :=
  let s := s.modAgent n fun a => { a with
    remap := a.remap ++ [(unit, frame)], errUnits := a.errUnits.filter fun e => e.1 != unit }
  ((s.raise (Reg.maNotice n) 4).count (agentCounter n 17)).tally (96 + n) 12 (unit / 4096) 0

/-- Clustered errors of a unit (R342): 8 corrected, or one in a unit that has had an uncorrectable error. -/
def Agent.clustered (a : Agent) (unit : Nat) : Bool :=
  a.errUnits.any fun e => e.1 == unit && (8 ≤ e.2.1 || e.2.2 == 2)

/-- Bytes that took free values (log entry 2). -/
def State.freeBytes (s : State) (a n : Nat) : State :=
  s.each (List.range n) fun s i =>
    let (v, s) := s.draw
    { s with mem := Memory.put s.mem (a + i) (BitVec.ofNat 8 v) }

/-- STACK_REPAIR (R343, R345): the stack's remap list is installed again, and the units that the stack repairs leave
it; what a repaired unit holds then is open. The agent's log check follows. -/
def execStackRepair (n : AgentId) (repaired : List Nat) (s : State) : Out :=
  let n := n.val
  let st := n / 2
  if !s.managed n || (s.agent n).repairDone then .next s
  else
    let mine := s.sk.remap.filter fun e => e.1 == st
    let fixed (e : Nat × Nat × Nat) : Bool := repaired.contains e.2.1
    let done := mine.filter fixed
    let keep := mine.filter fun e => !fixed e
    let s := s.modSk fun k => { k with remap := k.remap.filter fun e => !(e.1 == st && fixed e) }
    let s := s.each (stackAgents st) fun s m => s.modAgent m fun a => { a with
      remap := keep.map (·.2), repaired := a.repaired + done.length }
    let s := s.each done fun s e => s.freeBytes (stackStart st + e.2.1) 4096
    let s := s.modAgent n fun a => { a with repairDone := true }
    let s := s.log (96 + n) 0 0x0023 (leBytes 2 done.length ++ leBytes 2 keep.length)
    .next (s.agentReturns n)

/-! ### Lost rows -/

/-- The row of a table that covers an address, by the rows that a position has copied: its address and length. -/
def State.copiedRow (s : State) (addr : Nat) (d : Nat × Nat) : Option (Nat × Nat × TableDesc) :=
  match s.cfg.tableAt d.1 with
  | some td => if d.1 ≤ addr ∧ addr < d.1 + td.rowBytes then some (d.1, d.2, td) else none
  | none => none

/-- The bytes of a position's copy of a row, placed or cached. -/
def State.copyBytes (s : State) (row pos : Nat) (td : TableDesc) : Option Bytes :=
  let e := s.engine pos
  match e.placed.find? fun p => p.addr == row && p.valid with
  | some p => some (s.placedBytes pos p.block td)
  | none => (e.cache.find? fun x => x.addr == row).map CacheEnt.data

/-- A good copy of the row that covers an address: its address and its bytes (R422). -/
def State.goodCopy (s : State) (n addr : Nat) : Option (Nat × Bytes) :=
  (s.agent n).dir.findSome? fun d => (s.copiedRow addr d).bind fun r => (s.copyBytes r.1 r.2.1 r.2.2).map fun b => (r.1, b)

/-- Fetch slots that an error of an address has answered: position, slot number and slot. -/
def State.errSlots (s : State) (addr : Nat) : List (Nat × Nat × FSlot) :=
  s.eng.engines.flatMap fun e => e.2.slots.filterMap fun x => x.2.bind fun f =>
    let len := ((s.cfg.table f.table).map TableDesc.rowBytes).getD 1
    if f.err && (s.slotRead f).any (fun a => a ≤ addr && addr < a + len) then some (e.1, x.1, f) else none

/-- A fetch issued again. -/
def State.refetch (s : State) (e : Nat × Nat × FSlot) : State :=
  let (pos, i, f) := e
  match s.slotRead f, s.cfg.table f.table with
  | some a, some td =>
    let s := s.modEngine pos fun g => { g with slots := g.slots.set none i (some { f with err := false }) }
    let fill := f.frame.isNone && (s.work f.work).any fun k => k.caches td
    s.queueMsg (s.ownerAgent a) .out (mkMsg 0x01 (vcOf f.cls) f.cls (bitAt fill 0) td.rowBytes (fetchTag i pos f.epoch) a)
  | _, _ => s

/-- Work that fetches a lost row or commits to it (R422). -/
def State.worksOfRow (s : State) (n addr : Nat) : List Nat :=
  let fetches := (s.errSlots addr).filterMap fun e => if e.2.2.dead then none else some e.2.2.work
  let crates := (s.agent n).crates.filterMap fun c =>
    if !c.committing && c.entries.any (fun e => ((s.cfg.tableAt e.addr).map fun td =>
        decide (e.addr ≤ addr ∧ addr < e.addr + td.rowBytes)).getD false) then (s.scatter c.slot).map Scatter.work
    else none
  ((fetches ++ crates).eraseDups).filter fun w => (s.work w).isSome

/-! ### Copies by the Storekeeper's channels (R222, R257, R409) -/

/-- A descriptor of the Storekeeper that copies n bytes. -/
def copyDescr (src dst n : Nat) : Bytes :=
  fit 64 (leBytes 8 (put 1 1 9) ++ leBytes 8 src ++ leBytes 8 dst ++ leBytes 8 0 ++ leBytes 8 (put (n - 1) 24 0) ++
    leBytes 4 1 ++ leBytes 8 0 ++ leBytes 4 1 ++ leBytes 8 0)

/-- A channel of the Storekeeper still writes, or has yet to write, into n bytes from a on. -/
def State.fwWrites (s : State) (a n : Nat) : Bool :=
  let inside (d : MoverDesc) : Bool := a ≤ d.dst && d.dst < a + n
  let built (b : Option Bytes) : Bool := b.any fun b => inside (MoverDesc.ofBytes b)
  [29, 30].any fun ch =>
    let c := s.chan ch
    c.st != .idle && (c.cur.any inside || (c.ahead.any fun b => built b.2) || c.heads.any fun h => built h.built)

/-- The Storekeeper starts a copy of a row into placed blocks on one of its channels: the data, and the header into the
side array; a copy waits behind those that the channel has. -/
def State.copyRow (s : State) (ch pos block : Nat) (td : TableDesc) (a : Nat) : State :=
  let h := if td.hdr then 16 else 0
  let s := s.queueHead ch ⟨0, some (copyDescr (a + h) (larderAddr pos (256 * block)) td.dataBytes), none⟩
  if td.hdr then s.queueHead ch ⟨0, some (copyDescr a (sideAddr pos block) 16), none⟩ else s

/-- The Storekeeper's channels have no copy into some placed blocks left. -/
def State.copyDone (s : State) (pos block n : Nat) : Bool :=
  !s.fwWrites (larderAddr pos (256 * block)) (256 * n) && !s.fwWrites (sideAddr pos block) (16 * n)

/-! ### Promotion -/

/-- The frames of the pool that hold a page of some size (R381). -/
def Cfg.framesOf (c : Cfg) (big : Bool) : List Nat :=
  if big then List.range c.trans.frames16G
  else (List.range c.trans.frames256M).map (c.trans.frames16G + ·)

/-- The promotion that a translation copy entry names. -/
def TcEnt.promo (e : TcEnt) : Promo := ⟨e.space, e.pasid, e.va, e.big, true⟩

/-- A frame holds or copies a page. -/
def FrameSt.isFor (f : FrameSt) (p : Promo) : Bool :=
  match f with
  | .copying q _ => q == p
  | .held q => q == p
  | _ => false

/-- A frame is being copied into. -/
def FrameSt.copies (f : FrameSt) : Bool :=
  match f with
  | .copying _ _ => true
  | _ => false

/-- A frame holds a valid page. -/
def FrameSt.valid (f : FrameSt) : Bool :=
  match f with
  | .held _ => true
  | _ => false

/-- The page is hot (R231): the first cold fetch to a migrate-on-touch page, or the touch threshold. -/
def State.hotPage (s : State) (e : TcEnt) : Bool :=
  e.space == 2 && ((e.mot && 0 < e.touch) || (s.cfg.trans.promoThreshold != 0 && s.cfg.trans.promoThreshold ≤ e.touch))

/-- The frame with the oldest last hit that no fetch has hit within the last touch period (R231). -/
def State.coldestFrame (s : State) (fs recent : List Nat) : Option Nat :=
  let held := fs.filter fun f => (s.frame f).valid && !recent.contains f
  match held.find? fun f => !s.mov.hits.contains f with
  | some f => some f
  | none => s.mov.hits.reverse.find? fun f => held.contains f

/-- The descriptor that copies a page into its frame (R231, R248): 64-byte elements, a barrier, one list. -/
def promoDescr (e : TcEnt) (frame : Nat) : Bytes :=
  let outer := if e.big then 64 else 1
  fit 64 (leBytes 8 (put 1 1 7 + put 1 1 9 + put 6 3 10) ++ leBytes 8 (2 * 2 ^ 48 + e.pa % 2 ^ 48) ++
    leBytes 8 frame ++ leBytes 8 0 ++ leBytes 8 (put (2 ^ 22 - 1) 24 0 + put (outer - 1) 16 24) ++
    leBytes 4 64 ++ leBytes 4 (2 ^ 28) ++ leBytes 4 0 ++ leBytes 4 64 ++ leBytes 4 (2 ^ 28) ++ leBytes 4 0)

/-- PROMOTION_START (R231, R235): the page is copied into the named frame when that is free; with every frame of its
size in use the page with the oldest last hit is demoted first; with each of them hit within the last touch period
the promotion is refused. One page is copied at a time, since CF_PROMO has one BUSY bit. -/
def execPromotionStart (tc : TcId) (frame : FrameId) (recentlyHit : List FrameId) (s : State) : Out :=
  match s.tcEnt tc with
  | some e =>
    let fs := s.cfg.framesOf e.big
    let dst := s.cfg.frameAddr frame
    if !s.skOn || !s.targetOn || s.quiescing || !s.hotPage e || fs = [] ||
        s.mov.frames.any (fun f => f.2.isFor e.promo || f.2.copies) || 2 ≤ s.levelAt (1 + stackOf dst) then .next s
    else if fs.any fun f => s.frame f == .free then
      match [29, 30].find? fun ch => (s.chan ch).st == .idle with
      | some ch =>
        if !fs.contains frame.val || s.frame frame != .free then .next s
        else
          let s := s.setFrame frame (.copying e.promo ch)
          .next (s.modChan ch fun c => { c with
            st := .running, code := 0, fault := none, list := none
            ahead := [(0, some (promoDescr e dst))], phys := true })
      | none => .next s
    else if fs.any fun f => s.frame f == .draining then .next s
    else match s.coldestFrame fs (recentlyHit.map (·.val)) with
      | some f => .next (s.demote f)
      | none => .next (s.count 0x014)
  | none => .next s

/-- A channel of the Storekeeper still writes into a frame. -/
def State.frameWritten (s : State) (f : Nat) : Bool :=
  s.fwWrites (s.cfg.frameAddr f) (if f < s.cfg.trans.frames16G then 2 ^ 34 else 2 ^ 28)

/-- PROMOTION_COPY_DONE (R232, R235): the whole page is copied and acknowledged, and its entry becomes valid; at
level 3 it is abandoned. A copy that failed has left the frame (R256). -/
def execPromotionCopyDone (s : State) : Out :=
  match s.mov.frames.find? fun f => f.2.copies with
  | some (f, .copying p _) =>
    if !s.skOn || !s.targetOn || s.frameWritten f then .next s
    else if 3 ≤ s.levelAt (1 + stackOf (s.cfg.frameAddr f)) then .next (s.setFrame f .free)
    else .next ((s.setFrame f (.held p)).count 0x012)
  | _ => .next s

/-- DEMOTION (R232). -/
def execDemotion (frame : FrameId) (s : State) : Out :=
  if s.skOn && s.targetOn && (s.frame frame).valid then .next (s.demote frame) else .next s

/-- FRAME_FREE (R232): every fetch issued to the frame has returned. -/
def execFrameFree (frame : FrameId) (s : State) : Out :=
  let busy := s.eng.engines.any fun e => e.2.slots.any fun x => x.2.any fun f =>
    f.frame == some frame.val && f.data.isNone && !f.err
  if !s.skOn || !s.targetOn || s.frame frame != .draining || busy || s.frameWritten frame then .next s
  else .next ((s.setFrame frame .free).modMov fun m => { m with hits := m.hits.filter (· != frame.val) })

/-! ### Parked work -/

/-- The cause of a parking is over (R416). -/
def State.cleared (s : State) (c : ParkCause) : Bool :=
  match c with
  | .position p => !(s.engine p).lost
  | .porters m => !((s.porter m).retired && (s.porter (m ^^^ 1)).retired)
  | .array a => !(s.array a).retired
  | .link n => (s.agent n).out || s.inService n
  | .contents st => (stackAgents st).all fun n => !(s.agent n).noContents
  | .row a => (List.range 16).all fun n => !(s.agent n).lost.contains a

/-- A cause of a parking ends, for a piece of work and the operations of its Porters that it parked; with no other cause
it goes on from its last committed point (R416). -/
def State.unpark (s : State) (w : Nat) (c : ParkCause) : State :=
  s.each (w :: s.kids w) fun s k => s.modWork k fun v => { v with parked := v.parked.filter (· != c) }

/-- PARKED_RELEASE (R416). -/
def execParkedRelease (w : WorkId) (s : State) : Out :=
  match (s.work w).bind fun k => k.parked.find? s.cleared with
  | some c => if s.targetOn then .next (s.unpark w c) else .next s
  | none => .next s

/-! ### Failover and the loss of a stack -/

/-- Work that is parked for some agents' links. -/
def State.parkedAt (s : State) (ns : List Nat) : List Nat :=
  (s.works.filter fun e => e.2.parked.any fun c => ns.any fun n => c == .link n).map (·.1)

/-- The commits of an agent that has left service (R418, R419): those that had reached LOGGING have completed; a
sealed log that is not marked done is completed by the partner. Each counts as acknowledged. -/
def State.takeCommits (s : State) (n partner : Nat) : State :=
  let finish (s : State) (k : Nat × Nat) : State := s.crateAcked k.1 k.2 [n]
  let own := (s.agent n).crates.filter Crate.committing
  let s := s.each own fun s c => finish ((s.each c.images fun s e => s.store e.1 e.2).markDone n) (c.slot, c.epoch)
  let s := s.each (s.agent n).acks finish
  match s.validSeal n with
  | some (slot, epoch, rows) =>
    let s := ((s.raise Reg.scNotice 2).count (agentCounter partner 8)).each rows fun s r => s.store r.1 r.2
    finish (s.markDone n) (slot, epoch)
  | none => s

/-- Every copy of a row of an agent's half leaves the slices (R419, step 1). -/
def State.dropHalf (s : State) (n : Nat) : State :=
  let mine (a : Nat) : Bool := spaceOf a == 0 && homeAgent a == n
  s.eachEngine fun e => { e with
    placed := e.placed.filter fun p => !mine p.addr, cache := e.cache.filter fun x => !mine x.addr }

/-- AGENT_FAILOVER (R419): the partner takes over the stack, and the work parked for the link goes on. -/
def execAgentFailover (n : AgentId) (s : State) : Out :=
  let n := n.val
  let p := n ^^^ 1
  if !s.skOn || !s.targetOn || (s.link n).st != .down || !s.inService p || (s.agent n).out || (s.agent p).out then .next s
  else
    let ws := s.parkedAt [n]
    let s := (s.dropHalf n).takeCommits n p
    let old := s.agent n
    let cut := [0, 1].filter fun i => (s.dir n .out).queue.any fun m => m.msg.fromEpoch i 0
    let waiting := (s.dir n .out).queue.filter fun m => m.msg.mtype == 0x03 || m.msg.mtype == 0x04
    let s := s.setAgent n { old with
      out := true, crates := List.replicate 4 Crate.empty, acks := [], dir := [], hold := [], mig := none
      lost := [], told := [] }
    let s := s.modAgent p fun a => { a with lost := a.lost ++ old.lost, told := a.told ++ old.told }
    let s := s.modDir n .out fun q => { q with queue := [] }
    let s := s.modDir p .out fun q => { q with queue := q.queue ++ waiting }
    let s := s.each (cut.filterMap s.scatter) fun s sc => s.replayScatter sc.work
    let s := s.each ws fun s w => s.unpark w (.link n)
    .next (s.report 0x06 { unit := n, rings := s.ringMask ws, parked := ws.length })

/-- STACK_LOST (R420): no link of the stack returned within 100 ms; its work stays parked. -/
def execStackLost (st : StackId) (s : State) : Out :=
  let ns := stackAgents st
  if !s.skOn || !s.targetOn || ns = [] || !s.stackPresent st || ns.any (fun n => (s.link n).st != .down) then .next s
  else
    let ws := s.parkedAt ns
    .next (s.report 0x09 { unit := st, rings := s.ringMask ws, parked := ws.length })

end Sys2Proof.Machine
end

