-- ==== Sys2Proof/Machine/Mgmt.lean ====
section
/-! DEFINITION. Management messages between the Storekeeper and the agents (R23, R333): stack notices, remap (R342),
the recovery of rows (R422), IEEE 1500 access (R344), touch reports and migration (R221 to R225). They travel in the
CONTROL flits of the link (R323). -/

namespace Sys2Proof.Machine

open Sys2Proof

/-! ### What an agent tells the Storekeeper -/

/-- An entry of the touch table as the agent sends it (R221): row address, tile and count. -/
def State.touchEntry (s : State) (t : Nat × Nat × Nat) : Bytes :=
  leBytes 8 t.1 ++ leBytes 4 ((s.tileOf t.2.1).getD t.2.1) ++ leBytes 4 t.2.2

/-- What is too long for one message goes in messages of at most 2,016 bytes, those after the first under the next
kind (R315; log entry 53). -/
def State.sendParts (s : State) (n : Nat) (d : Dir) (kind : Nat) (b : Bytes) : State :=
  let s := s.sendMgmt n d kind (b.take 2016)
  s.each (chunks 2016 (b.drop 2016)) fun s c => s.sendMgmt n d (kind + 1) c

/-- LINK_MGMT (R333): an agent queues a stack notice, a touch report, a stack error report or what it read on WSO; the
Storekeeper queues an IEEE 1500 access, in messages of at most 2,016 bytes. Each acts when a CONTROL flit has brought it
(log entry 53). -/
def execLinkMgmt (n : AgentId) (msg : MgmtMsg) (s : State) : Out :=
  let n := n.val
  let a := s.agent n
  if !s.targetOn || !a.up || (s.link n).st == .down then .next s
  else match msg with
  | .thermal level => .next (s.sendMgmt n .inb 1 (leBytes 1 level.toNat))
  | .touch addr =>
    match a.touch.find? fun t => t.1 == addr.toNat with
    | some t => .next (s.sendMgmt n .inb 2 (s.touchEntry t))
    | none => .next s
  | .corrected unit => .next ((s.sendMgmt n .inb 3 (leBytes 8 (unitOf unit))).count (agentCounter n 18))
  | .uncorrectable addr =>
    let s := s.modAgent n fun a => { a with lost := addr.toNat :: a.lost.filter (· != addr.toNat) }
    .next ((s.sendMgmt n .inb 4 (leBytes 8 addr.toNat)).count (agentCounter n 19))
  | .ieee1500 wr => if s.skOn then .next (s.sendParts n .out 20 wr) else .next s
  | .wso bits =>
    if a.reading then
      .next ((s.modAgent n fun a => { a with reading := false }).sendParts n .inb 5 bits)
    else .next s

/-- The entries of a touch report: row address, tile and count, 16 bytes each. -/
def touchEntries (b : Bytes) : List (Nat × Nat × Nat) :=
  (List.range (b.length / 16)).map fun i => (leAt b (16 * i) 8, leAt b (16 * i + 8) 4, leAt b (16 * i + 12) 4)

/-- TOUCH_PERIOD (R221): the entries at the threshold are sent, 126 in a message, and every count is halved. -/
def execTouchPeriod (n : AgentId) (s : State) : Out :=
  let n := n.val
  if !s.managed n then .next s
  else
    let hot := (s.agent n).touch.filter fun t => s.cfg.agents.threshold ≤ t.2.2
    let sent := hot.flatMap s.touchEntry
    let s := if hot = [] then s else s.tally (96 + n) 15 hot.length 0
    let s := s.each (chunks 2016 sent) fun s b => s.sendMgmt n .inb 2 b
    .next (s.modAgent n fun a => { a with touch := a.touch.map fun t => (t.1, t.2.1, t.2.2 / 2) })

/-- A message that has reached the Storekeeper. -/
def State.mgmtIn (s : State) (n : Nat) (m : Msg) : State :=
  let b := m.body.drop 1
  match leAt m.body 0 1 with
  | 1 => (s.tally (96 + n) 14 (leAt b 0 1) 0).setLevel (some (n / 2)) (leAt b 0 1) |>.pinsGoOn
  | 2 => s.modSk fun k => { k with
      touches := (touchEntries b).foldl (fun l e => (n, e) :: l.filter fun x => !(x.1 == n && x.2.1 == e.1)) k.touches }
  | 3 => (s.modAgent n fun a => a.stackError (leAt b 0 8) false).tally (96 + n) 13 0 0
  | 4 => (s.modAgent n fun a => a.stackError (unitOf (stackOff (leAt b 0 8))) true).tally (96 + n) 13 1 0
  | 5 => s.modSk fun k => { k with wso := k.wso.set n b }
  | 6 => s.modSk fun k => { k with wso := k.wso.set n (k.wso.getD n [] ++ b) }
  | _ => s

/-! ### Row remap (R342) -/

/-- A frame for a unit: the one that it has, or a free one. -/
def State.frameFor (s : State) (n unit : Nat) : Option Nat :=
  match (s.remaps (n / 2)).find? fun e => e.1 == unit with
  | some e => some e.2
  | none => s.freeFrame n

/-- The Storekeeper sends a remap entry to the other agent of the stack; one that its link does not reach takes it when
the link has been trained (R343; log entry 62). -/
def State.tellPartner (s : State) (n unit frame : Nat) : State :=
  let m := if n % 2 = 0 then n + 1 else n - 1
  if s.managed m then s.sendMgmt m .out 16 (leBytes 8 unit ++ leBytes 8 frame) else s

/-- REMAP_INSTALL (R342): the Storekeeper sends the entry to both agents of the stack; a full table is reported and keeps its entries (R343). -/
def execRemapInstall (n : AgentId) (unit : Nat) (s : State) : Out :=
  let u := unitOf unit
  if !s.managed n || !(s.agent n).clustered u || (s.remaps (n / 2)).any (fun e => e.1 == u) then .next s
  else match s.freeFrame n with
    | some f => .next ((s.sendMgmt n .out 16 (leBytes 8 u ++ leBytes 8 f)).tellPartner n u f)
    | none => .next (s.report 0x04 { unit := n })

/-- A remap that has reached an agent: it writes the entry, unless it holds one of the unit, the unit has another frame or
the frame another unit. The unit is copied with the first of the two agents. The hold of the unit ends within the step:
nothing sees it. -/
def State.takeRemap (s : State) (n unit frame : Nat) : State :=
  let held := s.remaps (n / 2)
  if (s.agent n).remap.any (fun e => e.1 == unit) || held.any (fun e => (e.1 == unit) != (e.2 == frame)) then s
  else
    let s := if held.any fun e => e.1 == unit then s else s.copyUnit n unit frame
    s.addRemap n unit frame

/-! ### Lost rows (R422) -/

/-- ROW_RECOVERY (R422): with a Larder copy and a frame the Storekeeper sends the recovery of the row; else the row is
lost: its work is parked, and it is reported once. -/
def execRowRecovery (n : AgentId) (addr : DevAddr) (s : State) : Out :=
  let n := n.val
  let x := addr.toNat
  if !s.managed n || !(s.agent n).lost.contains x then .next s
  else
    let lose (s : State) : State :=
      let ws := s.worksOfRow n x
      let s := s.each ws fun s w => s.rewindAndPark w 1 (.row x)
      if (s.agent n).told.contains x then s
      else (s.modAgent n fun a => { a with told := x :: a.told }).report 0x0B
        { unit := n, rings := s.ringMask ws, detail0 := x, parked := ws.length }
    match s.goodCopy n x, s.frameFor n (unitOf (stackOff x)) with
    | some _, some f =>
      let u := unitOf (stackOff x)
      .next ((s.sendMgmt n .out 18 (leBytes 8 u ++ leBytes 8 f ++ leBytes 8 x)).tellPartner n u f)
    | some _, none => .next (lose (s.report 0x04 { unit := n }))
    | none, _ => .next (lose s)

/-- A recovery that has reached an agent: the unit is remapped, the row takes the bytes of its copy, and the fetches that
met the error are issued again. -/
def State.takeRecovery (s : State) (n unit frame x : Nat) : State :=
  match s.goodCopy n x with
  | some (row, b) =>
    let s := s.takeRemap n unit frame
    if !((s.agent n).remap.any fun e => e.1 == unit) || !(s.agent n).lost.contains x then s
    else
      let keep (y : Nat) : Bool := !(row ≤ y && y < row + b.length)
      let s := (s.store row b).modAgent n fun a => { a with lost := a.lost.filter keep, told := a.told.filter keep }
      s.each (s.errSlots x) State.refetch
  | none => s

/-! ### Migration (R222 to R225) -/

/-- Blocks of a slice's placed part that rows may take are free: no placement holds them, no copy writes into them, and
they lie below the staging units (R222, R361, R381). -/
def State.blocksFree (s : State) (pos block n : Nat) : Bool :=
  block + n ≤ 1024 * (s.cfg.placedUnits - s.cfg.stagingUnits) && s.copyDone pos block n &&
    ((s.engine pos).placed.all fun p =>
      p.block + max 1 ((s.cfg.table p.table).getD default).blocks ≤ block || block + n ≤ p.block) &&
    s.sk.repin.all fun g => g.pos != pos ||
      g.block + max 1 ((s.cfg.table g.table).getD default).blocks ≤ block || block + n ≤ g.block

/-- VERSION of a row (R48). -/
def State.version (s : State) (td : TableDesc) (a : Nat) : Nat := (td.row (s.load a td.rowBytes)).hdr.version

/-- MIGRATION_START (R222, step 1): a row of a table with MIGRATE_EN goes to free placed blocks as a pending copy, which
serves no fetch; the agent learns of it. -/
def execMigrationStart (n : AgentId) (table : BitVec 12) (row : BitVec 40) (pos : PosId) (block : Nat) (s : State) : Out :=
  let n := n.val
  let p := pos.val
  match s.cfg.table table.toNat with
  | some td =>
    let a := td.place row.toNat
    if !s.managed n || s.quiescing || (s.agent n).mig.isSome || (s.agent n).noContents ||
        !(s.agent n).repairDone || !td.migrateEn || td.hashMode == 2 || td.rowCount ≤ row.toNat || spaceOf a != 0 ||
        s.ownerAgent a != n || (s.agent n).lostIn a td.rowBytes || 2 ≤ s.levelAt (1 + n / 2) ||
        (s.engine p).lost || (s.engine p).moving || (s.engine p).placed.any (fun e => e.addr == a) ||
        !s.blocksFree p block td.blocks then .next s
    else .next (s.beginMig n ⟨table.toNat, row.toNat, a, p, block, 0, 0, false, false, false⟩)
  | none => .next s

/-- Steps 2 and 3 of R222: the agent notes VERSION, and the mover copies the row; even agents use channel 29 and odd ones
channel 30 (log entry 53). -/
def State.copyMig (s : State) (n : Nat) (g : Migration) : State :=
  match s.cfg.table g.table with
  | some td =>
    let g := { g with noted := true, v0 := s.version td g.addr }
    (s.modAgent n fun a => { a with mig := some g }).copyRow (29 + n % 2) g.pos g.block td g.addr
  | none => s

/-- MIGRATION_COPY_ACK (R222, step 5; R224): VERSION is compared. late: step 5 begins more than 100 µs after step 2.
A directory without a free entry ends the migration (log entry 20). -/
def execMigrationCopyAck (n : AgentId) (late : Bool) (s : State) : Out :=
  let n := n.val
  match (s.agent n).mig with
  | some g =>
    match s.cfg.table g.table with
    | some td =>
      let pending := (s.engine g.pos).placed.any fun p => p.addr == g.addr && !p.valid
      if !s.managed n || g.enabled then .next s
      else if !pending ∨ 3 ≤ s.levelAt (1 + n / 2) then .next (s.abandonMigration n)
      else if !g.noted || !s.copyDone g.pos g.block td.blocks then .next s
      else
        let v := s.version td g.addr
        let tile := (s.tileOf g.pos).getD g.pos
        if !late && v == g.v0 then
          let (a, ok) := (s.agent n).recordCopy g.addr g.pos
          if ok then
            let s := s.setAgent n { a with mig := some { g with enabled := true } }
            .next ((s.agentSends n 0x19 g.addr [] tile).tally (96 + n) 6 tile g.attempt)
          else .next (s.abandonMigration n)
        else if 3 ≤ g.attempt then .next (s.abandonMigration n)
        else
          let s := (s.copyMig n { g with attempt := g.attempt + 1 }).count (agentCounter n 10)
          .next (s.tally (96 + n) 7 tile (g.attempt + 1))
    | none => .next s
  | none => .next s

/-- MIGRATION_REMOVE (R225): the placement goes, and its agent learns of it. Pinned placements stay. -/
def execMigrationRemove (pos : PosId) (addr : DevAddr) (s : State) : Out :=
  let p := pos.val
  let a := addr.toNat
  let n := s.ownerAgent a
  if !s.managed n || !((s.engine p).placed.any fun e => e.addr == a && e.valid && !e.pinned) then .next s
  else
    let s := s.modEngine p fun e => { e with placed := e.placed.filter fun x => x.addr != a || x.pinned }
    .next (s.sendMgmt n .out 19 (leBytes 4 ((s.tileOf p).getD p) ++ leBytes 8 a))

/-- A removal that has reached an agent: the position leaves the copy directory, unless it holds the row again or caches
it (R225). -/
def State.takeRemoval (s : State) (n p a : Nat) : State :=
  let e := s.engine p
  if (e.cache.any fun x => x.addr == a) || e.placed.any fun x => x.addr == a then s
  else s.modAgent n fun x => { x with dir := x.dir.filter fun d => d != (a, p) }

/-! ### Delivery -/

/-- A message that has reached an agent. Only MA(2n) drives the port of its stack (R344). -/
def State.mgmtOut (s : State) (n : Nat) (m : Msg) : State :=
  let b := m.body.drop 1
  match leAt m.body 0 1 with
  | 16 => s.takeRemap n (leAt b 0 8) (leAt b 8 8)
  | 17 =>
    match (s.agent n).mig with
    | some g => if g.noted || g.addr != leAt b 4 8 then s else s.copyMig n g
    | none => s
  | 18 => s.takeRecovery n (leAt b 0 8) (leAt b 8 8) (leAt b 16 8)
  | 19 => s.takeRemoval n (s.posOfTile (leAt b 0 4)) (leAt b 4 8)
  | 20 => if n % 2 = 0 then s.modAgent n fun a => { a with wrapper := b, reading := true } else s
  | 21 => if n % 2 = 0 then s.modAgent n fun a => { a with wrapper := a.wrapper ++ b } else s
  | _ => s

/-- The management messages that a CONTROL flit has completed are handled, in order. -/
def State.takeMgmt (s : State) (n : Nat) (d : Dir) : State :=
  if d == .inb && !s.skOn then s
  else s.each ((s.dir n d).inbox.filter fun m => m.vc == 3) fun s m =>
    match d with
    | .out => (s.pop n d m).mgmtOut n m
    | .inb => (s.pop n d m).mgmtIn n m

/-- CONTROL_FLIT (R323); one that carries an Inventory trigger makes the agent latch (R448). The management messages that
it completes are handled. -/
def execControlFlit (n : AgentId) (dir : Dir) (err : Bytes) (s : State) : Out :=
  let trig := (s.dir n.val dir).wire.head?.any Flit.trig
  s.rxFlit n.val dir 2 err fun _ _ s =>
    let s := s.takeMgmt n.val dir
    if trig && dir == .out && s.obs.snap.st == .latching && s.obs.snap.waiting.contains n.val then s.latchAgent n.val false
    else s

end Sys2Proof.Machine
end

