-- ==== Sys2Proof/Machine/PorterOps.lean ====
section
/-! DEFINITION. A Porter core: its registers, its instructions and their formats (R355 to R357, R362), how one
retires, and its memory map with the data cache (R360, R361, R369 to R375). -/

namespace Sys2Proof.Machine

open Sys2Proof

/-! ### Registers -/

/-- A general register: G0 reads as zero (R355). -/
def Porter.reg (p : Porter) (i : Nat) : Nat := if i = 0 then 0 else p.g.getD (i - 1) 0 % 2 ^ 64

/-- A general register written: writes to G0 are discarded (R355). -/
def Porter.setReg (p : Porter) (i v : Nat) : Porter :=
  if i = 0 then p else { p with g := p.g.set (i - 1) (v % 2 ^ 64) }

/-! ### Instructions (R356, R357, R362) -/

/-- MAJOR. -/
def insMajor (w : Nat) : Nat := fld w 31 26
/-- D, or S of a store. -/
def insD (w : Nat) : Nat := fld w 25 21
def insA (w : Nat) : Nat := fld w 20 16
def insB (w : Nat) : Nat := fld w 15 11
def insFunc (w : Nat) : Nat := fld w 10 0
/-- IMM16 sign-extended to 64 bits. -/
def insImm (w : Nat) : Nat := wrapInt 64 (sext 16 w)
/-- UNIT and OP of a wide instruction. -/
def wideUnit (w : Nat) : Nat := fld w 25 23
def wideOp (w : Nat) : Nat := fld w 22 20

/-- A wide instruction with a UNIT and an OP of R363. -/
def wideOk (w : Nat) : Bool :=
  match wideUnit w with
  | 0 => wideOp w ≤ 1
  | 1 => wideOp w == 0
  | 2 => wideOp w ≤ 2
  | 3 => wideOp w ≤ 3
  | _ => false

/-- An instruction that is not malformed where it stands (R357, R363): no reserved MAJOR, FUNC, UNIT, OP or control
register, and a wide instruction on a 32-byte boundary. -/
def insOk (w pc : Nat) : Bool :=
  let m := insMajor w
  if m = 0x00 then insFunc w ≤ 13
  else if m = 0x18 then insFunc w % 1024 ≤ 14
  else if m = 0x19 then fld w 7 0 ≤ 3
  else if m = 0x1A then insFunc w ≤ 4
  else if m = 0x1B then insFunc w ≤ 2
  else if m = 0x3F then pc % 32 == 0 && wideOk w
  else (1 ≤ m && m ≤ 6) || (8 ≤ m && m ≤ 0x17)

/-- A Porter that runs, with its mailbox entry and the piece of work that it serves. -/
structure Running where
  p : Porter
  e : Mail
  k : Work
  w : Nat                      -- the instruction's first word

/-- The program that a Porter runs now: none when it does not run. -/
def State.porterRuns (s : State) (m : Nat) : Option (Porter × Mail × Work) :=
  let p := s.porter m
  if !s.targetOn || p.st != .running then none
  else match p.cur with
    | some e => match s.work e.work with
      | some k => if k.ended || k.isParked then none else some (p, e, k)
      | none => none
    | none => none

/-- The word at a program counter: none outside the image's PORTER section, or off a 4-byte boundary (log entry
21). -/
def State.insWord (s : State) (pc : Nat) : Option Nat :=
  if pc % 4 = 0 ∧ pc + 4 ≤ s.cfg.porterImage.length then some (leAt s.cfg.porterImage pc 4) else none

/-- An instruction reads or writes a general register (R356, R362). -/
def insUses (w d : Nat) : Bool :=
  let m := insMajor w
  let l := if m = 0x00 ∨ m = 0x18 then [insD w, insA w, insB w]
    else if m = 0x16 then [insD w]
    else if m = 0x1A then [insA w, insB w]
    else if m = 0x3F then [fld w 19 15, fld w 14 10, fld w 9 5]
    else [insD w, insA w]
  d != 0 && l.contains d

/-- An instruction waits for the outstanding miss (R371): it touches the register that the miss will write, or it acts on
the whole cache. -/
def insWaits (w : Nat) (x : Miss) : Bool :=
  x.load.any (insUses w) || [0x19, 0x1A, 0x1B, 0x3F].contains (insMajor w)

/-- A Porter waits for its outstanding miss. -/
def State.waitMiss (s : State) (m : Nat) : State := s.modPorter m fun p => { p with st := .waitMiss }

/-- A program with a host error goes no further (R8). -/
def Running.broken (r : Running) (s : State) : Out := .next (s.openWork r.e.work)

/-- The next instruction of a Porter, when it is of one kind; a malformed one is a host error of its task (R8). -/
def State.insn (s : State) (m : Nat) (is : Nat → Bool) (f : Running → Out) : Out :=
  match s.porterRuns m with
  | none => .next s
  | some (p, e, k) =>
    match s.insWord p.pc with
    | none => .next (s.openWork e.work)
    | some w =>
      if !insOk w p.pc then .next (s.openWork e.work)
      else if !is w then .next s
      else if p.miss.any (insWaits w) then .next (s.waitMiss m)
      else f ⟨p, e, k, w⟩

/-- An instruction retires, and the Porter goes on at an address. -/
def State.retireTo (s : State) (m pc : Nat) : State :=
  (s.modPorter m fun p => { p with pc := pc % 2 ^ 64, st := .running }).count (porterCounter m 0)

/-- A scalar instruction retires with a register written. -/
def State.retireReg (s : State) (m d v : Nat) : State :=
  (s.modPorter m fun p => p.setReg d v).retireTo m ((s.porter m).pc + 4)

/-- A scalar instruction retires. -/
def State.retireNext (s : State) (m : Nat) : State := s.retireTo m ((s.porter m).pc + 4)

/-! ### The memory map (R360, R361) -/

/-- Where a Porter address lies. -/
inductive PAddr where
  | device (a : Nat)
  | local_ (off : Nat)
  | bad
  deriving DecidableEq, Repr

/-- A Porter address of 64 bits. -/
def PAddr.of (v : Nat) : PAddr :=
  if 2 ^ 63 ≤ v then .local_ (v - 2 ^ 63) else if v < 2 ^ 52 then .device v else .bad

/-- The share that a mailbox entry names. -/
def Running.share (r : Running) : Option Share := r.e.share.bind fun i => r.k.shares[i]?

/-- A load from the local map; reserved offsets read zero. What instruction memory holds past the image's section is
open (log entries 2 and 21). -/
def State.localLoad (s : State) (r : Running) (off n : Nat) : Nat × State :=
  if off < 0x20000 then (leNat ((List.range n).map fun i => r.p.localMem.get 0#8 (off + i)), s)
  else if 0x100000 ≤ off ∧ off < 0x100080 then (leAt r.k.raw (off - 0x100000) n, s)
  else if 0x100080 ≤ off ∧ off < 0x100088 then
    match r.share with
    | some sh => (leAt (leBytes 4 sh.first ++ leBytes 4 sh.count) (off - 0x100080) n, s)
    | none => (0, s)
  else if 0x200000 ≤ off ∧ off < 0x210000 then
    if off - 0x200000 + n ≤ s.cfg.porterImage.length then (leAt s.cfg.porterImage (off - 0x200000) n, s)
    else let (v, s) := s.draw; (v % 2 ^ (8 * n), s)
  else (0, s)

/-- An access is made by a Porter's stores. -/
def Owner.isPorter (o : Owner) (m : Nat) : Bool :=
  match o with
  | .porter q _ => q == m
  | _ => false

/-- Unacknowledged writes of a Porter that touch some bytes. -/
def State.porterWrites (s : State) (m a n : Nat) : Bool :=
  s.net.sent.any fun e => e.2.any fun o => o.own.isPorter m && o.msg.addr < a + n && a < o.msg.addr + o.msg.len

/-- Bytes of the Store Room read past the cache, after the Porter's own writes of them, which it waits for. -/
def State.porterRead (s : State) (m dom a n : Nat) : Found := if s.porterWrites m a n then .wait else s.readNow dom a n

/-- Bytes of the Store Room written past the cache; their right was checked. -/
def State.porterWrite (s : State) (m w : Nat) (k : Work) (a : Nat) (b : Bytes) : State :=
  ((s.struck k.domain a b.length).ownQueued (.porter m w) 1 false).sendWr (.porter m w) k.cls a b k.desc.fence

/-! ### The data cache (R369 to R371) -/

/-- The line of an address. -/
def lineOf (a : Nat) : Nat := a / 64 * 64

/-- The set of a line: 256 sets of 4 ways (R369). -/
def lineSet (line : Nat) : Nat := line / 64 % 256

/-- A line becomes the most recently used of its set, and takes some bytes. -/
def Porter.useLine (p : Porter) (l : DLine) : Porter := { p with lines := l :: p.lines.filter fun x => x.addr != l.addr }

/-- A hit. -/
def State.cacheHit (s : State) (m : Nat) (l : DLine) : State := (s.modPorter m fun p => p.useLine l).count (porterCounter m 5)

/-- A miss: the instruction retires, and its access is made when the line has filled; a second miss waits until the
first has filled (R371). -/
def State.cacheMiss (s : State) (m : Nat) (x : Miss) : State :=
  ((s.modPorter m fun p => { p with miss := some x }).count (porterCounter m 6)).retireNext m

/-- The run of line-sequential store misses after one more (R370): its last line and its length. -/
def nextRun (run : Option (Nat × Nat)) (line : Nat) : Nat × Nat :=
  match run with
  | some (l, k) => if line = l then (l, k) else if line = l + 64 then (line, k + 1) else (line, 1)
  | none => (line, 1)

/-- A filled line put into its set: of a full set the least recently used line goes, written back when it is dirty
(R369, R371). -/
def State.fillLine (s : State) (m w : Nat) (l : DLine) : State :=
  let set := (s.porter m).lines.filter fun x => lineSet x.addr == lineSet l.addr
  let s := if set.length < 4 then s
    else match set.getLast? with
      | some v =>
        let s := s.modPorter m fun p => { p with lines := p.lines.filter fun x => x.addr != v.addr }
        if v.dirty then s.writeBack m w (.porter m w) v else s
      | none => s
  s.modPorter m fun p => { p with lines := l :: p.lines }

/-- A line with some bytes written. -/
def DLine.write (l : DLine) (a : Nat) (b : Bytes) : DLine :=
  { l with data := l.data.take (a - l.addr) ++ b ++ l.data.drop (a - l.addr + b.length), dirty := true }

/-- The line of a miss with its access made, and the Porter with the register that a load writes (R371). -/
def Porter.missDone (p : Porter) (x : Miss) (b : Bytes) : Porter × DLine :=
  let l : DLine := ⟨x.line, b, false⟩
  let p := { p with miss := none, st := if p.st = .waitMiss then .running else p.st }
  match x.load with
  | some d => (p.setReg d (leNat (slice b (x.addr - x.line) x.n)), l)
  | none => (p, l.write x.addr x.bytes)

/-- DATA_CACHE_FILL (R371): the outstanding miss fills, and its access is made. A line that the domain may not read ends
the task (R9, R242). -/
def execDataCacheFill (m : PorterId) (s : State) : Out :=
  let m := m.val
  let p := s.porter m
  match p.miss, p.cur with
  | some x, some e =>
    match s.work e.work with
    | some k =>
      if !s.targetOn || k.ended || k.isParked then .next s
      else match s.porterRead m k.domain x.line 64 with
        | .bytes b =>
          let (p, l) := p.missDone x b
          .next ((s.setPorter m p).fillLine m e.work l)
        | .wait => .next s
        | .denied => .next (s.endWork e.work 1)
    | none => .next s
  | _, _ => .next s

/-! ### Loads and stores -/

/-- The address of a MEM instruction. -/
def Running.memAddr (r : Running) : Nat := (r.p.reg (insA r.w) + insImm r.w) % 2 ^ 64

/-- A load of n bytes (R358, R361, R371). -/
def State.loadOp (s : State) (m major n : Nat) : Out :=
  s.insn m (fun w => insMajor w == major) fun r =>
    let v := r.memAddr
    let give (s : State) (b : Bytes) : Out := .next (s.retireReg m (insD r.w) (leNat b))
    if v % n ≠ 0 then r.broken s
    else match PAddr.of v with
      | .bad => r.broken s
      | .local_ off => let (x, s) := s.localLoad r off n; .next (s.retireReg m (insD r.w) x)
      | .device a =>
        if spaceOf a ≠ 0 ∧ spaceOf a ≠ 1 ∨ !s.allows r.k.domain a n 1 then .next (s.endWork r.e.work 1)
        else match s.lostStack a n with
        | some st => .next (s.rewindAndPark r.e.work 2 (.contents st))
        | none =>
        if spaceOf a = 1 then give s (s.load a n)
        else if !r.p.cacheEn then
          match s.porterRead m r.k.domain a n with
          | .bytes b => give s b
          | .wait => .next s
          | .denied => .next (s.endWork r.e.work 1)
        else match r.p.lines.find? fun l => l.addr == lineOf a with
          | some l => give (s.cacheHit m l) (slice l.data (a - l.addr) n)
          | none =>
            if r.p.miss.isSome then .next (s.waitMiss m)
            else .next ((s.modPorter m fun p => { p with run := none }).cacheMiss m ⟨lineOf a, a, n, some (insD r.w), []⟩)

/-- A store of n bytes (R358, R361, R370, R371, R373). -/
def State.storeOp (s : State) (m major n : Nat) : Out :=
  s.insn m (fun w => insMajor w == major) fun r =>
    let v := r.memAddr
    let b := leBytes n (r.p.reg (insD r.w))
    if v % n ≠ 0 then r.broken s
    else match PAddr.of v with
      | .bad => r.broken s
      | .local_ off =>
        if 0x20000 ≤ off then r.broken s
        else
          let mem := b.zipIdx.foldl (fun t e => t.set 0#8 (off + e.2) e.1) r.p.localMem
          .next ((s.modPorter m fun p => { p with localMem := mem }).retireNext m)
      | .device a =>
        if spaceOf a ≠ 0 ∧ spaceOf a ≠ 1 ∨ !s.allows r.k.domain a n 2 then .next (s.endWork r.e.work 1)
        else match s.lostStack a n with
        | some st => .next (s.rewindAndPark r.e.work 2 (.contents st))
        | none =>
        let s := s.checkStore r.e.work r.k.domain a n
        if spaceOf a = 1 then .next (((s.struck r.k.domain a n).store a b).retireNext m)
        else if !r.p.cacheEn then .next ((s.porterWrite m r.e.work r.k a b).retireNext m)
        else match r.p.lines.find? fun l => l.addr == lineOf a with
          | some l => .next ((s.cacheHit m (l.write a b)).retireNext m)
          | none =>
            if r.p.miss.isSome then .next (s.waitMiss m)
            else
              let run := nextRun r.p.run (lineOf a)
              let s := s.modPorter m fun p => { p with run := some run }
              if run.2 ≤ 8 then .next (s.cacheMiss m ⟨lineOf a, a, n, none, b⟩)
              else .next (((s.porterWrite m r.e.work r.k a b).count (porterCounter m 6)).retireNext m)

end Sys2Proof.Machine
end

