-- ==== Sys2Proof/Machine/PorterScalar.lean ====
section
/-! DEFINITION. The scalar instructions of a Porter (R357, R358): integer arithmetic, loads and stores, branches,
floating point and control registers. -/

namespace Sys2Proof.Machine

open Sys2Proof

/-! ### ALU -/

/-- A REG instruction of MAJOR 0x00: D takes a function of A and B, modulo 2^64. -/
def State.aluOp (s : State) (m func : Nat) (f : Nat → Nat → Nat) : Out :=
  s.insn m (fun w => insMajor w == 0x00 && insFunc w == func) fun r =>
    .next (s.retireReg m (insD r.w) (f (r.p.reg (insA r.w)) (r.p.reg (insB r.w)) % 2 ^ 64))

/-- A shift by B: the spec gives no result for an amount of 64 or more, which takes a free value (log entry 2). -/
def State.shiftOp (s : State) (m func : Nat) (f : Nat → Nat → Nat) : Out :=
  s.insn m (fun w => insMajor w == 0x00 && insFunc w == func) fun r =>
    let b := r.p.reg (insB r.w)
    if b < 64 then .next (s.retireReg m (insD r.w) (f (r.p.reg (insA r.w)) b))
    else let (v, s) := s.draw; .next (s.retireReg m (insD r.w) v)

/-- The three shifts of 64 bits. -/
def shiftLeft (a n : Nat) : Nat := (a <<< n) % 2 ^ 64
def shiftRight (a n : Nat) : Nat := a >>> n
def shiftArith (a n : Nat) : Nat := wrapInt 64 (sext 64 a / (2 ^ n : Nat))

/-- Is one 64-bit value below another, signed? -/
def sltOf (a b : Nat) : Bool := sext 64 a < sext 64 b

def execAdd (m : PorterId) (s : State) : Out := s.aluOp m 0 fun a b => a + b
def execSub (m : PorterId) (s : State) : Out := s.aluOp m 1 fun a b => a + 2 ^ 64 - b
def execAnd (m : PorterId) (s : State) : Out := s.aluOp m 2 fun a b => a &&& b
def execOr (m : PorterId) (s : State) : Out := s.aluOp m 3 fun a b => a ||| b
def execXor (m : PorterId) (s : State) : Out := s.aluOp m 4 fun a b => a ^^^ b
def execSll (m : PorterId) (s : State) : Out := s.shiftOp m 5 shiftLeft
def execSrl (m : PorterId) (s : State) : Out := s.shiftOp m 6 shiftRight
def execSra (m : PorterId) (s : State) : Out := s.shiftOp m 7 shiftArith
def execMul (m : PorterId) (s : State) : Out := s.aluOp m 8 fun a b => a * b
def execMulhu (m : PorterId) (s : State) : Out := s.aluOp m 9 fun a b => a * b / 2 ^ 64
def execDivu (m : PorterId) (s : State) : Out := s.aluOp m 10 fun a b => if b = 0 then 2 ^ 64 - 1 else a / b
def execRemu (m : PorterId) (s : State) : Out := s.aluOp m 11 fun a b => if b = 0 then a else a % b
def execSlt (m : PorterId) (s : State) : Out := s.aluOp m 12 fun a b => bitAt (sltOf a b) 0
def execSltu (m : PorterId) (s : State) : Out := s.aluOp m 13 fun a b => bitAt (decide (a < b)) 0

/-! ### Immediates -/

/-- An IMM instruction: D takes a function of A and IMM16. -/
def State.immOp (s : State) (m major : Nat) (f : Nat → Nat → Nat) : Out :=
  s.insn m (fun w => insMajor w == major) fun r =>
    .next (s.retireReg m (insD r.w) (f (r.p.reg (insA r.w)) (r.w % 2 ^ 16)))

def execAddi (m : PorterId) (s : State) : Out := s.immOp m 0x01 fun a i => (a + wrapInt 64 (sext 16 i)) % 2 ^ 64
def execAndi (m : PorterId) (s : State) : Out := s.immOp m 0x02 fun a i => a &&& i
def execOri (m : PorterId) (s : State) : Out := s.immOp m 0x03 fun a i => a ||| i
def execXori (m : PorterId) (s : State) : Out := s.immOp m 0x04 fun a i => a ^^^ i

/-- SHI: IMM16[7:6] names the shift; 3 is reserved. -/
def execShi (m : PorterId) (s : State) : Out :=
  s.insn m (fun w => insMajor w == 0x05) fun r =>
    let a := r.p.reg (insA r.w)
    let n := fld r.w 5 0
    match fld r.w 7 6 with
    | 0 => .next (s.retireReg m (insD r.w) (shiftLeft a n))
    | 1 => .next (s.retireReg m (insD r.w) (shiftRight a n))
    | 2 => .next (s.retireReg m (insD r.w) (shiftArith a n))
    | _ => r.broken s

def execLui (m : PorterId) (s : State) : Out := s.immOp m 0x06 fun _ i => wrapInt 64 (sext 32 (i * 2 ^ 16))

/-! ### Loads and stores -/

def execLdB (m : PorterId) (s : State) : Out := s.loadOp m 0x08 1
def execLdH (m : PorterId) (s : State) : Out := s.loadOp m 0x09 2
def execLdW (m : PorterId) (s : State) : Out := s.loadOp m 0x0A 4
def execLdD (m : PorterId) (s : State) : Out := s.loadOp m 0x0B 8
def execStB (m : PorterId) (s : State) : Out := s.storeOp m 0x0C 1
def execStH (m : PorterId) (s : State) : Out := s.storeOp m 0x0D 2
def execStW (m : PorterId) (s : State) : Out := s.storeOp m 0x0E 4
def execStD (m : PorterId) (s : State) : Out := s.storeOp m 0x0F 8

/-! ### Branches and jumps -/

/-- A BR instruction: the offset counts words from the branch. Its operands stand in [25:21] and [20:16]. -/
def State.branchOp (s : State) (m major : Nat) (f : Nat → Nat → Bool) : Out :=
  s.insn m (fun w => insMajor w == major) fun r =>
    if f (r.p.reg (insD r.w)) (r.p.reg (insA r.w)) then .next (s.retireTo m (r.p.pc + 4 * insImm r.w))
    else .next (s.retireNext m)

def execBeq (m : PorterId) (s : State) : Out := s.branchOp m 0x10 fun a b => a == b
def execBne (m : PorterId) (s : State) : Out := s.branchOp m 0x11 fun a b => a != b
def execBlt (m : PorterId) (s : State) : Out := s.branchOp m 0x12 sltOf
def execBge (m : PorterId) (s : State) : Out := s.branchOp m 0x13 fun a b => !sltOf a b
def execBltu (m : PorterId) (s : State) : Out := s.branchOp m 0x14 fun a b => decide (a < b)
def execBgeu (m : PorterId) (s : State) : Out := s.branchOp m 0x15 fun a b => !decide (a < b)

/-- JAL. -/
def execJal (m : PorterId) (s : State) : Out :=
  s.insn m (fun w => insMajor w == 0x16) fun r =>
    .next ((s.modPorter m fun p => p.setReg (insD r.w) (r.p.pc + 4)).retireTo m (r.p.pc + 4 * wrapInt 64 (sext 21 r.w)))

/-- JALR. -/
def execJalr (m : PorterId) (s : State) : Out :=
  s.insn m (fun w => insMajor w == 0x17) fun r =>
    .next ((s.modPorter m fun p => p.setReg (insD r.w) (r.p.pc + 4)).retireTo m (r.p.reg (insA r.w) + insImm r.w))

/-! ### Floating point -/

/-- The format of an FP instruction: FUNC[10]. -/
def fpFmt (w : Nat) : FFmt := if bitOf w 10 then FFmt.fp64 else FFmt.fp32

/-- An FP instruction: D takes a function of the codes in A and B, in the format of FUNC[10]. -/
def State.fpOp (s : State) (m op : Nat) (f : FFmt → Nat → Nat → Nat) : Out :=
  s.insn m (fun w => insMajor w == 0x18 && insFunc w % 1024 == op) fun r =>
    let q := fpFmt r.w
    .next (s.retireReg m (insD r.w) (f q (r.p.reg (insA r.w) % 2 ^ q.bits) (r.p.reg (insB r.w) % 2 ^ q.bits)))

/-- FMIN and FMAX (R358): a not-a-number operand is passed over, and −0 lies below +0. -/
def fpPick (q : FFmt) (less : FV → FV → Bool) (a b : Nat) : Nat :=
  let x := q.decode a
  let y := q.decode b
  if x.isNan then (if y.isNan then q.nanCode else b)
  else if y.isNan then a
  else if less x y then a else b

def execFadd (m : PorterId) (s : State) : Out := s.fpOp m 0 FFmt.add
def execFsub (m : PorterId) (s : State) : Out := s.fpOp m 1 FFmt.sub
def execFmul (m : PorterId) (s : State) : Out := s.fpOp m 2 FFmt.mul
def execFdiv (m : PorterId) (s : State) : Out := s.fpOp m 3 FFmt.div
def execFsqrt (m : PorterId) (s : State) : Out := s.fpOp m 4 fun q a _ => q.sqrt a
def execFmin (m : PorterId) (s : State) : Out := s.fpOp m 5 fun q a b => fpPick q ltZ a b
def execFmax (m : PorterId) (s : State) : Out := s.fpOp m 6 fun q a b => fpPick q (fun x y => ltZ y x) a b

/-- The comparisons write 1 or 0, and 0 for a not-a-number (R358). -/
def execFle (m : PorterId) (s : State) : Out := s.fpOp m 7 fun q a b =>
  bitAt ((q.decode a).lt (q.decode b) || (q.decode a).eq (q.decode b)) 0
def execFlt (m : PorterId) (s : State) : Out := s.fpOp m 8 fun q a b => bitAt ((q.decode a).lt (q.decode b)) 0
def execFeq (m : PorterId) (s : State) : Out := s.fpOp m 9 fun q a b => bitAt ((q.decode a).eq (q.decode b)) 0

/-- FCVT.D and FCVT.S read one format and write the other, whatever FUNC[10] is. -/
def State.fcvtOp (s : State) (m op : Nat) (src dst : FFmt) : Out :=
  s.insn m (fun w => insMajor w == 0x18 && insFunc w % 1024 == op) fun r =>
    .next (s.retireReg m (insD r.w) (dst.encode .nearest (src.decode (r.p.reg (insA r.w) % 2 ^ src.bits))))

def execFcvtD (m : PorterId) (s : State) : Out := s.fcvtOp m 10 FFmt.fp32 FFmt.fp64
def execFcvtS (m : PorterId) (s : State) : Out := s.fcvtOp m 11 FFmt.fp64 FFmt.fp32

/-- A value as a signed 64-bit integer: nearest, ties to even, saturating; none for a not-a-number. -/
def toInt64 (v : FV) : Option Int :=
  match v with
  | .nan => none
  | .inf neg => some (if neg then -(2 ^ 63) else 2 ^ 63 - 1)
  | .fin n mant e => some (max (-(2 ^ 63)) (min (2 ^ 63 - 1) (nearestInt n mant 1 e)))

/-- FCVT.I: the spec gives no result for a not-a-number, which takes a free value (log entry 2). -/
def execFcvtI (m : PorterId) (s : State) : Out :=
  s.insn m (fun w => insMajor w == 0x18 && insFunc w % 1024 == 12) fun r =>
    let q := fpFmt r.w
    match toInt64 (q.decode (r.p.reg (insA r.w) % 2 ^ q.bits)) with
    | some i => .next (s.retireReg m (insD r.w) (wrapInt 64 i))
    | none => let (v, s) := s.draw; .next (s.retireReg m (insD r.w) v)

/-- ICVT. -/
def execIcvt (m : PorterId) (s : State) : Out := s.insn m (fun w => insMajor w == 0x18 && insFunc w % 1024 == 13) fun r =>
  let i := sext 64 (r.p.reg (insA r.w))
  .next (s.retireReg m (insD r.w) ((fpFmt r.w).encode .nearest (.fin (decide (i < 0)) i.natAbs 0)))

/-- FPK (R138, R358): the format is bits [3:0] of the value of B. A reserved format is a host error. R138 gives
integer formats no rule without a channel's scale: their code takes a free value (log entry 2). -/
def execFpk (m : PorterId) (s : State) : Out :=
  s.insn m (fun w => insMajor w == 0x18 && insFunc w % 1024 == 14) fun r =>
    let a := r.p.reg (insA r.w) % 2 ^ 32
    match Fmt.ofCode (r.p.reg (insB r.w) % 16) with
    | none => r.broken s
    | some .fp32 => .next (s.retireReg m (insD r.w) a)
    | some f =>
      if f = .int8 ∨ f = .int4 then let (v, s) := s.draw; .next (s.retireReg m (insD r.w) (v % 2 ^ f.bits))
      else .next (s.retireReg m (insD r.w) (requantCode f default (FFmt.fp32.decode a)).1)

/-! ### Control registers -/

/-- CSRR (R355): CYCLES is a free value (log entry 2). -/
def execCsrr (m : PorterId) (s : State) : Out :=
  s.insn m (fun w => insMajor w == 0x19 && !bitOf w 15) fun r =>
    match fld r.w 7 0 with
    | 0 => .next (s.retireReg m (insD r.w) r.e.porter)
    | 1 => .next (s.retireReg m (insD r.w) (bitAt r.p.cacheEn 0))
    | 2 => .next (s.retireReg m (insD r.w) r.p.ticketMask)
    | _ => let (v, s) := s.draw; .next (s.retireReg m (insD r.w) v)

/-- CSRW: CACHE_EN is the one control register that a write changes (R355, R373). -/
def execCsrw (m : PorterId) (s : State) : Out :=
  s.insn m (fun w => insMajor w == 0x19 && bitOf w 15) fun r =>
    let s := if fld r.w 7 0 = 1 then s.modPorter m fun p => { p with cacheEn := bitOf (r.p.reg (insA r.w)) 0 } else s
    .next (s.retireNext m)

/-! ### Cache operations (R374) -/

/-- The lines of the range that A and B name; a range outside space 0x0 has none. -/
def Running.inRange (r : Running) (l : DLine) : Bool :=
  match PAddr.of (r.p.reg (insA r.w)) with
  | .device a => lineOf a ≤ l.addr && l.addr < lineOf a + 64 * r.p.reg (insB r.w)
  | _ => false

/-- A cache operation: the dirty lines that clean picks are written back, and the lines that drop picks go. -/
def State.cacheOp (s : State) (m func : Nat) (clean drop : Running → DLine → Bool) : Out :=
  s.insn m (fun w => insMajor w == 0x1A && insFunc w == func) fun r =>
    let s := s.each (r.p.lines.filter fun l => l.dirty && clean r l) fun s l => s.writeBack m r.e.work (.porter m r.e.work) l
    .next ((s.modPorter m fun p => { p with
      lines := (r.p.lines.map fun l => if clean r l then { l with dirty := false } else l).filter fun l =>
        !drop r l }).retireNext m)

def execCclean (m : PorterId) (s : State) : Out := s.cacheOp m 0 Running.inRange fun _ _ => false
def execCinv (m : PorterId) (s : State) : Out := s.cacheOp m 1 (fun _ _ => false) Running.inRange
def execCflush (m : PorterId) (s : State) : Out := s.cacheOp m 2 Running.inRange Running.inRange
def execCinvAll (m : PorterId) (s : State) : Out := s.cacheOp m 3 (fun _ _ => false) fun _ _ => true
def execCflushAll (m : PorterId) (s : State) : Out := s.cacheOp m 4 (fun _ _ => true) fun _ _ => true

end Sys2Proof.Machine
end

