-- ==== Sys2Proof/Machine/PorterWide.lean ====
section
/-! DEFINITION. Programs and wide instructions of a Porter (R347 to R354, R362 to R368, R376). -/

namespace Sys2Proof.Machine

open Sys2Proof

/-! ### Programs -/

/-- The program entry that a mailbox entry runs (R348, R353). -/
def State.programOf (s : State) (k : Work) (e : Mail) : Nat :=
  if e.share.isSome then (s.cfg.prepEntry k.desc.table).getD 0 else k.desc.porterEntry

/-- PORTER_PROGRAM_START (R347, R349): an idle Porter starts its oldest mailbox entry, which stays in the mailbox
until HALT. An entry that the image leaves unused is a host error of the task (R8). -/
def execPorterProgramStart (m : PorterId) (s : State) : Out :=
  let m := m.val
  let p := s.porter m
  match p.mail with
  | [] => .next s
  | e :: _ =>
    match s.work e.work with
    | none => .next s
    | some k =>
      if !s.targetOn || p.st != .idle || p.retired || k.ended || k.isParked then .next s
      else
        let n := s.programOf k e
        if s.cfg.entry n = 0xFFFFFFFF then .next (s.openWork e.work)
        else
          let g1 := if e.share.isSome then 0x8000000000100000 else k.desc.param1
          let p := { p with
            st := .running, g := g1 :: e.porter :: List.replicate 29 0, pc := s.cfg.entry n, cacheEn := true
            tickets := List.replicate 16 .free, cur := some e, entry := n, released := false, lines := []
            run := none, miss := none, pair := 0, need := 0 }
          .next ((s.setPorter m p).tally (64 + m) 0 k.ringSlot.1 k.ringSlot.2)

/-- A Porter releases its share: the dispatcher takes it with its bags (R354). -/
def State.releaseShare (s : State) (w i : Nat) (f : Share → Share) : State :=
  s.modWork w fun k => { k with
    shares := k.shares.zipIdx.map fun e => if e.2 = i then { f e.1 with released := true } else e.1 }

/-- The ticket of an operation whose program has executed HALT is of no program that runs from now on (R350, R366). -/
def Work.leaveTicket (m : Nat) (k : Work) : Work :=
  match k.src with
  | .porter w m' t l => if m' = m ∧ t < 16 then { k with src := .porter w m' (t + 16) l } else k
  | _ => k

/-- A Porter leaves its program with operations outstanding. -/
def State.leaveTickets (s : State) (m : Nat) : State :=
  let later (u : Nat × Nat × Nat) : Nat × Nat × Nat := if u.1 = m ∧ u.2.2 < 16 then (u.1, u.2.1, u.2.2 + 16) else u
  let s := s.each (s.works.map (·.1)) fun s w => s.modWork w (Work.leaveTicket m)
  s.modMov fun v => { v with chans := v.chans.map fun e => (e.1, { e.2 with
    user := e.2.user.map later, gone := e.2.gone.map later
    heads := e.2.heads.map fun h => { h with user := h.user.map later } }) }

/-- HALT (R350, R354, R376): the cache is flushed, a share that was not released is released empty, and the Porter
leaves its program and its mailbox entry. -/
def execHalt (m : PorterId) (s : State) : Out :=
  let m := m.val
  s.insn m (fun w => insMajor w == 0x1B && insFunc w == 2) fun r =>
    let s := (s.count (porterCounter m 0)).leaveCache m
    let s := match r.e.share with
      | some i => if r.p.released then s else s.releaseShare r.e.work i fun sh => { sh with count := 0 }
      | none => s.modWork r.e.work fun k => { k with
          porters := if bitOf k.porters r.e.porter then k.porters - 2 ^ r.e.porter else k.porters }
    let s := s.modPorter m fun p => { p with
      st := .idle, cur := none, mail := p.mail.drop 1, tickets := List.replicate 16 .free, lines := []
      run := none, miss := none }
    .next ((s.leaveTickets m).tally (64 + m) 1 r.k.ringSlot.1 r.k.ringSlot.2)

/-- SYS FENCE (R367): it waits until every store and write-back has been acknowledged. -/
def execSysFence (m : PorterId) (s : State) : Out :=
  s.insn m (fun w => insMajor w == 0x1B && insFunc w == 0) fun r =>
    if r.p.unacked = 0 then .next (s.retireNext m) else .next s

/-! ### Tickets (R366) -/

/-- WAITT: a ticket whose operation has completed frees; one that runs stops the Porter. The ticket is the value of
A; a number that no ticket has, and a ticket not in use, has no operation to wait for (log entry 22). -/
def execWaitt (m : PorterId) (s : State) : Out :=
  let m := m.val
  s.insn m (fun w => insMajor w == 0x1B && insFunc w == 1) fun r =>
    let t := r.p.reg (insA r.w)
    match r.p.tickets.getD t .free with
    | .free => .next (s.retireNext m)
    | .ready => .next ((s.modPorter m fun p => { p with tickets := p.tickets.set t .free }).retireNext m)
    | .running _ => .next (s.modPorter m fun p => { p with st := .waitTicket, need := t })

/-- A GATHER or SCORE operation has reached its completion point (R366). -/
def Work.opDone (k : Work) : Bool :=
  (if k.desc.isScore 3 then k.query.isSome else k.bagsDone && (k.stats.isNone || k.statsDone)) &&
    k.unissued == 0 && k.storeUnacked == 0

/-- An operation that a Porter launched under a ticket has not completed. -/
def Work.underTicket (k : Work) (m t : Nat) : Bool :=
  match k.src with
  | .porter _ m' t' _ => m' == m && t' == t && !k.ended && !k.isParked
  | _ => false

/-- The operations of a Porter's ticket that have not completed: one of the program that runs, and those of programs that
have executed HALT (R350). -/
def State.opsOf (s : State) (m t : Nat) : List Nat :=
  (s.works.filter fun e => e.2.underTicket m t || e.2.underTicket m (t + 16)).map (·.1)

/-- A mover list that a Porter launched with a ticket is queued or runs. -/
def State.listOf (s : State) (m w t : Nat) : Bool :=
  s.mov.chans.any fun e => e.2.user == some (m, w, t) || (e.2.heads.any fun h => h.user == some (m, w, t)) ||
    e.2.gone.contains (m, w, t)

/-- A ticket's operation has completed: the ticket frees, or is ready for WAITT, and a WAITT that waits for it goes
on. -/
def State.ticketDone (s : State) (m t : Nat) (auto : Bool) : State :=
  let p := s.porter m
  if p.st = .waitTicket ∧ p.need = t then
    (s.modPorter m fun p => { p with tickets := p.tickets.set t .free }).retireNext m
  else s.modPorter m fun p => { p with tickets := p.tickets.set t (if auto then .free else .ready) }

/-- An operation completes. It stays with its task until the record of the task, which sums its counts (R350). -/
def State.opEnds (s : State) (w : Nat) : State := (s.leave w).modWork w fun k => { k with ended := true }

/-- TICKET_COMPLETE (R254, R287, R350, R366): an operation of the ticket that has reached its completion point ends. The
ticket follows when the operation is one of the program that runs; a ticket without an operation is a mover list's, or a
release's. -/
def execTicketComplete (m : PorterId) (t : TicketId) (s : State) : Out :=
  let m := m.val
  let t := t.val
  if !s.targetOn then .next s
  else
    let s := s.each (s.opsOf m t) fun s w => s.tryQload w
    let p := s.porter m
    let cur := p.cur.map Mail.work
    let auto := p.tickets.getD t .free == .running true
    let runs := p.tickets.getD t .free == .running true || p.tickets.getD t .free == .running false
    let mine (w : Nat) : Bool := runs && cur.isSome && (s.work w).any fun k => k.underTicket m t
    match (s.opsOf m t).find? fun w => (s.work w).any Work.opDone with
    | some w => if mine w then .next ((s.opEnds w).ticketDone m t auto) else .next (s.opEnds w)
    | none => match cur with
      | some c =>
        if !runs || (s.work c).all (fun k => k.ended || k.isParked) || (s.opsOf m t).any mine || s.listOf m c t then .next s
        else .next (s.ticketDone m t auto)
      | none => .next s

/-! ### Wide instructions -/

/-- A wide instruction (R362, R363, R367): it issues once every earlier store and write-back is acknowledged, and,
when it launches something, a ticket is free. legal says whether it may stand in the program that runs; f gets the 256
bits and the ticket. -/
def State.wide (s : State) (m unit op : Nat) (ticket : Bool) (legal : Running → Bool)
    (f : Running → Nat → Nat → Out) : Out :=
  s.insn m (fun w => insMajor w == 0x3F && wideUnit w == unit && wideOp w == op) fun r =>
    if s.cfg.porterImage.length < r.p.pc + 32 || !legal r then r.broken s
    else if r.p.unacked ≠ 0 then .next s
    else match if ticket then r.p.tickets.findIdx? (· == .free) else some 0 with
      | none => .next s
      | some t => f r (leAt s.cfg.porterImage r.p.pc 32) t

/-- A PORTER task runs, and no share. -/
def Running.inTask (r : Running) : Bool := r.e.share.isNone

/-- A wide instruction retires, counted by its unit (R441). -/
def State.retireWide (s : State) (m unit pc : Nat) : State :=
  (s.count (porterCounter m (1 + unit))).retireTo m (pc + 32)

/-- A launch retires: its ticket is in use, and TD holds its number unless TD is G0 (R366). -/
def State.launched (s : State) (m unit t : Nat) (r : Running) : State :=
  let td := fld r.w 19 15
  (s.modPorter m fun p => ({ p with tickets := p.tickets.set t (.running (td == 0)) } : Porter).setReg td t).retireWide
    m unit r.p.pc

/-- The 128 bytes of the descriptor that GA names: it must lie in space 0x0 or 0x1 (R363). A task that needs a stack whose
contents are lost is parked (R421). -/
def State.launchDesc (s : State) (r : Running) (f : Bytes → Out) : Out :=
  let a := r.p.reg (fld r.w 14 10)
  if 2 ^ 52 ≤ a ∨ (spaceOf a ≠ 0 ∧ spaceOf a ≠ 1) then r.broken s
  else match s.readNow r.k.domain a 128, s.lostStack a 128 with
    | .denied, _ => .next (s.endWork r.e.work 1)
    | _, some st => .next (s.rewindAndPark r.e.work 2 (.contents st))
    | .bytes b, none => f b
    | .wait, none => .next s

/-- Two raw descriptors agree in the fields that a released share may not change (R354). -/
def sameShare (a b : Bytes) : Bool :=
  let keep (i mask : Nat) : Bool := wordAt a i &&& (2 ^ 64 - 1 - mask) == wordAt b i &&& (2 ^ 64 - 1 - mask)
  keep 0 (bitsMask 10 8 + bitsMask 33 32) && keep 1 (bitsMask 55 0) && keep 2 (bitsMask 31 0 + bitsMask 47 40) &&
    [7, 9, 10, 11, 14, 15].all fun i => keep i 0

/-- A released share's descriptor breaks R354, or is malformed as its kind says. -/
def State.badShare (s : State) (k : Work) (sh : Share) (b : Bytes) : Bool :=
  let d := TaskDesc.ofBytes b
  !sameShare k.raw b || reservedTask b || d.result != k.desc.result + sh.first * k.desc.rstride ||
    d.side != k.desc.side + 8 * sh.first || d.bags != sh.count ||
    match d.kind with
    | some .gather => s.badGatherTask d
    | some .scatter => s.badScatter d
    | some .score => s.badCandidate d
    | _ => true

/-- ENGINE RELEASE (R354): the dispatcher takes the share at once. -/
def execEngineRelease (m : PorterId) (s : State) : Out :=
  let m := m.val
  s.wide m 0 0 true (fun r => r.e.share.isSome) fun r _ t =>
    match r.e.share, r.share with
    | some i, some sh =>
      s.launchDesc r fun b =>
        if r.p.released ∨ s.badShare r.k sh b then r.broken s
        else
          let s := s.releaseShare r.e.work i fun sh => { sh with desc := TaskDesc.ofBytes b }
          .next ((s.modPorter m fun p => { p with released := true }).launched m 0 t r)
    | _, _ => r.broken s

/-- The pair of a launch with LINK = 1 (R363). -/
def linkOf (w : Nat) : Option Nat := if bitOf w 42 then some (fld w 41 32) else none

/-- A GATHER or SCORE launch in the class and domain of its task (R351, R363, R365): start begins the operation. The
FENCE option of the task holds for the writes of its operations (R288). -/
def State.launchOp (s : State) (m unit : Nat) (bad : TaskDesc → Bool) (start : Nat → TaskDesc → State → State) : Out :=
  s.wide m unit (if unit = 0 then 1 else 0) true Running.inTask fun r w t =>
    s.launchDesc r fun b =>
      let d := TaskDesc.ofBytes b
      let d := { d with fence := d.fence || r.k.desc.fence }
      if bad d || d.prep || reservedTask b then r.broken s
      else if (linkOf w).any fun p => s.depth p == 0 then r.broken s
      else
        let k := { Work.start (.porter r.e.work m t (linkOf w)) r.k.cls r.k.domain d r.k.epoch with
          raw := b, dead := r.k.dead }
        let (n, s) := s.newWork k
        .next (start n d ((s.launched m unit t r).checkOverlap n))

/-- ENGINE GATHER. -/
def execEngineGather (m : PorterId) (s : State) : Out :=
  s.launchOp m 0 (fun d => d.kind != some .gather || s.badGatherTask d) State.startGather

/-- A malformed SCORE descriptor of any mode (R151, R153). -/
def State.badScore (s : State) (d : TaskDesc) : Bool :=
  match d.score.mode with
  | 0 => s.badCandidate d
  | 1 => d.badArray d.score.outputs || (d.score.f == 1 && !d.score.self)
  | 2 => s.cfg.badProject d
  | _ => d.badQload

/-- A SCORE operation of any mode begins (R154, R160, R165, R168, R415). -/
def State.startScore (w : Nat) (d : TaskDesc) (s : State) : State :=
  match d.score.mode with
  | 0 => s
  | 1 => s.startArray w d.score.outputs d
  | 2 =>
    match s.cfg.projSet d.score.set with
    | some p =>
      let s := s.startArray w p.p d
      match s.retiredIn p with
      | some a => s.park (s.root w) (.array a)
      | none => s
    | none => s
  | _ => s.tryQload w

/-- ARRAY SCORE. -/
def execArrayScore (m : PorterId) (s : State) : Out :=
  s.launchOp m.val 1 (fun d => d.kind != some .score || s.badScore d) State.startScore

/-! ### Mover operations (R363, R364) -/

/-- A channel that this Porter may use; a retired Porter's channels act for its partner (R364, R414). -/
def State.ownsChan (s : State) (r : Running) (ch : Nat) : Bool :=
  ch < 28 && (s.cfg.chan ch).porterOwned && (s.cfg.chan ch).porter == r.e.porter

/-- A list head queued for a Porter: a launch that finds QFREE = 0 waits (R364). -/
def State.launchList (s : State) (m t ch : Nat) (r : Running) (addr : Nat) (built : Option Bytes) : Out :=
  if !s.ownsChan r ch then r.broken s
  else if 4 ≤ (s.chan ch).heads.length then .next s
  else .next ((s.queueHead ch ⟨addr, built, some (m, r.e.work, t)⟩).launched m 2 t r)

/-- MOVER LIST: its head lies in space 0x0 or 0x1 (R363). -/
def execMoverList (m : PorterId) (s : State) : Out :=
  s.wide m.val 2 0 true (fun _ => true) fun r w t =>
    let a := r.p.reg (fld r.w 14 10)
    if a % 64 ≠ 0 ∨ 2 ^ 52 ≤ a ∨ 2 ≤ spaceOf a then r.broken s else s.launchList m.val t (fld w 36 32) r a none

/-- The descriptor that MOVER COPY builds (R248, R364). -/
def copyDesc (w src dst : Nat) : Bytes :=
  let c := put (fld w 205 203) 3 4 + bitAt (bitOf w 206) 7 + bitAt true 9 + put (fld w 202 200) 3 10
  let n := put (fld w 55 32) 24 0 + put (fld w 71 56) 16 24
  leBytes 8 c ++ leBytes 8 src ++ leBytes 8 dst ++ leBytes 8 0 ++ leBytes 8 n ++ leBytes 4 (fld w 103 72) ++
    leBytes 4 (fld w 135 104) ++ leBytes 4 0 ++ leBytes 4 (fld w 167 136) ++ leBytes 4 (fld w 199 168) ++ leBytes 4 0

/-- MOVER COPY. -/
def execMoverCopy (m : PorterId) (s : State) : Out :=
  s.wide m.val 2 1 true (fun _ => true) fun r w t =>
    let a := r.p.reg (fld r.w 14 10)
    let b := r.p.reg (fld r.w 9 5)
    if 2 ^ 52 ≤ a ∨ 2 ^ 52 ≤ b then r.broken s
    else s.launchList m.val t (fld w 211 207) r 0 (some (copyDesc w a b))

/-- MOVER ABORT (R256, R364): it launches nothing, so that it takes no ticket (log entry 22). -/
def execMoverAbort (m : PorterId) (s : State) : Out :=
  let m := m.val
  s.wide m 2 2 false (fun _ => true) fun r w _ =>
    if !s.ownsChan r (fld w 36 32) then r.broken s
    else .next ((s.stopChan (fld w 36 32) 2).retireTo m (r.p.pc + 32))

/-! ### Semaphore operations (R368) -/

/-- A count of a pair. -/
def Sem.countOf (v : Sem) (fill : Bool) : Nat := if fill then v.fill else v.space

/-- A count taken from a pair. -/
def Sem.take (v : Sem) (fill : Bool) (n : Nat) : Sem :=
  if fill then { v with fill := v.fill - n, stalled := false } else { v with space := v.space - n, stalled := false }

/-- A count added to a pair. -/
def Sem.add (v : Sem) (fill : Bool) (n : Nat) : Sem :=
  if fill then { v with fill := v.fill + n, stalled := false } else { v with space := v.space + n, stalled := false }

/-- A SEM operation on an assigned pair; f gets the pair and the count. -/
def State.semOp (s : State) (m op : Nat) (f : Running → Nat → Nat → Out) : Out :=
  s.wide m 3 op false Running.inTask fun r w _ =>
    let p := fld w 41 32
    if s.depth p = 0 then r.broken s else f r p (fld w 53 42 + 1)

/-- WAIT_SPACE and WAIT_FILL: the Porter stops until the count is there. -/
def State.semWait (s : State) (m op : Nat) (fill : Bool) : Out :=
  s.semOp m op fun r p n =>
    let v := s.sem p
    if n ≤ v.countOf fill then .next ((s.setSem p (v.take fill n)).retireWide m 3 r.p.pc)
    else .next ((s.count (porterCounter m 4)).modPorter m fun q => { q with st := .waitSem, pair := p, need := n })

/-- POST_FILL and POST_SPACE. -/
def State.semPost (s : State) (m op : Nat) (fill : Bool) : Out :=
  s.semOp m op fun r p n =>
    let v := s.sem p
    if s.depth p < v.fill + v.space + n then r.broken s
    else .next ((s.setSem p (v.add fill n)).retireWide m 3 r.p.pc)

def execWaitSpace (m : PorterId) (s : State) : Out := s.semWait m.val 0 false
def execPostFill (m : PorterId) (s : State) : Out := s.semPost m.val 1 true
def execWaitFill (m : PorterId) (s : State) : Out := s.semWait m.val 2 true
def execPostSpace (m : PorterId) (s : State) : Out := s.semPost m.val 3 false

/-- SEM_WAIT_SATISFIED: the count that a Porter waits for is there; the Porter takes it and goes on. -/
def execSemWaitSatisfied (m : PorterId) (s : State) : Out :=
  let m := m.val
  let p := s.porter m
  if !s.targetOn || p.st != .waitSem || (p.cur.bind fun e => s.work e.work).all fun k => k.ended || k.isParked then
    .next s
  else
    let fill := ((s.insWord p.pc).map wideOp).getD 0 == 2
    let v := s.sem p.pair
    if v.countOf fill < p.need then .next s
    else .next ((s.setSem p.pair (v.take fill p.need)).retireTo m (p.pc + 32))

end Sys2Proof.Machine
end

