-- ==== Sys2Proof/Machine/Hiding.lean ====
section
/-! DEFINITION. Failure hiding (13): known-answer checks, the watchdog and scrub, the move of a position to a spare,
the retirement of Porters and arrays, and the loss of a supply, of a clock or of the Farnum die. -/

namespace Sys2Proof.Machine

open Sys2Proof

/-! ### Pinned placements (R216) -/

/-- The pinned placements of a position with the block that each begins at: they fill the placed part from block 0,
in list order (R381). -/
def Cfg.pinsOf (c : Cfg) (pos : Nat) : List (TableDesc × Nat × Nat) :=
  ((c.pins.filter fun p => p.pos == pos).foldl (fun (acc : List (TableDesc × Nat × Nat) × Nat) p =>
    match c.table p.table with
    | some td => (acc.1 ++ [(td, p.row, acc.2)], acc.2 + max 1 td.blocks)
    | none => acc) ([], 0)).1

/-- One pinned row loaded: the Store Room bytes of this moment, recorded in the copy directory of its agent (R204,
R216, R477). -/
def State.loadPin (s : State) (pos : Nat) (e : TableDesc × Nat × Nat) : State :=
  let (td, row, block) := e
  let a := td.place row
  let s := s.writePlaced pos block td (s.load a td.rowBytes)
  let s := s.modEngine pos fun g => { g with placed := g.placed ++ [⟨a, td.id, block, true, true⟩] }
  s.modAgent (s.ownerAgent a) fun x => { x with dir := (a, pos) :: x.dir.filter fun d => d != (a, pos) }

/-- Every pinned placement of a position loaded. -/
def State.loadPins (s : State) (pos : Nat) : State := s.each (s.cfg.pinsOf pos) fun s e => s.loadPin pos e

/-! ### Moving a position to a spare (R409, R413) -/

/-- A bag holds a position that an engine took. -/
def Bag.uses (b : Bag) (p : Nat) : Bool := b.taken.any fun t => t.engine == p

/-- A piece of work has uncommitted work at a position: a bag, or a scatter that has used it in its current attempt
(R409, step 2). -/
def State.usesPos (s : State) (p w : Nat) (k : Work) : Bool :=
  match s.scatterSlot w with
  | some i =>
    ((s.scatter i).any fun sc => k.bags.any fun b => b.2.taken.any fun t =>
      t.engine == p && sc.start sc.base ≤ t.pos) || (s.engine p).merge.any fun r => r.slot == i
  | none => k.bags.any fun b => !b.2.committed && b.2.uses p

/-- The work at a position. -/
def State.worksOfPos (s : State) (p : Nat) : List Nat :=
  (s.works.filter fun e => !e.2.ended && s.usesPos p e.1 e.2).map (·.1)

/-- A refresh in progress to a position is taken as acknowledged (R409, step 3). -/
def State.dropRefresh (s : State) (p n : Nat) : State :=
  let s := s.modAgent n fun a => { a with dir := a.dir.filter fun d => d.2 != p }
  match (s.agent n).crates.zipIdx.find? fun c => c.1.st == .refreshing with
  | some (c, i) =>
    if c.refresh.any fun r => r.2 == p then
      let c := { c with refresh := c.refresh.filter fun r => r.2 != p }
      if c.refresh = [] then s.crateDone n i c else s.setCrate n i c
    else s
  | none => s

/-- The tile of a position is isolated (R409, steps 1 to 3): its work is rewound, every copy that it held is gone,
and the position's placement epoch advances, so that what is still in flight to the tile is discarded. -/
def State.isolate (s : State) (p t : Nat) (ws : List Nat) : State :=
  let epoch := ((s.engine p).epoch + 1) % 256
  let s := s.each ws fun s w => s.rewindWork w 0 fun b => b.uses p
  let s := s.modEng fun e => { e with tiles := e.tiles.set t .isolated }
  let s := s.each (List.range 16) fun s n => s.dropRefresh p n
  let s := s.clearRange (larderAddr p 0) (2 ^ 24)
  let s := s.modSk fun k => { k with repin := k.repin.filter fun g => g.pos != p }
  s.setEngine p { Engine.init with epoch := epoch, was := some t }

/-- The lower-numbered free spare. -/
def State.freeSpare (s : State) : Option Nat := [48, 49].find? fun n => s.eng.tiles.getD n .isolated == .spare

/-- The pinned placements of a position begin to load through channels 29 and 30 (R409, step 5): each is a pending copy
that its agent's directory records, so that refreshes reach it. -/
def State.pinsBegin (s : State) (p : Nat) : State :=
  s.each (s.cfg.pinsOf p).zipIdx fun s x =>
    let (td, row, block) := x.1
    let a := td.place row
    let s := s.modEngine p fun g => { g with placed := g.placed ++ [⟨a, td.id, block, false, true⟩] }
    let s := s.modAgent (s.ownerAgent a) fun y => { y with dir := (a, p) :: y.dir.filter fun d => d != (a, p) }
    s.copyRow (29 + x.2 % 2) p block td a

/-- A permanent fault of an engine tile: its position moves to a spare, or is lost; a spare with a fault leaves
service (R409, R413). -/
def State.tileFault (s : State) (t : Nat) : State :=
  match s.eng.tiles.getD t .isolated with
  | .isolated => s
  | .spare => s.modEng fun e => { e with tiles := e.tiles.set t .isolated }
  | .active p =>
    let ws := s.worksOfPos p
    let s := s.isolate p t ws
    match s.freeSpare with
    | some n =>
      let s := s.modEng fun e => { e with tiles := e.tiles.set n (.active p) }
      let s := (s.modEngine p fun e => { e with moving := true }).pinsBegin p
      if s.freeSpare.isNone then s.report 0x01 { unit := n, rings := s.ringMask ws } else s
    | none =>
      let s := s.modEngine p fun e => { e with lost := true }
      let s := s.each ws fun s w => s.park w (.position p)
      s.report 0x0C { unit := p, rings := s.ringMask ws, parked := ws.length }

/-- SPARE_RELEASE (R409, steps 5 and 6): once the pinned placements are loaded they serve, and the held work goes on. -/
def execSpareRelease (pos : PosId) (s : State) : Out :=
  let p := pos.val
  if !s.targetOn || !(s.engine p).moving || !s.copyDone p 0 (1024 * s.cfg.placedUnits) then .next s
  else .next (s.modEngine p fun e => { e with moving := false, placed := e.placed.map fun x => { x with valid := true } })

/-! ### Porters (R352, R414) -/

/-- A Porter runs its program again from the entry, for a hardware cause: a PORTER task on every Porter that it names
(R352), a share on its own. -/
def State.replayProgram (s : State) (m cause : Nat) : State :=
  match (s.porter m).cur with
  | none => s
  | some e =>
    if e.share.isNone then s.replayPorterTask e.work cause
    else
      let s := s.dropLists fun x => x.1 == m && x.2.1 == e.work
      ((s.stopPorter m).count 0x006).count (0x008 + cause)

/-- Work that needs a Porter: it is in its mailbox, or is still to be placed there or to halt (R414). -/
def State.needsPorter (s : State) (m w : Nat) (k : Work) : Bool :=
  !k.ended && (bitOf k.mailbox m || bitOf k.porters m || s.porters.any fun p => p.2.mail.any fun e =>
    e.work == w && e.porter == m)

/-- Mailbox entries in the order of their placement. -/
def insertMail (e : Mail) : List Mail → List Mail
  | [] => [e]
  | x :: xs => if e.order < x.order then e :: x :: xs else x :: insertMail e xs

/-- The entries of a Porter go back to their tasks, to be placed again. -/
def State.returnMail (s : State) (m : Nat) : State :=
  let es := (s.porter m).mail
  let s := s.modPorter m fun p => { p with mail := [] }
  s.each es fun s e => s.modWork e.work fun k => { k with
    mailbox := if bitOf k.mailbox e.porter then k.mailbox else k.mailbox + 2 ^ e.porter
    shares := k.shares.map fun sh => if sh.porter = some e.porter then { sh with placed := false } else sh }

/-- A Porter with a permanent fault is retired to its partner; with the partner retired too, both groups lose their
Porter and the work that needs one of them is parked (R414). The partner runs the entries of both in the order of
their placement. -/
def State.porterFault (s : State) (m : Nat) : State :=
  if (s.porter m).retired then s
  else
    let p := m ^^^ 1
    let ws := (s.works.filter fun e => s.needsPorter m e.1 e.2).map (·.1)
    let s := (s.replayProgram m 4).modPorter m fun q => { q with retired := true }
    if (s.porter p).retired then
      let low := m / 2 * 2
      let ws := (s.works.filter fun e => s.needsPorter m e.1 e.2 || s.needsPorter p e.1 e.2).map (·.1)
      let s := (s.returnMail m).each ws fun s w => s.park w (.porters low)
      s.report 0x10 { unit := low, rings := s.ringMask ws, parked := ws.length }
    else
      let es := (s.porter m).mail
      let s := (s.modPorter m fun q => { q with mail := [] }).modPorter p fun q => { q with
        mail := match q.cur, q.mail with
          | some _, e :: rest => e :: es.foldl (fun l x => insertMail x l) rest
          | _, l => es.foldl (fun l x => insertMail x l) l }
      s.report 0x07 { unit := m, rings := s.ringMask ws }

/-! ### Arrays (R415) -/

/-- Open bags of a piece of work that an array serves. -/
def State.arrayBag (s : State) (a : Nat) (k : Work) (b : Nat × Bag) : Bool :=
  if k.desc.isScore 1 then s.passArray (b.1 / k.desc.score.perPass) == a
  else b.2.cands.any (fun c => c.arr == a) || b.2.taken.any fun t => s.feedOf t.engine == a

/-- A scoring array with a permanent fault is retired to its partner: candidates and passes replay there, and a
PROJECT task with a tile in it is parked (R415). -/
def State.arrayFault (s : State) (a : Nat) : State :=
  if (s.array a).retired then s
  else
    let scoring := s.works.filter fun e => !e.2.ended && e.2.desc.kind == some .score
    let proj := scoring.filter fun e => e.2.desc.isScore 2 && (s.cfg.projSet e.2.desc.score.set).any fun p =>
      p.first ≤ a && a < p.first + min p.n p.tileCount
    let others := scoring.filter fun e => (e.2.desc.isScore 0 || e.2.desc.isScore 1) &&
      e.2.bags.any fun b => !b.2.committed && s.arrayBag a e.2 b
    let s := s.each others fun s e =>
      let bs := (e.2.bags.filter fun b => !b.2.committed && s.arrayBag a e.2 b).map (·.1)
      (s.each bs fun s b => (s.rewindBag e.1 b 4).count 0x00C).count 0x006
    let s := s.setArray a { s.array a with retired := true, selUsed := [] }
    let s := s.each proj fun s e => s.rewindAndPark e.1 4 (.array a)
    let ws := (others ++ proj).map (·.1)
    s.report 0x08 { unit := a, rings := s.ringMask ws, parked := proj.length }

/-! ### Loss of the Farnum die (R423) -/

/-- An agent sees its link enter DOWN because the Farnum die stops (R197, R418, R423). -/
def State.dieGone (s : State) (n : Nat) : State :=
  let s := (s.keepBank n).dropPart n
  let s := match (s.agent n).mig.filter fun g => !g.enabled with
    | some g => ((s.dropPending g.pos g.addr).count (agentCounter n 11)).tally (96 + n) 8 ((s.tileOf g.pos).getD 0) 0
    | none => s
  let s := s.modAgent n Agent.lostLink
  let debts := s.agentDebts n
  s.modLink n fun l => { l with
    st := .down, step := .idle, heldMismatch := false, exchanged := false
    out := l.out.cleared [], inb := l.inb.cleared debts }

/-- The engine domain stops, with a report (R423). -/
def State.coreLost (s : State) (unit : Nat) : State :=
  if !s.targetOn then s
  else
    let ws := s.works.map (·.1)
    let s := s.each (List.range 16) State.dieGone
    { s with pwr := { s.pwr with stopped := true } }.report 0x0D { unit := unit, rings := s.ringMask ws }

/-! ### Agents -/

/-- An agent runs while it is out of reset, its clock runs and it has no permanent fault. -/
def State.agentPower (s : State) (n : Nat) : State :=
  let lost := s.pwr.lost.contains (.mclk (Fin.ofNat 16 n))
  s.modAgent n fun a => { a with up := a.released && !a.failed && !lost }

/-- An agent whose die resets or stops: its link enters DOWN at once, and its Crates and what it held are gone; its
log, copy directory and unhandled acknowledgements stay (R199, R327, R417; log entry 19). -/
def State.agentStops (s : State) (n : Nat) : State :=
  ((s.linkDown n).modAgent n fun a => { a with
    crates := List.replicate 4 Crate.empty, hold := [], mig := none }).agentPower n

/-! ### Permanent and transient faults (R406, R407) -/

/-- A permanent fault of a unit. An agent with one stops, so that its partner takes over (F7, R419; DEDUCED, log entry
23). -/
def State.permanent (s : State) (u : Nat) : State :=
  match UnitId.ofId u with
  | .engine t => s.tileFault t
  | .porter m => s.porterFault m
  | .array a => s.arrayFault a
  | .agent n => (s.modAgent n fun a => { a with failed := true }).agentStops n
  | .dispatch => s.coreLost 0x0170
  | .steer => s.coreLost 0x0171
  | .mover => s.coreLost 0x0172
  | .host => s.coreLost 0x0173
  | _ => s

/-- A fault of class F3 to F6 is transient; the third within 1 s is permanent. Whether three or more of a unit's
faults fell within 1 s is open in a model without a clock, and takes a free value (log entry 2). -/
def State.transient (s : State) (u : Nat) : State :=
  let h := s.unit u
  let s := s.setUnit u { h with faults := h.faults + 1 }
  if h.faults + 1 < 3 then s
  else
    let (v, s) := s.draw
    if v % 2 = 1 then s.permanent u else s

/-! ### Errors at use (R401, R402, R407) -/

/-- The error counters of a storage: the structure of R442, when it has one, and the unit (R443). -/
def State.scrubUnit (s : State) (st : ScrubStore) : Option Nat × Nat :=
  let tile (p : Nat) : Nat := (s.tileOf p).getD 63
  match st with
  | .larder p _ => (some 0, tile p)
  | .sideArray p _ => (some 1, tile p)
  | .reuse p _ => (some 2, tile p)
  | .merge p _ => (some 3, tile p)
  | .resultQueue p => (some 4, tile p)
  | .tc _ => (some 6, 114)
  | .faultTable _ => (some 7, 114)
  | .porterMem m => (some 8, 64 + m)
  | .porterCache m _ => (some 9, 64 + m)
  | .journal n _ => (none, 96 + n)
  | .copyDir n _ => (none, 96 + n)
  | .touch n => (none, 96 + n)
  | .remap n => (none, 96 + n)
  | .skSram => (some 12, 127)
  | .porterRegs m => (none, 64 + m)
  | .porterAlu m => (none, 64 + m)
  | .mergeAdder p => (none, tile p)
  | .gradAdder n _ => (none, 96 + n)
  | .gradRecord n => (none, 96 + n)
  | .dualQueue => (some 5, 63)
  | .selector a => (some 10, 80 + a)
  | .dispatchQueue => (some 11, 112)
  | .tallyFifo u => (some 13, u)

/-- An error of a storage counted (R442, R443), with its Tally item (R445). -/
def State.countError (s : State) (st : ScrubStore) (bad : Bool) : State :=
  let (x, u) := s.scrubUnit st
  let k := bitAt bad 0
  let s := match x with
    | some i => s.count (0x040 + 16 * k + i)
    | none => s
  let s := match st with
    | .tallyFifo v => if bad then s.tallyDiscard v else s.tallyCorrected v
    | _ => s
  match UnitId.ofId u with
  | .engine t =>
    let s := s.count (tileCounter t (9 + k))
    if bad then s else s.tally u 12 (x.getD 0) 0
  | .porter m =>
    let s := s.count (porterCounter m (8 + k))
    if bad then s else s.tally u 3 (x.getD 0) 0
  | .agent n => s.count (agentCounter n (20 + k))
  | .array a => if bad then s else (s.count (arrayCounter a 8)).tally u 3 (x.getD 0) 0
  | _ => if bad then s else s.tally u 3 (x.getD 0) 0

/-- An adder or a multiplier, whose error is a failed residue check (R402). -/
def isAdder (st : ScrubStore) : Bool :=
  match st with
  | .porterAlu _ => true
  | .mergeAdder _ => true
  | .gradAdder _ _ => true
  | _ => false

/-- A residue failure of a unit counted (R442, R443). -/
def State.countResidue (s : State) (u : Nat) : State :=
  let s := s.count 0x060
  match UnitId.ofId u with
  | .engine t => s.count (tileCounter t 11)
  | .array a => s.count (arrayCounter a 9)
  | .agent n => s.count (agentCounter n 21)
  | _ => s

/-- RESULT_PACKET_COMMIT: the packet commits, or is rewound when a word of it has an uncorrectable error (F3) or an
operation of a unit that served it fails its residue check (F5); either is a transient fault of the unit (R100, R101,
R401, R407). A class 0 request whose destination lacks the W right is discarded (R96); class 0 goes first (R21). -/
def execResultPacketCommit (w : WorkId) (bag : Nat) (err : UseErr) (s : State) : Out :=
  match s.assemble w bag with
  | none => .next s
  | some (.wait, _, _, s) => .next s
  | some (.denied, _, _, s) => .next (s.endWork w 1)
  | some (.bad, _, _, s) => .next (s.openWork w)
  | some (.packet p _, d, lb, s) =>
    match s.work w with
    | none => .next s
    | some k =>
      let b := k.bags.get default bag
      let tile := ((b.queuePos).bind s.tileOf).getD 63
      if k.cls != 0 && s.class0Packet b.queuePos then .next s
      else match err with
      | .word =>
        let s := match b.queuePos with
          | some p => s.countError (.resultQueue (Fin.ofNat 48 p)) true
          | none => s
        .next ((s.rewindPacket w bag).transient tile)
      | .residue u =>
        if (s.unitsOf k bag b).contains u.val then
          .next (((s.countResidue u.val).rewindPacket w bag).transient u.val)
        else .next s
      | .none =>
        match s.packetStack k d lb p with
        | some st => .next (s.park w (.contents st))
        | none =>
        match s.takeSpace w bag with
        | (s, false) => .next s
        | (s, true) =>
          if k.doorbell.isSome then
            match s.destOk w k d.result (roundUp (s.class0Size k) 16 + 16) with
            | (.ok, s) => .next (s.commitPacket w bag d lb p)
            | (.wait, s) => .next s
            | (.lacks, s) => .next ((s.modWork w fun k => { k with dead := true }).endWork w 1)
          else .next (s.commitPacket w bag d lb p)

/-- CRATE_COMMIT_START: the first SEALED Crate that has GO computes its new rows, which its agent checks, and writes the
log. residues counts the residue failures of that: after one the images are computed again, and after two the task
replays (R197 to R202, R402, F5). -/
def execCrateCommitStart (x : CommitStart) (s : State) : Out :=
  let n := x.agent.val
  match (s.agent n).nextCommit with
  | some (c, i) =>
    if !s.agentOn n || (s.agent n).crates.any Crate.committing || s.crateLost n c ||
        s.commitWaits n (c.entries.map fun e => (e.addr, 64 * e.lines)) then .next s
    else
      let s := s.each (List.range (min 2 x.residues)) fun s _ => (s.countResidue (96 + n)).transient (96 + n)
      if !s.agentOn n then .next s
      else if x.residues < 2 then .next (s.startCommit n i c)
      else match s.scatter c.slot with
        | some sc => .next (s.rewindWork sc.work 1)
        | none => .next s
  | none => .next s

/-! ### Known-answer checks and the watchdog -/

/-- A unit whose known-answer set runs: a tile that is not isolated, or an array that is not retired (R403). -/
def State.checked (s : State) (u : Nat) : Bool :=
  match UnitId.ofId u with
  | .engine t => s.eng.tiles.getD t .isolated != .isolated
  | .array a => !(s.array a).retired
  | _ => false

/-- The known-answer failures of a unit. -/
def UnitId.failCounter : UnitId → Nat
  | .engine t => tileCounter t 12
  | .array a => arrayCounter a 10
  | .porter m => porterCounter m 10
  | _ => 0xF60

/-- A check that passed: the next suspect window starts here (R408). -/
def State.checkPassed (s : State) (u : Nat) : State :=
  let (t, s) := s.draw
  s.setUnit u { s.unit u with failed := false, lastPass := t, rings := 0, streams := 0 }

/-- The Tally event of an engine tile's check (R445). -/
def State.tallyCheck (s : State) (u event bag : Nat) : State :=
  match UnitId.ofId u with
  | .engine _ => s.tally u event bag 0
  | _ => s

/-- A failed check: the suspect window is reported (R408). -/
def State.suspect (s : State) (u : Nat) : State :=
  let (now, s) := s.draw
  let h := s.unit u
  (s.report 0x02 { unit := u, rings := h.rings, streams := h.streams, detail0 := h.lastPass, detail1 := now }).notice
    Reg.fnHealthNotice 8 2

/-- KNOWN_ANSWER_CHECK (R403, R407, R408). repeatPass is the result of the immediate repeat of a failed bag. -/
def execKnownAnswerCheck (unit : ObsId) (pass repeatPass : Bool) (s : State) : Out :=
  let u := unit.val
  let fail := (UnitId.ofId u).failCounter
  if !s.targetOn || !s.checked u then .next s
  else if pass then .next ((s.checkPassed u).tallyCheck u 10 0)
  else
    let (bag, s) := s.draw
    let s := (((s.count 0x061).count fail).tallyCheck u 11 bag).suspect u
    if repeatPass then .next ((s.checkPassed u).transient u)
    else .next (((s.count 0x061).count fail).permanent u)

/-- PORTER_KNOWN_ANSWER (R404, R407): a second failure in a row is permanent; a first one is transient, and the
program that runs is replayed (F6). -/
def execPorterKnownAnswer (m : PorterId) (pass : Bool) (s : State) : Out :=
  let m := m.val
  let u := 64 + m
  if !s.targetOn || (s.porter m).retired then .next s
  else if pass then .next (s.setUnit u { s.unit u with failed := false })
  else
    let s := (s.count 0x061).count (porterCounter m 10)
    if (s.unit u).failed then .next (s.permanent u)
    else .next (((s.setUnit u { s.unit u with failed := true }).replayProgram m 1).transient u)

/-- A position of a work can be issued now: ROW_FETCH_ISSUE takes one more index of the bag, at the named engine. -/
def State.takesIndex (s : State) (w b p : Nat) : Bool :=
  let took (s : State) : List Taken := ((s.work w).map fun k => (k.bags.get default b).taken).getD []
  let n := match s.bagRef w b with
    | some (some g, _) => g.r.len
    | _ => 0
  (List.range n).any fun i => match execRowFetchIssue w b i s with
    | .next t => (took s).length < (took t).length && ((took t).getLast?).any fun x => x.engine == p
    | _ => false

/-- A position has something to do that waits for nothing: a row that can be pooled, a packet that can commit, or an
index that it can take. -/
def State.posBusy (s : State) (p : Nat) : Bool :=
  let e := s.engine p
  !e.moving && ((e.slots.any fun x => x.2.any fun f => f.data.isSome && !f.dead && s.canArrive f p) ||
    s.works.any fun w => (s.running w.1).isSome && ((w.2.bags.any fun b => b.2.queuePos == some p &&
        (match s.assemble w.1 b.1 with
        | some (.packet _ _, _, _, _) => (s.takeSpace w.1 b.1).2
        | _ => false)) ||
      (List.range w.2.desc.bags).any fun b => s.takesIndex w.1 b p))

/-- A Porter has a program entry to start, or an instruction that waits for nothing: no fence, no ticket, no count, no
miss and no free head of a channel (R367, R371, R366, R364). -/
def State.porterAble (s : State) (m : Nat) : Bool :=
  match s.porterRuns m with
  | some (p, _, _) => match s.insWord p.pc with
    | some w =>
      let wide := insMajor w == 0x3F
      let ch := fld (leAt s.cfg.porterImage p.pc 32) (if wideOp w = 1 then 211 else 36) (if wideOp w = 1 then 207 else 32)
      !p.miss.any (insWaits w) && (!(wide || (insMajor w == 0x1B && insFunc w == 0)) || p.unacked == 0) &&
        (!wide || wideUnit w == 3 || (wideUnit w == 2 && wideOp w == 2) || p.tickets.contains .free) &&
        (!wide || wideUnit w != 2 || wideOp w == 2 || (s.chan ch).heads.length < 4)
    | none => false
  | none =>
    let p := s.porter m
    p.st == .idle && p.mail.head?.any fun e => (s.work e.work).any fun k => !k.ended && !k.isParked

/-- An agent has a message, or a commit, that waits for nothing: no full hold queue, no other request of the row. -/
def State.agentAble (s : State) (n : Nat) : Bool :=
  let a := s.agent n
  let able (m : Msg) : Bool :=
    if [0x01, 0x02, 0x03].contains m.mtype then
      !a.full && !(m.vc != 0 && m.rows.any fun r => s.class0Waits n r.1 r.2)
    else m.mtype != 0x04 || !s.writesBefore n
  ([0, 1, 2].any fun vc => ((s.dir n .out).inbox.find? fun m => m.vc == vc).any able) ||
    (match a.nextCommit with
      | some (c, _) => !a.crates.any Crate.committing && !s.crateLost n c &&
          !s.commitWaits n (c.entries.map fun e => (e.addr, 64 * e.lines))
      | none => false) ||
    a.crates.any fun c => c.st == .applying && !s.commitWaits n (c.images.map fun e => (e.1, e.2.length)) &&
      !c.images.any fun e => s.class0Waits n e.1 e.2.length

/-- An array has a pass that waits for nothing, or a batch in rotation. -/
def State.arrayBusy (s : State) (a : Nat) : Bool :=
  (s.arr.batches.any fun b => b.arr == a) || s.works.any fun w => (s.running w.1).isSome && w.2.bags.any fun b =>
    b.2.due a && match s.bagRef w.1 b.1 with
      | some (some g, s) => s.hasQuery w.1 b.1 a g
      | _ => false

/-- A unit with a progress watchdog holds work, with its inputs and the credits or space that it needs (R406, F14). That
it has issued nothing for 1 ms is the event itself. -/
def State.stuck (s : State) (u : Nat) : Bool :=
  match UnitId.ofId u with
  | .engine t => match s.eng.tiles.getD t .isolated with
    | .active p => s.issuing && s.posBusy p
    | _ => false
  | .porter m => s.targetOn && !(s.porter m).retired && s.porterAble m
  | .array a => !(s.array a).retired && s.issuing && s.arrayBusy a
  | .agent n => s.agentOn n && s.agentAble n
  | .dispatch => (List.range 64).any s.admissible
  | .steer => s.works.any fun w => w.2.cls == 0 && (s.running w.1).isSome && (List.range 48).any fun p => s.takesIndex w.1 0 p
  | .mover => s.grantCold.isSome || (s.burstsInFlight < 256 && (List.range 32).any s.chanReady)
  | .host => s.hi.any fun e => e.2.queue.head?.any fun r => e.2.canIssue r
  | _ => false

/-- WATCHDOG_FIRE (R406). -/
def execWatchdogFire (unit : ObsId) (s : State) : Out :=
  if s.targetOn && s.stuck unit.val then .next ((s.count 0x062).permanent unit.val) else .next s

/-! ### Scrub (R401, R402, R405) -/

/-- The scatter task of a slot replays for a fault of a unit on its gradient path (R207, R401). -/
def State.gradFault (s : State) (slot u : Nat) : State :=
  match s.scatter slot with
  | some sc => (s.rewindWork sc.work 1).transient u
  | none => s

/-- The row of the merge cache that holds a line. -/
def rowOfLine : Nat → List MergeRow → Option MergeRow
  | _, [] => none
  | l, r :: rs => if l < r.lines then some r else rowOfLine (l - r.lines) rs

/-- A copy in a slice with an uncorrectable error (R219): the copy goes and its agent learns of it; a pinned row is
placed again by a migration. A word of the cached part belongs to some cached row, which one is open (log entry 2); a word
that holds no row takes free values. -/
def State.larderError (s : State) (p block : Nat) : State :=
  let e := s.engine p
  let covers (x : Placed) : Bool := x.block ≤ block && block < x.block + max 1 ((s.cfg.table x.table).getD default).blocks
  match e.placed.find? covers with
  | some x =>
    let s := s.modEngine p fun g => { g with placed := g.placed.filter fun y => y != x }
    let s := s.reportEvict p x.addr
    if !x.pinned then s
    else match (s.cfg.pinsOf p).find? fun q => q.2.2 == x.block with
      | some (td, row, block) => s.repin ⟨td.id, row, x.addr, p, block, 0, 0, false, false, true⟩
      | none => s
  | none =>
    if block < 1024 * s.cfg.placedUnits then s.freeBytes (larderAddr p (256 * block)) 256
    else
      let (v, s) := s.draw
      match e.cache[v % e.cache.length]? with
      | some c => s.cacheDrop p fun x => x.addr == c.addr
      | none => s

/-- A packet in the result queue of a position has an uncorrectable error: its bag replays (R101). Which packet is
open (log entry 2). -/
def State.queueError (s : State) (p : Nat) : State :=
  let bags := s.works.flatMap fun e => if e.2.ended || (s.scatterSlot e.1).isSome then [] else
    (e.2.bags.filter fun b => !b.2.committed && (b.2.taken.head?).any fun t => t.engine == p).map fun b => (e.1, b.1)
  let (v, s) := s.draw
  match bags[v % bags.length]? with
  | some (w, b) => (s.rewindPacket w b).transient ((s.tileOf p).getD 63)
  | none => s

/-- A line of a Porter's data cache with an uncorrectable error (R372). -/
def State.lineError (s : State) (m line : Nat) : State :=
  match (s.porter m).lines[line]? with
  | some l =>
    if l.dirty then (s.replayProgram m 1).transient (64 + m)
    else s.modPorter m fun p => { p with lines := p.lines.filter fun x => x.addr != l.addr }
  | none => s

/-- What an uncorrectable error of a storage does (R401, F2 to F4; log entry 23 for what the spec does not list). -/
def State.storageError (s : State) (st : ScrubStore) : State :=
  match st with
  | .larder p b => s.larderError p b
  | .sideArray p b => s.larderError p b
  | .reuse p i => s.modEngine p fun e => { e with reuse := e.reuse.eraseIdx i }
  | .merge p l =>
    match rowOfLine l (s.engine p).merge with
    | some r => s.gradFault r.slot ((s.tileOf p).getD 63)
    | none => s
  | .mergeAdder p =>
    let (v, s) := s.draw
    match (s.engine p).merge[v % (s.engine p).merge.length]? with
    | some r => (s.countResidue ((s.tileOf p).getD 63)).gradFault r.slot ((s.tileOf p).getD 63)
    | none => s
  | .resultQueue p => s.queueError p
  | .tc e => (s.setTc e none).modMov fun m => { m with lru := m.lru.filter (· != e.val) }
  | .faultTable e =>
    match s.faultEnt e with
    | some f => if f.walking then s.setFault e (some { f with stale := true }) else s
    | none => s
  | .porterMem m => if (s.porter m).cur.isSome then (s.replayProgram m 1).transient (64 + m) else s
  | .porterCache m l => s.lineError m l
  | .journal n area =>
    let c := (s.agent n).crates.getD area Crate.empty
    if c.st = .open_ ∨ c.st = .sealing ∨ c.st = .sealed then s.gradFault c.slot (96 + n) else s
  | .gradAdder n area =>
    let c := (s.agent n).crates.getD area Crate.empty
    if c.st = .open_ ∨ c.st = .sealing then (s.countResidue (96 + n)).gradFault c.slot (96 + n) else s
  | .gradRecord n =>
    let ms := ((s.dir n .out).queue.map OutMsg.msg ++ (s.dir n .out).inbox).filter fun m => m.mtype == 0x05
    let (v, s) := s.draw
    match ms[v % ms.length]? with
    | some m => s.gradFault (bitAt (m.gradOf 1) 0) (96 + n)
    | none => s
  | .copyDir n a => s.modAgent n fun x => { x with dir := x.dir.filter fun d => d.1 != a.toNat }
  | .touch n =>
    let (v, s) := s.draw
    s.modAgent n fun a => { a with touch := a.touch.eraseIdx (v % a.touch.length) }
  | .porterRegs m => if (s.porter m).cur.isSome then (s.replayProgram m 1).transient (64 + m) else s
  | .porterAlu m =>
    if (s.porter m).cur.isSome then (((s.countResidue (64 + m)).replayProgram m 1).transient (64 + m)) else s
  | .remap _ | .skSram | .dualQueue | .selector _ | .dispatchQueue | .tallyFifo _ => s

/-- The storage that a scrub read names has power: an agent's, the Storekeeper's, or the engine domain's. -/
def State.scrubOn (s : State) (st : ScrubStore) : Bool :=
  match st with
  | .journal n _ => (s.agent n).up
  | .copyDir n _ => (s.agent n).up
  | .touch n => (s.agent n).up
  | .remap n => (s.agent n).up
  | .gradAdder n _ => (s.agent n).up
  | .skSram => s.sk.up
  | .tallyFifo u => if u.val = 127 then s.sk.up else s.targetOn
  | _ => s.targetOn

/-- SCRUB_READ (R405): the word read may be the last of a pass, which 0x067 counts; whether it is is open (log entry
2). -/
def execScrubRead (st : ScrubStore) (res : ScrubRes) (s : State) : Out :=
  if !s.scrubOn st then .next s
  else
    let (v, s) := s.draw
    let s := if v % 2 = 1 then s.count 0x067 else s
    match res with
    | .good => .next s
    | .corrected => if isAdder st then .next s else .next (s.countError st false)
    | .uncorrectable => .next ((if isAdder st then s else s.countError st true).storageError st)

/-! ### Supplies (R425) -/

/-- UNIT of a SUPPLY report (R399). -/
def supplyUnit : SupplyDom → Nat
  | .aon => 0x0000
  | .engine => 0x0001
  | .engineFails => 0x0001
  | .phy => 0x0002
  | .agent n => 0x0100 + n

/-- The work that a supply excursion of a domain touches. -/
def State.supplyWorks (s : State) (d : SupplyDom) : List Nat :=
  match d with
  | .agent n => s.worksAt n
  | .engine => s.works.map (·.1)
  | _ => []

/-- SUPPLY_EXCURSION (R425): an excursion of the engine domain stops engine and array issue and rewinds every
uncommitted packet; one of an agent's domain stops that agent's issue. A supply failure of the engine domain stops the
domain (R423, F14). -/
def execSupplyExcursion (dom : SupplyDom) (thirdInSecond : Bool) (s : State) : Out :=
  if !s.pwr.aonUp then .next s
  else
    let ws := s.supplyWorks dom
    let s := s.count 0x063
    let s := { s with pwr := { s.pwr with supply := dom :: s.pwr.supply.filter (· != dom) } }
    let s := if dom = .engineFails then s.coreLost 3 else s
    let s := if dom = .engine && s.targetOn then
        s.each ws fun s w => if (s.scatterSlot w).isSome then s else s.rewindWork w 3
      else s
    if thirdInSecond then .next (s.report 0x0E { unit := supplyUnit dom, rings := s.ringMask ws }) else .next s

/-- SUPPLY_RECOVERED (R425): issue resumes with the ramp of R29. -/
def execSupplyRecovered (dom : SupplyDom) (s : State) : Out :=
  if !s.pwr.supply.contains dom then .next s
  else
    let s := { s with pwr := { s.pwr with supply := s.pwr.supply.filter (· != dom) } }
    if dom = .engine && s.targetOn then .next s.rampAll else .next s

/-! ### Clocks (R424) and the Storekeeper (R426, R437) -/

/-- CLOCK_LOSS (R424). A link whose receiver has no clock gets no flit, and enters DOWN (R326). -/
def execClockLoss (clk : Clk) (s : State) : Out :=
  if !s.pwr.aonUp || s.pwr.lost.contains clk then .next s
  else
    let s := { s with pwr := { s.pwr with lost := clk :: s.pwr.lost } }.count 0x064
    match clk with
    | .eclk => .next (s.coreLost 0)
    | .hclk => .next (s.coreLost 1)
    | .pclk => .next (s.coreLost 2)
    | .sclk =>
      let s := s.modSk fun k => { k with skLost := true }
      if s.targetOn then .next (s.raise Reg.fnHealthNotice 4) else .next s
    | .mclk n => if (s.agent n).up then .next (s.agentStops n) else .next (s.agentPower n)
    | .lclk n => if s.targetOn && (s.link n).st != .down then .next (s.linkDown n) else .next s

/-- The Storekeeper runs again: reports, held management messages and a mailbox command that waited for it go on
(R424). -/
def State.skBack (s : State) : State := (s.sendWaiting.releasePeers true).mbResume

/-- CLOCK_RETURN (R424): the Storekeeper resumes, and sends what waited for it; an agent restarts, and checks its log
once its link has trained (R199). A stopped engine domain stays stopped until it is reset (R423). -/
def execClockReturn (clk : Clk) (s : State) : Out :=
  if !s.pwr.lost.contains clk then .next s
  else
    let s := { s with pwr := { s.pwr with lost := s.pwr.lost.filter (· != clk) } }
    match clk with
    | .sclk =>
      let s := s.modSk fun k => { k with skLost := false }
      if s.sk.up then .next s.skBack else .next s
    | .mclk n => .next (s.agentPower n)
    | _ => .next s

/-- A FW_UPDATE log record (R432). The spec gives ACTION no codes: 0 written, 1 activated, 2 reverted (log entry
24). -/
def State.logFw (s : State) (copy action : Nat) : State :=
  s.log 127 0 0x0030 (leBytes 1 copy ++ leBytes 1 action ++ leBytes 2 0 ++ leBytes 4 (s.sk.svn copy))

/-- The highest SEQ accepted under each key starts at the stored ceiling (R311). -/
def Keeper.ceiled (k : Keeper) : Keeper :=
  { k with hmac := k.hmac.zipIdx.map fun e => e.1.map fun x => (x.1, k.ceilings.getD e.2 0) }

/-- A firmware copy may run (R436): its signature is good under a provisioned signing key (log entry 67), and its SVN is
at least the stored minimum. -/
def Keeper.copyOk (k : Keeper) (copy : Nat) : Bool :=
  k.fwOk.getD copy false && k.signing.any Option.isSome && k.minSvn ≤ k.svn copy

/-- The Storekeeper starts again from a copy, or from the other one when that fails its checks (R311, R426, R436, R437).
With neither copy good it runs none. The model has no time between the restart and the end of the start. -/
def State.skStarts (s : State) (copy : Nat) : State :=
  let from_ := if !s.sk.copyOk copy && s.sk.copyOk (1 - copy) then 1 - copy else copy
  let s := (s.modSk fun k => { k with active := from_, up := k.copyOk from_ }.ceiled).count 0x065
  if from_ = copy then s else s.logFw from_ 2

/-- LOCKSTEP_MISMATCH (R426): a mismatch that recurs within 1 s restarts from the other copy. -/
def execLockstepMismatch (withinSecond : Bool) (s : State) : Out :=
  if !s.skOn then .next s
  else
    let copy := if withinSecond then 1 - s.sk.active else s.sk.active
    let s := s.skStarts copy
    .next (s.report 0x0F { unit := s.sk.active })

/-- FW_START_TIMEOUT (R437): the Storekeeper reverts to the previous copy. -/
def execFwStartTimeout (s : State) : Out :=
  match s.sk.fresh with
  | some old =>
    if !s.skOn then .next s
    else .next (((s.modSk fun k => { k with fresh := none }).skStarts old).logFw old 2)
  | none => .next s

end Sys2Proof.Machine
end

