-- ==== Sys2Proof/Machine/Slots.lean ====
section
/-! DEFINITION. Configuration slots (12): the checks of an image (R378, R379, R389), the commands of R390, and the
steps of an activation and of a teardown (R391 to R397). -/

namespace Sys2Proof.Machine

open Sys2Proof

/-! ### Image checks -/

/-- MAGIC (R378). -/
def imageMagic : Nat := 0x000000474D494E46

/-- DIGEST of an image as its bytes give it (R379). -/
def imageDigest (img : Bytes) : Bytes := sha384 (img.take 80 ++ zeros 144 ++ img.drop 224)

/-- The public point of a signing key (R438). -/
def keyPoint (k : Bytes) : Nat × Nat := (leAt k 0 48, leAt k 48 48)

/-- A signing key slot. -/
def Keeper.signKey (k : Keeper) (i : Nat) : Option Bytes := k.signing.getD i none

/-- The status of the checks of R389, in their order: 0 when an image passes. -/
def Keeper.imageStatus (k : Keeper) (img : Bytes) : Nat :=
  let size := leAt img 16 4
  if leAt img 0 8 ≠ imageMagic then 3
  else if leAt img 8 4 ≠ 0x00040001 then 4
  else if leAt img 12 1 ≠ 0x30 ∨ fld (leAt img 12 4) 12 8 ≠ 16 then 4
  else if size % 64 ≠ 0 ∨ size < 512 ∨ 2 ^ 26 < size ∨ img.length ≠ size then 5
  else if imageDigest img ≠ slice img 80 48 then 6
  else match k.signKey (fld (leAt img 22 1) 1 0) with
    | none => 7
    | some key =>
      if ecdsaVerify (keyPoint key) (slice img 80 48) (leAt img 128 48) (leAt img 176 48) then 0 else 7

/-! ### Commands -/

/-- A management transfer of an image is in progress (R390, R437). -/
def State.imageTransfer (s : State) : Bool := s.sk.update.cur.any fun c => c.1 == 2

/-- A command finds another command or a management transfer in progress. -/
def State.cfgBusy (s : State) : Bool := s.slots.cmd.isSome || s.slots.activating || s.imageTransfer

/-- A command of R390 in its place: BUSY while another runs. -/
def State.command (s : State) (op : Nat) (mgmt : Bool) (f : State → State) : State :=
  if s.cfgBusy then s.endCmd op 1 mgmt else f s

/-- The slot store has its home (R387, R476): training at reset has ended everywhere, and the lowest-numbered present
stack is repaired. -/
def State.storeHome (s : State) : Bool :=
  ((List.range 16).all fun n => (s.link n).resetDone) &&
    match (List.range 24).find? s.stackPresent with
    | some st => (stackAgents st).all fun n => !(s.agent n).present || (s.agent n).repairDone
    | none => false

/-- The slot store: the first 192 MiB of the top 256 MiB granule of the lowest-numbered present stack (R387). -/
def State.slotStore (s : State) : Option Nat :=
  ((List.range 24).find? s.stackPresent).map fun st => 2 ^ 37 * st + s.stackCapacity st - 2 ^ 28

/-- An image written to its slot: 0 staged, 1 current, 2 Attic (R387). -/
def State.putSlot (s : State) (i : Nat) (img : Option Bytes) : State :=
  match s.slotStore, img with
  | some base, some b => s.store (base + 2 ^ 26 * s.slots.regions.getD i i) b
  | _, _ => s

/-- STAGE begins: the address is checked before anything is replaced (R390). -/
def State.beginStage (s : State) (mgmt : Bool) : State :=
  if !s.storeHome then s.endCmd 1 1 mgmt
  else
    let a := s.regFld Reg.cfStageAddr 51 0
    if spaceOf a ≠ 3 ∨ a % 64 ≠ 0 then s.endCmd 1 11 mgmt
    else s.modSlots fun l => { l with stagedSt := .loading, staged := [], cmd := some ⟨1, mgmt, 0, false⟩ }

/-- An image has arrived in the staged slot: READY, or BAD with the code of the first check that fails (R389). -/
def State.staged (s : State) (img : Bytes) : State × Nat :=
  let st := s.sk.imageStatus img
  (((s.putSlot 0 (some img)).modSlots fun l => { l with
    stagedSt := if st = 0 then .ready else .bad, staged := img }).logImage img st, st)

/-- STAGE_READ_DONE (R389): what the read of the image on channel 31 gave. The walks on channel 28 under the PASID of
CF_STAGE_CTL and the reads are starts of the Storekeeper's own (R257), which have ended (log entry 25). -/
def execStageReadDone (res : StageRead) (s : State) : Out :=
  match s.slots.cmd with
  | some ⟨1, mgmt, _, _⟩ =>
    if !s.skOn || !s.targetOn || (s.chan 28).st != .idle || (s.chan 31).st != .idle then .next s
    else match res with
      | .noAccess => .next (s.stageFails 8)
      | .image img =>
        let (s, st) := s.staged img
        .next ((s.modSlots fun l => { l with cmd := none }).endCmd 1 st mgmt)
  | _ => .next s

/-! ### Activation: the start (R391, step 1) -/

/-- Every ring stops: EN clears, and what was fetched or is being read and was not admitted is discarded
(R281, R391). -/
def State.stopRings (s : State) : State :=
  s.each (List.range 64) fun s r => (s.dropFetched r).setRingEn r false

/-- Step 1 begins. ACTIVATING is 1 in an activation, and not in a teardown (R391, R396). -/
def State.beginDrain (s : State) (c : CfgCmd) : State :=
  let old := s
  let s := if c.mgmt then s.raise Reg.cfNotice 4 else s
  let s := (s.modSlots fun l => { l with cmd := some c, activating := c.op != 6 }).stopRings
  s.noteReady old

/-- ACTIVATE begins; it needs a READY staged image. -/
def State.beginActivate (s : State) (op : Nat) (mgmt : Bool) : State :=
  if s.slots.stagedSt = .ready then s.beginDrain ⟨op, mgmt, 1, false⟩ else s.endCmd op 2 mgmt

/-- ROLLBACK begins; it needs an image in the Attic (R394). -/
def State.beginRollback (s : State) (op : Nat) (mgmt : Bool) : State :=
  if s.slots.attic.isSome then s.beginDrain ⟨op, mgmt, 2, false⟩ else s.endCmd op 2 mgmt

/-- ACTIVATE_DIGEST begins with the first slot that holds the digest (R395). -/
def State.beginDigest (s : State) (mgmt : Bool) (digest : Bytes) : State :=
  let has (img : Option Bytes) : Bool := img.any fun b => slice b 80 48 == digest
  if has s.slots.current then s.beginDrain ⟨4, mgmt, 0, false⟩
  else if has s.slots.attic then s.beginRollback 4 mgmt
  else if s.slots.stagedSt == .ready && has (some s.slots.staged) then s.beginActivate 4 mgmt
  else s.endCmd 4 10 mgmt

/-- DISCARD: OK whatever the staged slot held (log entry 25). -/
def State.discardStaged (s : State) (mgmt : Bool) : State :=
  (s.modSlots fun l => { l with stagedSt := .empty, staged := [] }).endCmd 5 0 mgmt

/-- TEARDOWN begins; it needs a current image (R397). -/
def State.beginTeardown (s : State) (mgmt : Bool) : State :=
  if s.slots.current.isSome then s.beginDrain ⟨6, mgmt, 3, false⟩ else s.endCmd 6 2 mgmt

/-- CF_REQ_DIGEST as bytes. -/
def State.reqDigest (s : State) : Bytes := (List.range 6).flatMap fun k => leBytes 8 (s.reg (Reg.cfReqDigest k))

/-- A write of a command to CF_CMD (R390): 1 STAGE, 2 ACTIVATE, 3 ROLLBACK, 4 ACTIVATE_DIGEST, 5 DISCARD, 6 TEARDOWN. -/
def State.cfCommand (s : State) (op : Nat) : State :=
  s.command op false fun s => match op with
    | 1 => s.beginStage false
    | 2 => s.beginActivate 2 false
    | 3 => s.beginRollback 3 false
    | 4 => s.beginDigest false s.reqDigest
    | 5 => s.discardStaged false
    | 6 => s.beginTeardown false
    | _ => s

/-! ### Activation: steps 2 to 6 -/

/-- The drain has ended (R391, step 1): no task, request, list, Crate, program, migration, promotion or scrub is left. -/
def State.drained (s : State) : Bool :=
  s.works.isEmpty && ((List.range 28).all fun ch => (s.chan ch).st == .idle) &&
    ([0, 1].all fun i => (s.scatter i).isNone && !s.crateBusy i) && ((List.range 16).all fun n => (s.agent n).acks.isEmpty) &&
    ((List.range 12).all fun m => (s.porter m).st == .idle) && ((List.range 16).all fun n => (s.agent n).mig.isNone) && s.sk.repin.isEmpty &&
    !(s.mov.frames.any fun f => f.2.copies) && !s.slots.scrubbing

/-- Parked class 0 requests are discarded at an activation or a teardown, without a trailer (R416). -/
def State.dropParked (s : State) : State :=
  let ws := s.works.filter fun e => e.2.doorbell.isSome && e.2.isParked
  s.each ws fun s e => s.forget e.1

/-- CLEAR (R63, R154, R212, R220, R263, R391; the Tally FIFOs and the sink's positions under R446). -/
def State.clear (s : State) : State :=
  let s := s.eachEngine fun e => { e with cache := [], placed := [], reuse := [] }
  let s := s.each (List.range 16) fun s n => s.modAgent n fun a => { a with dir := [], touch := [], sampled := 0, commits := 0 }
  let s := s.modMov fun m => { m with tc := [], lru := [], faults := [], port := [], frames := [], hits := [] }
  let s := s.modDisp fun d => { d with queries := [], tokens := [] }
  let s := s.modObs fun o => { o with drops := [], prod := 0, sinkFull := false }
  let s := s.each unitIds fun s u =>
    let f := s.fifo u
    let n := f.items.length + f.pending.length
    let f := { f with
      items := [], pending := [], lost := satAdd 0xFFFFFFFF f.lost f.plost
      corrected := satAdd 0xFFFFFFFF f.corrected f.pcorr, plost := 0, pcorr := 0 }
    if n = 0 then s else (s.setFifo u f).tallyLost u n
  let s := s.modSk fun k => { k with repin := [], touches := [] }
  { s with arr := { s.arr with sems := [] } }.setReg Reg.obSinkPtr 0

/-- The pairs of the image at their depth (R172). -/
def Cfg.pairs (c : Cfg) : Tab Sem := c.sems.filterMap fun e => if e.2.depth = 0 then none else some (e.1, ⟨0, e.2.depth, false⟩)

/-- The tokens of the image's streams: every bucket is full (R384). -/
def Cfg.tokens (c : Cfg) : Tab Nat :=
  (c.reserve.streams.zipIdx.filter fun r => r.1.burst != 0).map fun r => (r.2, r.1.burst)

/-- SWAP: the slots and the names of their regions change, and no image is copied (R394, R396, R475). -/
def State.swapSlots (s : State) (swap : Nat) : State :=
  s.modSlots fun l =>
    let g (i : Nat) : Nat := l.regions.getD i i
    match swap with
    | 1 => { l with
        attic := if l.current.isSome then l.current else l.attic
        current := some l.staged, staged := [], stagedSt := .empty
        regions := if l.current.isSome then [g 2, g 0, g 1] else [g 1, g 0, g 2] }
    | 2 => { l with current := l.attic, attic := l.current, regions := [g 0, g 2, g 1] }
    | 3 => { l with attic := l.current, current := none, regions := [g 0, g 2, g 1] }
    | _ => l

/-- The locked pages of an image (R261). -/
def Cfg.lockedPages (c : Cfg) : List (Nat × Nat × Nat) :=
  (c.trans.locked.map fun p => (p.pasid, p.space, p.va / (if p.big then 2 ^ 34 else 2 ^ 28) * (if p.big then 2 ^ 34 else 2 ^ 28))).eraseDups

/-- The rows of an image's tables in the Store Room. -/
def Cfg.tableRuns (c : Cfg) : List Wild := (c.tables.filterMap (·.2)).flatMap TableDesc.runs

/-- The commit logs that an image gives the agents (R199). -/
def Cfg.logRuns (c : Cfg) : List Wild := c.agents.logs.map fun b => ⟨b, 2 ^ 23, 0, 1⟩

/-- The other areas of the Store Room that an image gives Farnum to write: the sink ring, the Inventory area and the log
mirror. -/
def Cfg.buffers (c : Cfg) : List Wild :=
  let o := c.observe
  [⟨o.sinkBase, 256 * 2 ^ o.sinkLog2, 0, if o.sinkBase = 0 then 0 else 1⟩,
   ⟨o.snapBase, 65 * 2 ^ 20, 0, if o.snapBase = 0 then 0 else 1⟩,
   ⟨o.mirrorBase, 64 * 2 ^ o.mirrorLog2, 0, if o.mirrorBase = 0 then 0 else 1⟩]

/-- An area and the runs that meet it are open, when some do (R8; log entry 7). -/
def State.openArea (s : State) (area : Wild) (rs : List Wild) : State :=
  let hit := rs.filter area.meets
  if hit = [] then s else s.openBytes 16 (area :: hit)

/-- What an image that is about to be loaded overlaps, host errors of the overlapping-destinations kind: its tables a
commit log (R199), and its tables or buffers the area of an Inventory in progress (R451). -/
def State.imageOverlaps (s : State) (c : Cfg) : State :=
  let s := s.each c.logRuns fun s l => s.openArea l c.tableRuns
  let n := s.obs.snap
  if n.st = .idle then s
  else s.openArea ⟨n.base, 65 * 2 ^ 20, 0, 1⟩ (c.tableRuns ++ c.buffers ++ c.logRuns)

/-- LOAD (R391, step 4). -/
def State.loadImage (s : State) (img : Bytes) : State :=
  let c := Cfg.ofImage img
  let s := s.imageOverlaps c
  let s := { s with cfg := c, arr := { s.arr with sems := c.pairs } }
  let s := s.modDisp fun d => { d with tokens := c.tokens }
  let s := s.each (List.range 48) fun s p => s.loadPins p
  let s := s.each (List.range 16) State.writeMarker
  s.modSlots fun l => { l with locks := c.lockedPages }

/-- Walks of locked pages start while the fault table has a free entry (R261, R264). -/
def State.startLocks (s : State) : State :=
  s.each s.slots.locks fun s p =>
    match (List.range 32).find? fun i => (s.faultEnt i).isNone with
    | some i =>
      (s.setFault i (some ⟨false, false, p.1, p.2.1, p.2.2, []⟩)).modSlots fun l => { l with
        locks := l.locks.filter (· != p) }
    | none => s

/-- What a scrub never touches (R396): the slot store, the commit logs of an image, and the remap pools (R341). -/
def State.unscrubbed (s : State) (c : Cfg) : List (Nat × Nat) :=
  (s.slotStore.map fun b => (b, 3 * 2 ^ 26)).toList ++ ((List.range 16).filterMap c.logAddr).map (fun a => (a, 2 ^ 23)) ++
    ((List.range 24).filter s.stackPresent).map fun st => (2 ^ 37 * st + s.stackCapacity st - 2 ^ 20, 2 ^ 20)

/-- The agents that hold a part of a range (R315, R396). -/
def rangeAgents (r : Nat × Nat) : List Nat :=
  ((List.range 24).filter fun st => r.1 < 2 ^ 37 * (st + 1) && 2 ^ 37 * st < r.1 + r.2).flatMap stackAgents

/-- Zero written over a range, but for what a scrub never touches. -/
def State.scrubRange (s : State) (keep : List (Nat × Nat)) (r : Nat × Nat) : State :=
  let kept (x : Nat) : Bool := keep.any fun k => k.1 ≤ x && x < k.1 + k.2
  { s with mem := s.mem.filter fun e => !((s.unphys e.1).any fun x => r.1 ≤ x && x < r.1 + r.2 && !kept x) }

/-- SCRUB_DONE (R396): the Larder and the ranges of the Attic image's SCRUB section are zero. -/
def execScrubDone (s : State) : Out :=
  if !s.targetOn || !s.slots.scrubbing then .next s
  else
    let c := (s.slots.attic.map Cfg.ofImage).getD Cfg.empty
    if !c.scrub.all fun r => (rangeAgents r).all fun n => s.inService (s.ownerOf n) then .next s
    else
      let s := { s with mem := s.mem.filter fun e => spaceOf e.1 != 1 }
      let s := s.each c.scrub fun s r => s.scrubRange (s.unscrubbed c) r
      .next (((s.modSlots fun l => { l with scrubbing := false }).raise Reg.cfNotice 8).log 127 0 0x0013 [])

end Sys2Proof.Machine
end

