-- ==== Sys2Proof/Machine/Inventory.lean ====
section
/-! DEFINITION. The commands of the observation window (R447, R451, R453), the Inventory after its trigger (R448 to
R451), and Tally packets (R446). -/

namespace Sys2Proof.Machine

open Sys2Proof

/-! ### The trigger register -/

/-- A DONE Inventory returns to IDLE (R451). -/
def State.snapRelease (s : State) : State :=
  if s.obs.snap.st = .done then s.modSnap fun n => { n with st := .idle } else s

/-- A write of OB_SNAP_TRIG (R447, R451): RELEASE acts before FIRE. -/
def State.snapWrite (s : State) (release fire : Bool) : State :=
  let s := if release then s.snapRelease else s
  if fire then (s.trigger 0).1 else s

/-! ### The sweep -/

/-- INVENTORY_SWEEP (R451): once every unit has latched, the records and copies are written with the fence option. An
agent whose link is not up before its latch is late (R448). -/
def execInventorySweep (s : State) : Out :=
  if !s.targetOn || s.obs.snap.st != .latching then .next s
  else
    let s := s.each (s.obs.snap.waiting.filter fun n => !(s.link n).up) fun s n => s.latchAgent n true
    if !s.obs.snap.waiting.isEmpty then .next s
    else
      let ws := s.obs.snap.writes
      let s := s.modSnap fun n => { n with st := .sweeping, writes := [] }
      .next (s.each ws fun s w => (s.writeOut .snap 3 16 w.1 w.2 true none).1)

/-- INVENTORY_DONE (R451). -/
def execInventoryDone (s : State) : Out :=
  if !s.targetOn || s.obs.snap.st != .sweeping || s.obs.snap.unacked != 0 then .next s
  else .next ((s.modSnap fun n => { n with st := .done }).raise Reg.obNotice 4)

/-! ### Tally packets -/

/-- The sink ring has a free slot (R446). -/
def State.sinkRoom (s : State) : Bool :=
  posDiff (s.obs.prod % 2 ^ 32) (s.reg Reg.obSinkPtr) < 2 ^ s.cfg.observe.sinkLog2

/-- A packet found the sink ring full: the first sets the notice (R446). -/
def State.foundFull (s : State) : State :=
  if s.obs.sinkFull then s
  else (s.modObs fun o => { o with sinkFull := true }).raise Reg.obNotice 2

/-- TALLY_PACKET_FORM (R446): 15 items, or fewer that have waited for FLUSH_US. While the ring is full the unit keeps
its items. -/
def execTallyPacketForm (unit : ObsId) (s : State) : Out :=
  let u := unit.val
  let f := s.fifo u
  let o := s.cfg.observe
  if !s.targetOn || o.sinkBase = 0 || !f.pending.isEmpty || f.items.isEmpty ||
      (f.items.length < 15 && o.flushUs = 0) then .next s
  else if !s.sinkRoom then .next s.foundFull
  else .next (s.setFifo u { f with
    items := f.items.drop 15, pending := f.items.take 15, plost := f.lost, pcorr := f.corrected, lost := 0
    corrected := 0 })

/-- The 256 bytes of a packet (R446). -/
def Fifo.packet (f : Fifo) (u : Nat) : Bytes :=
  fit 256 (leBytes 1 u ++ leBytes 1 f.pending.length ++ leBytes 2 0 ++
    leBytes 4 (((f.pending.head?).map Item.seq).getD 0) ++ leBytes 4 f.plost ++ leBytes 4 f.pcorr ++
    f.pending.flatMap fun it => it.bytes u)

/-- TALLY_PACKET_WRITTEN (R446): the packet lies in slot PROD of the sink ring, and its write is acknowledged (log
entry 26). -/
def execTallyPacketWritten (unit : ObsId) (s : State) : Out :=
  let u := unit.val
  let f := s.fifo u
  let o := s.cfg.observe
  let a := o.sinkBase + 256 * (s.obs.prod % 2 ^ o.sinkLog2)
  if !s.targetOn || f.pending.isEmpty || o.sinkBase = 0 || !s.inService (s.ownerAgent a) then .next s
  else if !s.sinkRoom then .next s.foundFull
  else
    let s := (s.store a (f.packet u)).setFifo u { f with pending := [], plost := 0, pcorr := 0 }
    let s := s.modObs fun o => { o with prod := (o.prod + 1) % 2 ^ 32, sinkFull := false }
    .next ((s.count 0x06A).raise Reg.obNotice 1)

end Sys2Proof.Machine
end

