-- ==== Sys2Proof/Machine/Window.lean ====
section
/-! DEFINITION. The target: writes to the register window and to doorbell pages in the order of their arrival (R271),
their credits (R108, R270), plain registers and notices (R454 to R456), and what a host error in a register access
leaves open (R8). -/

namespace Sys2Proof.Machine

open Sys2Proof

/-! ### Host errors in register accesses (R6, R8) -/

/-- The action that a register can start, with free operands. -/
def State.wildAction (s : State) (off v : Nat) : State :=
  match off with
  | 0x18 => s.abortEvery
  | 0x020008 => s.cfCommand (v % 8)
  | 0x060018 => s.snapWrite (bitOf v 0) (bitOf v 1)
  | 0x070000 => s.mbCommand (v % 256)
  | _ =>
    match inBank off 0x010000 0x40 64, inBank off 0x030000 0x40 28 with
    | some (r, 0x28), _ => s.abortRing r (v % 2 ^ 16) (bitOf v 16)
    | _, some (n, 0) => s.headWrite n (v % 2 ^ 46 * 64)
    | _, some (n, 8) => s.abortChan n
    | _, _ => s

/-- A host error in an access to the register at an offset (R6, R8): its RW fields take any value, with the effect that
the new value of EN or VALID has; a ring's registers reach its positions and its tasks; and the action that it can start
starts now, before the activation ends, or never. -/
def State.wildAccess (s : State) (off : Nat) : State :=
  let old := s
  let s := match inBank off 0x010000 0x40 64 with
    | some (r, _) => s.wildRing r
    | none => s
  let s := s.scramble off
  let s := match inBank off 0x010000 0x40 64, inBank off 0x051000 0x20 256 with
    | some (r, _), _ =>
      if s.ringEn r && !old.ringEn r then s.setRing r Ring.init else s
    | _, some (c, 0x10) => if s.cnValid c && !old.cnValid c then s.startConn c else s
    | _, _ => s
  let (v, s) := s.draw
  let (go, s) := s.draw
  if bitOf go 0 then s.wildAction off v
  else if s.slots.activating && bitOf go 1 then
    s.modSlots fun l => { l with wild := l.wild ++ [(off, BitVec.ofNat 64 v)] }
  else s

/-! ### The order of target writes -/

/-- Beats of a target write: 8 bytes each (R270). -/
def beatsOf (n : Nat) : Nat := max 1 (ceilDiv n 8)

/-- The steering overflow queue is full: every target write waits (R108). -/
def State.targetFull (s : State) : Bool := 256 ≤ s.disp.overflow.length

/-- The surroundings can present a write of n beats, and it takes effect at once. -/
def State.takesWrites (s : State) (n : Nat) : Bool := s.targetOn && n ≤ s.pwr.wcred && !s.targetFull && s.host.waiting == []

/-- A write with an action on the register at an offset, which is a host error during activation (R392). -/
def State.action (s : State) (off : Nat) (f : State → State) : State := if s.slots.activating then s.wildAccess off else f s

/-! ### Plain registers and notices -/

/-- A write to a doorbell page: the two registers of a ring page, its other offsets, which hold no register, and a class 0
page, where every write but a request is malformed (R271, R279, R280). -/
def State.pageWrite (s : State) (page off size : Nat) (data : Word) : State :=
  match s.cfg.page page with
  | .class0 _ _ => s.class0Write page (leBytes size data.toNat) false
  | _ =>
    if off = 0 then s.sqProd page size data
    else if off = 8 then s.cqCons page size data
    else s.onRing page 4 0#64 fun _ _ => s

/-- A write to a register field that has no row of its own: its RW fields take the value. A mailbox OP that is not listed
ends with BAD_OP (R439). PW_CN.VALID is set by its own row and cleared here. -/
def State.registerWrite (s : State) (o size : Nat) (data : Word) : State :=
  let b := o / 8 * 8
  if 0x800000 ≤ o then s.pageWrite ((o - 0x800000) / 0x1000) (o % 0x1000) size data
  else if rwMask b + ownMask b + w1cMask b = 0 then s
  else if s.slots.activating || !aligned o size then s.wildAccess b
  else
    let mask := halfMask o size
    let v := if size = 8 then data.toNat else put data.toNat 32 (8 * (o % 8))
    let known := rwMask b ||| ownMask b ||| w1cMask b ||| roMask b
    let cn := (inBank b 0x051000 0x20 256).any fun e => e.2 == 0x10
    let m0 := s.writable b &&& mask
    let m := if cn && bitOf v 0 && !bitOf (s.reg b) 0 then m0 &&& (1 ^^^ (2 ^ 64 - 1)) else m0
    let new := (s.reg b &&& (m ^^^ (2 ^ 64 - 1))) ||| (v &&& m)
    if v &&& mask &&& (known ^^^ (2 ^ 64 - 1)) ≠ 0 then s.wildAccess b
    else if s.badChange b mask (s.reg b) new then s.wildAccess b
    else if b = Reg.cfCmd && bitOf mask 0 && v % 8 = 7 then s.wildAccess b
    else if b = Reg.mbCmd && bitOf mask 0 && !([1, 2, 3, 4].contains (v % 256)) then s.mbCommand (v % 256)
    else s.setBits b m v

/-- A write of 1 to notice bits: each clears, but for one that a hardware set takes in the same cycle (R456). The field
tied to SA_NOTICE.STALL follows it (R458); the pair of a set in that cycle is a free value (log entry 2). A write that is not aligned, or that names reserved bits, clears any of them
(R6, R8). -/
def State.w1cClear (s : State) (o size : Nat) (data hwSet : Word) : State :=
  let b := o / 8 * 8
  let w := if size = 8 then data.toNat else put data.toNat 32 (8 * (o % 8))
  let known := rwMask b ||| ownMask b ||| w1cMask b ||| roMask b
  if w1cMask b = 0 then s
  else
    let open_ := !aligned o size || w &&& (known ^^^ (2 ^ 64 - 1)) != 0
    let (x, s) := if open_ then s.draw else (w, s)
    let s := (s.lower b (x &&& w1cMask b)).raise b (hwSet.toNat &&& w1cMask b)
    match inBank b 0x600000 0x10000 8 with
    | some (n, 8) =>
      if s.noticeBits b = 0 then s.setArray n { s.array n with stallPair := none }
      else if bitOf hwSet.toNat 0 && (bitOf x 0 || (s.array n).stallPair.isNone) then
        let (v, s) := s.draw
        s.setArray n { s.array n with stallPair := some (128 * n + v % 128) }
      else s
    | _ => s

/-- OB_SINK_PTR (R446): CONS may move up to PROD; any other write of it is a host error. -/
def State.sinkWrite (s : State) (size : Nat) (data : Word) : State :=
  let cons := s.reg Reg.obSinkPtr
  let v := data.toNat % 2 ^ 32
  if !(size == 4 || size == 8) || (size == 8 && data.toNat / 2 ^ 32 != 0) ||
      posDiff (s.obs.prod % 2 ^ 32) cons < posDiff v cons then s.wildAccess Reg.obSinkPtr
  else s.setReg Reg.obSinkPtr v

/-- PW_CN.CTL with VALID set (R299): both sequence spaces start at zero. A write to a valid entry changes nothing, or is
a host error (R302). -/
def State.connWrite (s : State) (c : Nat) (ctl : Word) : State :=
  let off := Reg.pwCn c + 0x10
  let v := (ctl.toNat &&& rwMask off) ||| 1
  if ctl.toNat &&& (rwMask off ^^^ (2 ^ 64 - 1)) ≠ 0 then s.wildAccess off
  else if s.cnValid c then (if v = s.reg off then s else s.wildAccess off)
  else (s.setReg off v).startConn c

/-! ### The commands -/

/-- What a target write does once it is taken. -/
def State.runTarget (s : State) : Instr → State
  | .registerWrite off size data => s.registerWrite off.toNat size data
  | .w1cClear off size data hwSet => s.w1cClear off.toNat size data hwSet
  | .sqProd page size data => s.pageWrite page 0 size data
  | .cqCons page size data => s.pageWrite page 8 size data
  | .class0Pool page _ bytes => s.class0Write page bytes false
  | .class0Score page _ bytes => s.class0Write page bytes true
  | .rgCtlEnSet r => s.action (Reg.rgCtl r) fun s => s.ringOn r
  | .rgCtlEnClear r => s.action (Reg.rgCtl r) fun s => s.ringOff r
  | .rgAbort r slot all => s.action (Reg.rgSq r + 0x28) fun s => s.abortRing r slot.toNat all
  | .abortAll => s.action Reg.fnCtl State.abortEvery
  | .mvChHead ch addr => s.action (Reg.mvHead ch) fun s => s.headWrite ch addr.toNat
  | .mvChAbort ch => s.action (Reg.mvCtl ch) fun s => s.abortChan ch
  | .stage => s.cfCommand 1
  | .activate => s.cfCommand 2
  | .rollback => s.cfCommand 3
  | .activateDigest => s.cfCommand 4
  | .discard => s.cfCommand 5
  | .teardown => s.cfCommand 6
  | .fire release => s.action Reg.obSnapTrig fun s => s.snapWrite release true
  | .snapRelease => s.action Reg.obSnapTrig fun s => s.snapWrite true false
  | .obSinkPtr size data => s.action Reg.obSinkPtr fun s => s.sinkWrite size data
  | .skMbLogRead => s.action Reg.mbCmd fun s => s.mbCommand 1
  | .skMbSensors => s.action Reg.mbCmd fun s => s.mbCommand 2
  | .skMbFwInfo => s.action Reg.mbCmd fun s => s.mbCommand 3
  | .skMbReports => s.action Reg.mbCmd fun s => s.mbCommand 4
  | .pwCnValidSet c ctl => s.action (Reg.pwCn c + 0x10) fun s => s.connWrite c ctl
  | _ => s

/-- Beats of a target write. -/
def targetBeats : Instr → Nat
  | .registerWrite _ size _ => beatsOf size
  | .w1cClear _ size _ _ => beatsOf size
  | .class0Pool _ _ bytes => beatsOf bytes.length
  | .class0Score _ _ bytes => beatsOf bytes.length
  | _ => 1

/-- Writes that waited take effect in order, with their credits returned, until the queue is full again (R108). -/
def State.resumeTarget (s : State) : Nat → State
  | 0 => s
  | f + 1 =>
    match s.host.waiting with
    | c :: rest =>
      if s.targetFull then s
      else
        let s := { s with pwr := { s.pwr with wcred := s.pwr.wcred + (targetBeats c) }, host := { s.host with waiting := rest } }
        (s.runTarget c).resumeTarget f
    | [] => s

/-- A target write (R270): with no effect while the target is off, and not presented without its credits; behind writes
that wait it waits too, with its credits withheld (R108, R271). -/
def State.atTarget (s : State) (c : Instr) : Out :=
  let n := targetBeats c
  if !s.targetOn || s.pwr.wcred < n then .next s
  else if s.targetFull || s.host.waiting != [] then
    .next { s with
      pwr := { s.pwr with wcred := s.pwr.wcred - n }
      host := { s.host with waiting := s.host.waiting ++ [c] } }
  else .next (s.runTarget c)

/-- REGISTER_WRITE (R455). -/
def execRegisterWrite (off : Offset) (size : Nat) (data : Word) (s : State) : Out :=
  s.atTarget (.registerWrite off size data)
/-- W1C_CLEAR (R456). -/
def execW1cClear (off : Offset) (size : Nat) (data hwSet : Word) (s : State) : Out :=
  s.atTarget (.w1cClear off size data hwSet)
/-- SQ_PROD (R279). -/
def execSqProd (page : PageId) (size : Nat) (data : Word) (s : State) : Out := s.atTarget (.sqProd page size data)
/-- CQ_CONS (R279). -/
def execCqCons (page : PageId) (size : Nat) (data : Word) (s : State) : Out := s.atTarget (.cqCons page size data)
/-- CLASS0_POOL (R94). The row fixes DB_CTL.SCORE = 0. -/
def execClass0Pool (page : PageId) (slot : RingId) (bytes : Bytes) (s : State) : Out :=
  s.atTarget (.class0Pool page slot bytes)
/-- CLASS0_SCORE (R154). The row fixes DB_CTL.SCORE = 1. -/
def execClass0Score (page : PageId) (slot : RingId) (bytes : Bytes) (s : State) : Out :=
  s.atTarget (.class0Score page slot bytes)
/-- RG_CTL_EN_SET (R277). -/
def execRgCtlEnSet (r : RingId) (s : State) : Out := s.atTarget (.rgCtlEnSet r)
/-- RG_CTL_EN_CLEAR (R281). -/
def execRgCtlEnClear (r : RingId) (s : State) : Out := s.atTarget (.rgCtlEnClear r)
/-- RG_ABORT (R282). -/
def execRgAbort (r : RingId) (slot : BitVec 16) (all : Bool) (s : State) : Out := s.atTarget (.rgAbort r slot all)
/-- ABORT_ALL (R462). -/
def execAbortAll (s : State) : Out := s.atTarget .abortAll
/-- MV_CH_HEAD (R255). -/
def execMvChHead (ch : ChanId) (addr : DevAddr) (s : State) : Out := s.atTarget (.mvChHead ch addr)
/-- MV_CH_ABORT (R256). -/
def execMvChAbort (ch : ChanId) (s : State) : Out := s.atTarget (.mvChAbort ch)
/-- STAGE (R390, R476). -/
def execStage (s : State) : Out := s.atTarget .stage
/-- ACTIVATE (R391). -/
def execActivate (s : State) : Out := s.atTarget .activate
/-- ROLLBACK (R394). -/
def execRollback (s : State) : Out := s.atTarget .rollback
/-- ACTIVATE_DIGEST (R395). -/
def execActivateDigest (s : State) : Out := s.atTarget .activateDigest
/-- DISCARD (R390). -/
def execDiscard (s : State) : Out := s.atTarget .discard
/-- TEARDOWN (R396). -/
def execTeardown (s : State) : Out := s.atTarget .teardown
/-- FIRE (R447, R451). -/
def execFire (release : Bool) (s : State) : Out := s.atTarget (.fire release)
/-- SNAP_RELEASE (R451). -/
def execSnapRelease (s : State) : Out := s.atTarget .snapRelease
/-- OB_SINK_PTR (R446). -/
def execObSinkPtr (size : Nat) (data : Word) (s : State) : Out := s.atTarget (.obSinkPtr size data)
/-- SK_MB_LOG_READ (R439). -/
def execSkMbLogRead (s : State) : Out := s.atTarget .skMbLogRead
/-- SK_MB_SENSORS (R439). -/
def execSkMbSensors (s : State) : Out := s.atTarget .skMbSensors
/-- SK_MB_FW_INFO (R439). -/
def execSkMbFwInfo (s : State) : Out := s.atTarget .skMbFwInfo
/-- SK_MB_REPORTS (R439). -/
def execSkMbReports (s : State) : Out := s.atTarget .skMbReports
/-- PW_CN_VALID_SET (R299). -/
def execPwCnValidSet (c : ConnId) (ctl : Word) (s : State) : Out := s.atTarget (.pwCnValidSet c ctl)

/-! ### The overflow queue -/

/-- OVERFLOW_RELEASE (R108): the oldest request of the stream leaves the queue with a token. An entry that frees lets
the target go on. -/
def execOverflowRelease (stream : RingId) (s : State) : Out :=
  if !s.targetOn then .next s
  else
    let s := s.overflowLeave stream
    .next (s.resumeTarget s.host.waiting.length)

end Sys2Proof.Machine
end

