-- ==== Sys2Proof/Machine/Activation.lean ====
section
/-! DEFINITION. The end of an activation and of a teardown (R388, R391, R396), and the host epoch rise (R291 to R293), with
the target writes that both let go on (R108). -/

namespace Sys2Proof.Machine

open Sys2Proof

/-! ### The end of an activation -/

/-- Actions that host errors in register writes during the activation start before it ends (R8). -/
def State.lateActions (s : State) : State :=
  let acts := s.slots.wild
  s.each acts (fun s e => s.wildAction e.1 e.2.toNat) |>.modSlots fun l => { l with wild := [] }

/-- RESUME (R391, step 6): held packets and waiting STAGE requests go on, and the counts and records follow (R388,
R432, R440). -/
def State.resume (s : State) (c : CfgCmd) : State :=
  let old := s
  let id := s.cfg.imageId
  let s := s.lateActions.modSlots fun l => { l with
    cmd := none, activating := false, generation := (l.generation + 1) % 2 ^ 32 }
  let s := ((s.releasePeers false).count 0x06C).log 127 0 0x0012 (leBytes 1 c.op ++ zeros 7 ++ leBytes 8 id)
  let s := ((s.rampAll).endCmd c.op 0 c.mgmt).noteReady old
  let n := s.slots.later
  if n = 0 then s
  else
    let s := (s.modSlots fun l => { l with later := 0 }).beginStage true
    s.each (List.range (n - 1)) fun s _ => if s.cfgBusy then s.endCmd 1 1 true else s.beginStage true

/-- A restart whose image fails its checks (R388). -/
def State.restartFails (s : State) (status : Nat) : State :=
  let s := s.lateActions.modSlots fun l => { l with current := none, activating := false, cmd := none }
  (s.endCmd 0 status false).log 127 0 0x0011 (leBytes 1 status)

/-- A teardown after its drain (R396): the scrub begins, and the command ends. -/
def State.tearDown (s : State) (c : CfgCmd) : State :=
  let old := s
  let s := { (s.clear.swapSlots 3) with cfg := Cfg.empty }
  let s := s.lateActions.modSlots fun l => { l with cmd := none, scrubbing := true }
  ((s.releasePeers false).endCmd 6 0 c.mgmt).noteReady old

/-- ACTIVATION_DRAIN_END (R391): steps 2 to 4 once the drain has ended, and steps 5 and 6 once the walks of the locked
pages have ended (R261). A restart verifies its image first (R388). -/
def execActivationDrainEnd (s : State) : Out :=
  match s.slots.cmd with
  | none => .next s
  | some c =>
    if !s.skOn || !s.targetOn || !(c.op = 0 ∨ 2 ≤ c.op) then .next s
    else if c.loaded then
      let s := s.startLocks
      if s.slots.locks = [] ∧ s.mov.faults = [] then .next (s.resume c) else .next s
    else
      let s := s.dropParked
      if !s.drained then .next s
      else if c.op = 6 then .next (s.tearDown c)
      else if c.op = 0 ∧ !s.storeHome then .next s
      else
        let status := match c.op, s.slots.current with
          | 0, some img => s.sk.imageStatus img
          | _, _ => 0
        if status ≠ 0 then .next (s.restartFails status)
        else
          let s := s.clear.swapSlots c.swap
          match s.slots.current with
          | some img =>
            let s := (s.loadImage img).startLocks
            if s.slots.locks = [] ∧ s.mov.faults = [] then .next (s.resume c)
            else .next (s.modSlots fun l => { l with cmd := some { c with loaded := true } })
          | none => .next s

/-! ### The host epoch -/

/-- HOST_EPOCH_RISE (R291 to R293, R390): a fall of hp_host_rst_n or hp_link_up. Inputs that do not fall only take
their new levels. -/
def execHostEpochRise (rstN linkUp : Bool) (s : State) : Out :=
  if !s.targetOn then .next s
  else if !((s.host.rstN && !rstN) || (s.host.linkUp && !linkUp)) then
    .next { s with host := { s.host with rstN := rstN, linkUp := linkUp } }
  else
    let s := { s with host := ⟨(s.host.epoch + 1) % 2 ^ 16, rstN, linkUp, false, s.host.waiting⟩ }
    let s := (((s.raise Reg.rgEvent 1).tallyNotice 115).count 0x01D).stageFails 9
    let ends := s.works.filter fun e => s.epochEnds e.1 e.2
    let s := s.each ends fun s e => s.epochEnd e.1 e.2
    let lost := (List.range 32).filter fun ch => (s.chan ch).touchesHost
    let s := s.each lost fun s ch => s.stopChan ch 3
    let s := s.each ((List.range 64).filter s.hostRing) fun s r =>
      let s := s.dropFetched r
      (s.setRing r { s.ring r with epochStop := true }).setRingEn r false
    let s := s.each (List.range 5) fun s c => s.resetChannel lost c
    let s := s.each lost fun s ch => s.modChan ch fun c => { c with reads := [] }
    .next (s.resumeTarget s.host.waiting.length)

end Sys2Proof.Machine
end

