-- ==== Sys2Proof/Machine/Manage.lean ====
section
/-! DEFINITION. Management over MCTP (R400, R434, R435, R438) and PLDM for Firmware Update (R436, R437). A request that
finds the Storekeeper without its clock or not started gets no response (log entry 27). -/

namespace Sys2Proof.Machine

open Sys2Proof

/-! ### Responses -/

/-- A response that refuses a request: a non-zero status, which the spec does not name (log entry 2). -/
def State.failUpdate (s : State) (code : Nat) : State :=
  let (v, s) := s.draw
  s.respond code (v % 255 + 1) []

/-- A request that only a running Storekeeper takes. -/
def State.asked (s : State) (f : Out) : Out := if s.skOn then f else .next s

/-! ### Reports, readings and the log -/

/-- REPORT_RESEND (R400): the same reports again, with no other effect. -/
def execReportResend (s : State) : Out :=
  s.asked <| .next (s.modSk fun k => { k with out := k.out ++ k.reports.map .report })

/-- REPORT_ACK (R400, R432). An acknowledgement of a SEQ that no report waits with gets a status that the spec does not
name. -/
def execReportAck (seq : BitVec 32) (s : State) : Out :=
  s.asked <|
    if s.sk.reports.any fun r => r.seq == seq.toNat then
      let s := s.modSk fun k => { k with reports := k.reports.filter fun r => r.seq != seq.toNat }
      .next ((s.log 127 0 0x0002 (leBytes 4 seq.toNat)).respond 0x02 0 [])
    else
      let (v, s) := s.draw
      .next (s.respond 0x02 (v % 256) [])

/-- SENSORS (R435). -/
def execSensors (s : State) : Out :=
  s.asked <|
    let s := s.sense
    .next (s.respond 0x03 0 s.sk.sensorData)

/-- LOG_READ (R435): 1 to 64 records, as the mailbox gives them. -/
def execLogRead (first count : Nat) (s : State) : Out :=
  s.asked <|
    if count = 0 ∨ 64 < count then .next (s.failUpdate 0x04)
    else .next (s.respond 0x04 0 (logBytes (s.sk.logFrom first count).1))

/-- COUNTERS (R435): 1 to 496 counters. -/
def execCounters (first count : Nat) (s : State) : Out :=
  s.asked <|
    if count = 0 ∨ 496 < count ∨ 4096 < first + count then .next (s.failUpdate 0x05)
    else .next (s.respond 0x05 0
      ((List.range count).flatMap fun i => leBytes 8 (s.counter (first + i)).toNat))

/-- SNAPSHOT (R435, R447). -/
def execSnapshot (s : State) : Out :=
  s.asked <|
    if !s.targetOn then .next (s.respond 0x07 1 [])
    else
      let (s, ok) := s.trigger 1
      if ok then .next (s.respond 0x07 0 (leBytes 4 s.obs.snap.seq)) else .next (s.respond 0x07 1 [])

/-- FW_INFO (R435). -/
def execFwInfo (s : State) : Out := s.asked <| .next (s.respond 0x09 0 s.sk.fwInfo)

/-! ### Configuration commands -/

/-- CONFIG (R390, R392, R435): a STAGE that arrives during an activation waits for its end. -/
def execConfig (op : BitVec 3) (digest : Bytes) (s : State) : Out :=
  s.asked <|
    if !s.targetOn then .next (s.failUpdate 0x06)
    else match op.toNat with
      | 1 =>
        if s.slots.activating then .next (s.modSlots fun l => { l with later := l.later + 1 })
        else .next (s.command 1 true fun s => s.beginStage true)
      | 2 => .next (s.command 2 true fun s => s.beginActivate 2 true)
      | 3 => .next (s.command 3 true fun s => s.beginRollback 3 true)
      | 4 => .next (s.command 4 true fun s => s.beginDigest true (fit 48 digest))
      | 5 => .next (s.command 5 true fun s => s.discardStaged true)
      | 6 => .next (s.command 6 true fun s => s.beginTeardown true)
      | _ => .next (s.failUpdate 0x06)

/-! ### Keys (R438) -/

/-- A signing slot may be written: it is empty, or a different provisioned key has signed the request. -/
def Keeper.maySign (k : Keeper) (slot : Nat) (body : Bytes) : Bool :=
  match k.signKey slot with
  | none => true
  | some _ =>
    let signer := leAt body 2 1
    signer != slot && match k.signKey signer with
      | none => false
      | some key => ecdsaVerify (keyPoint key) (sha384 (body.take 104)) (leAt body 104 48) (leAt body 152 48)

/-- A key slot written; an HMAC key starts with both of its SEQ values at zero (R311). A signing key that is replaced
takes with it what the copies' signatures gave: pass says what each gives under the keys now held (R436, R438). -/
def Keeper.setKey (k : Keeper) (kind slot : Nat) (body : Bytes) (pass : Nat) : Keeper :=
  if kind = 0 then { k with
    signing := k.signing.set slot (some (slice body 8 96))
    fwOk := k.fwOk.zipIdx.map fun e => if (k.signKey slot).isNone then e.1 || bitOf pass e.2 else bitOf pass e.2 }
  else { k with
    hmac := k.hmac.set slot (some (slice body 8 32, 0)), ceilings := k.ceilings.set slot 0
    seqs := k.seqs.set slot 0 }

/-- KEY_SET (R434, R438). -/
def execKeySet (body : Bytes) (overI3c : Bool) (s : State) : Out :=
  s.asked <|
    let kind := leAt body 0 1
    let slot := leAt body 1 1
    if !overI3c || body.length != 200 || 1 < kind || 3 < slot || (kind == 0 && !s.sk.maySign slot body) then
      .next (s.failUpdate 0x08)
    else
      let (pass, s) := s.draw
      .next (((s.modSk fun k => k.setKey kind slot body pass).log 127 0 0x0031 (leBytes 1 kind ++ leBytes 1 slot)).respond
        0x08 0 [])

/-! ### PLDM for Firmware Update (R437). Command codes, and the states of GetStatus, are those of DMTF DSP0267
(PRESUMED, log entry 28) -/

/-- A PLDM response or request of the Storekeeper. -/
def State.pldm (s : State) (cmd status : Nat) (body : Bytes) : State :=
  s.modSk fun k => { k with out := k.out ++ [.pldm cmd status body] }

/-- A PLDM response that refuses a request: a non-zero completion code, which the spec does not name. -/
def State.pldmRefuse (s : State) (cmd : Nat) : State :=
  let (v, s) := s.draw
  s.pldm cmd (v % 255 + 1) []

/-- No update is open. -/
def Update.none : Update := ⟨false, [], Option.none, [], false⟩

/-- The update changed. -/
def State.modUpdate (s : State) (f : Update → Update) : State := s.modSk fun k => { k with update := f k.update }

/-- REQUEST_UPDATE (R437): one update at a time. -/
def execRequestUpdate (s : State) : Out :=
  s.asked <|
    if s.sk.update.openFlag then .next (s.pldmRefuse 0x10)
    else .next ((s.modUpdate fun _ => { Update.none with openFlag := true }).pldm 0x10 0 [])

/-- PASS_COMPONENT_TABLE (R437): the components are 0x0001 and 0x0002. -/
def execPassComponentTable (ids : List Nat) (s : State) : Out :=
  s.asked <|
    if s.sk.update.openFlag && ids.all fun i => i == 1 || i == 2 then
      .next ((s.modUpdate fun u => { u with components := ids }).pldm 0x13 0 [])
    else .next (s.pldmRefuse 0x13)

/-- The largest component: 8 MiB of firmware (R470), 64 MiB of image (R387). -/
def componentMax (id : Nat) : Nat := if id = 1 then 2 ^ 23 else 2 ^ 26

/-- A component may be transferred now: an image needs the slot store and no other command (R390, R476). -/
def State.mayTransfer (s : State) (id : Nat) : Bool := id != 2 || (s.targetOn && s.storeHome && !s.cfgBusy)

/-- The Storekeeper asks for the data of a component from an offset on (R437). How much it asks for at once is a free
value, at least one byte and at most what is left (log entry 66). Of an empty component it asks for nothing. -/
def State.askData (s : State) : State :=
  match s.sk.update.cur with
  | some (_, size) =>
    let at_ := s.sk.update.data.length
    if at_ < size then
      let (v, s) := s.draw
      s.pldm 0x15 0 (leBytes 4 at_ ++ leBytes 4 (v % (size - at_) + 1))
    else s
  | none => s

/-- UPDATE_COMPONENT (R437): the transfer begins; an image replaces what the staged slot holds. -/
def execUpdateComponent (id size : Nat) (s : State) : Out :=
  s.asked <|
    let u := s.sk.update
    if u.openFlag && u.components.contains id && u.cur.isNone && size ≤ componentMax id && s.mayTransfer id then
      let s := s.modUpdate fun u => { u with cur := some (id, size), data := [] }
      let s := if id = 2 then s.modSlots fun l => { l with stagedSt := .loading, staged := [] } else s
      .next (s.pldm 0x14 0 []).askData
    else .next (s.pldmRefuse 0x14)

/-- Firmware written to the inactive copy (R436, R437): verified by its signature and its SVN. -/
def State.firmwareWritten (s : State) (signer svn : Nat) (sigOk : Bool) : State :=
  let copy := 1 - s.sk.active
  let ok := sigOk && (s.sk.signKey signer).isSome && s.sk.minSvn ≤ svn
  let s := s.modSk fun k =>
    let k := { k with fwOk := k.fwOk.set copy (sigOk && (k.signKey signer).isSome) }
    if copy = 0 then { k with svnA := svn } else { k with svnB := svn }
  let s := (s.modUpdate fun u => { u with cur := none, verified := ok }).logFw copy 0
  let s := s.pldm 0x16 0 []
  if ok then (s.pldm 0x17 0 []).pldm 0x18 0 [] else s.pldmRefuse 0x17

/-- An image transferred to the staged slot (R389, R437). -/
def State.imageWritten (s : State) (img : Bytes) : State :=
  let s := s.modUpdate fun u => { u with cur := none }
  let (s, st) := s.staged img
  let s := (s.raise Reg.cfNotice 2).pldm 0x16 0 []
  if st = 0 then (s.pldm 0x17 0 []).pldm 0x18 0 [] else s.pldmRefuse 0x17

/-- REQUEST_FIRMWARE_DATA (R437): data that the Storekeeper asked for, in order. The last part ends the transfer, and
the component is verified and applied. signer, svn and sigOk are what the firmware's own header and signature give. -/
def execRequestFirmwareData (offset : Nat) (data : Bytes) (signer : BitVec 2) (svn : BitVec 32) (sigOk : Bool)
    (s : State) : Out :=
  s.asked <|
    let u := s.sk.update
    match u.cur with
    | none => .next s
    | some (id, size) =>
      if offset ≠ u.data.length then .next s
      else
        let got := (u.data ++ data).take size
        let s := s.modUpdate fun u => { u with data := got }
        if got.length < size then .next s.askData
        else if id = 1 then .next (s.firmwareWritten signer.toNat svn.toNat sigOk)
        else .next (s.imageWritten got)

/-- ACTIVATE_FIRMWARE (R437): the new copy is marked active and the Storekeeper starts from it. The previous copy is
kept until the start is complete. -/
def execActivateFirmware (s : State) : Out :=
  s.asked <|
    let u := s.sk.update
    if u.openFlag && u.verified && u.cur.isNone then
      let old := s.sk.active
      let s := (s.pldm 0x1A 0 []).modUpdate fun _ => Update.none
      .next (((s.modSk fun k => { k with fresh := some old }).skStarts (1 - old)).logFw (1 - old) 1)
    else .next (s.pldmRefuse 0x1A)

/-- The update state: IDLE, LEARN COMPONENTS, READY XFER, DOWNLOAD. -/
def Update.code (u : Update) : Nat :=
  if !u.openFlag then 0 else if u.cur.isSome then 3 else if u.components.isEmpty then 1 else 2

/-- GET_STATUS (R437). -/
def execGetStatus (s : State) : Out := s.asked <| .next (s.pldm 0x1B 0 (leBytes 1 s.sk.update.code))

/-- CANCEL_UPDATE (R437): an image that was arriving leaves the staged slot EMPTY. -/
def execCancelUpdate (s : State) : Out :=
  s.asked <|
    if s.sk.update.openFlag then
      let s := if s.imageTransfer then s.modSlots fun l => { l with stagedSt := .empty, staged := [] } else s
      .next ((s.modUpdate fun _ => Update.none).pldm 0x1D 0 [])
    else .next (s.pldmRefuse 0x1D)

/-- QUERY_DEVICE_IDENTIFIERS (R437): the spec gives no number of Rinrodal, so it is a free value. -/
def execQueryDeviceIdentifiers (s : State) : Out :=
  s.asked <|
    let (v, s) := s.draw
    .next (s.pldm 0x01 0 (leBytes 4 v))

/-- GET_FIRMWARE_PARAMETERS (R437): the two copies and their SVNs. -/
def execGetFirmwareParameters (s : State) : Out := s.asked <| .next (s.pldm 0x02 0 (s.sk.fwInfo.take 16))

/-! ### The end of a firmware start -/

/-- On an empty queue the block idles, but for a firmware start that has ended: the stored minimum SVN rises to that of
the new copy (R437; log entry 29). -/
def State.idle (s : State) : State :=
  if s.sk.fresh.isSome && s.skOn then
    s.modSk fun k => { k with fresh := none, minSvn := max k.minSvn (k.svn k.active) }
  else s

end Sys2Proof.Machine
end

