-- ==== Sys2Proof/Machine/Reset.lean ====
section
/-! DEFINITION. Resets and power (16): the always-on domain, the engine domain with its self-test, and the agents
(R387, R388, R409, R413, R419, R423, R440, R471 to R476). -/

namespace Sys2Proof.Machine

open Sys2Proof

/-! ### The engine domain -/

/-- What an agent keeps when the engine domain is reset: its own memories. What the Farnum die holds for it starts
anew. A refresh in progress to a tile that is gone is taken as acknowledged (R204). -/
def Agent.dieReset (a : Agent) : Agent :=
  { a with
    out := false, capGib := 0, stackNo := 0, present := false, dir := [], acks := [], touch := [], sampled := 0
    commits := 0, crates := a.crates.map fun c => if c.st = .refreshing then Crate.empty else c }

/-- The slots after a reset of the engine domain (R387, R475): a transfer that it interrupts leaves the staged slot
EMPTY, and the slots keep what the last step boundary left, as do LAST_STATUS and LAST_OP (R388). -/
def Slots.dieReset (l : Slots) : Slots :=
  { l with
    stagedSt := if l.stagedSt = .loading then .empty else l.stagedSt
    staged := if l.stagedSt = .loading then [] else l.staged
    cmd := none, activating := false, scrubbing := false, locks := [], wild := [] }

/-- The Storekeeper's part in the target window starts anew, and an image transfer is gone. -/
def Keeper.dieReset (k : Keeper) : Keeper :=
  { k with
    reportsSent := 0, mbResult := 0, mbData := [], mbBusy := none, touches := [], repin := []
    update := if k.update.cur.any fun c => c.1 == 2 then { k.update with cur := none, data := [] } else k.update }

/-- A refresh in progress ends at once when the Farnum die resets, whose Larder holds no copies, and its log is marked
done (R197, R204). -/
def State.endRefreshes (s : State) : State :=
  s.each (List.range 16) fun s n => if (s.agent n).crates.any fun c => c.st == .refreshing then s.markDone n else s

/-- Everything of the engine and PHY domains at its reset value. TC_STACK_BASE is loaded by the Storekeeper (R471, step
2), the pins of the host side keep their levels, and the Store Room keeps its bytes (R423). -/
def State.engineReset (s : State) : State :=
  let s := s.endRefreshes
  let agents := s.net.agents.map fun e => (e.1, e.2.dieReset)
  { s with
    pwr := { s.pwr with engineUp := false, credits := false, wcred := 0, rcred := 0, stopped := false }
    host := { s.host with epoch := 0, portUp := false, waiting := [] }
    regs := [], notices := [], mem := s.mem.filter fun e => spaceOf e.1 != 1
    slots := s.slots.dieReset, cfg := Cfg.empty, disp := Disp.init, eng := Eng.init, arr := Arr.init
    net := { agents := agents.filter fun e => e.2 != Agent.init, links := [], sent := [], nextTag := 0 }
    mov := { Mover.init with stackBase := s.mov.stackBase }
    hi := [], peer := ⟨[], []⟩, porters := [], sk := s.sk.dieReset, obs := Obs.init }

/-- The engine domain enters reset: every agent sees its link DOWN (R472). -/
def State.engineStops (s : State) : State :=
  if s.pwr.engineUp then
    (if s.pwr.stopped then s else s.each (List.range 16) State.dieGone).engineReset
  else s

/-- CORE_RESET_RELEASE (R471, step 4). -/
def execCoreResetRelease (s : State) : Out := .next { s with pwr := { s.pwr with coreRstN := true } }

/-- CORE_RESET_ASSERT (R472). -/
def execCoreResetAssert (s : State) : Out :=
  .next ({ s with pwr := { s.pwr with coreRstN := false } }.engineStops)

/-- The position of a tile that failed its self-test: it moves to a spare, or is lost (R409, R413). -/
def State.selfTestMove (s : State) (p : Nat) : State :=
  let s := s.modEng fun e => { e with tiles := e.tiles.set p .isolated }
  match s.freeSpare with
  | some n =>
    let s := s.modEng fun e => { e with tiles := e.tiles.set n (.active p) }
    if s.freeSpare.isNone then s.report 0x01 { unit := n } else s
  | none => (s.modEngine p fun e => { e with lost := true, was := some p }).report 0x0C { unit := p }

/-- The self-test gives every position a tile (R409): GPE00 to GPE47 take positions 0 to 47, bad spares leave service,
and a bad tile's position moves. -/
def State.selfTest (s : State) (bad : Nat) : State :=
  let spares := ([48, 49].filter fun t => bitOf bad t)
  let s := s.each spares fun s t => s.modEng fun e => { e with tiles := e.tiles.set t .isolated }
  s.each ((List.range 48).filter fun t => bitOf bad t) State.selfTestMove

/-- The engine and PHY domains may leave reset (R470, R471, step 5). -/
def State.mayLeave (s : State) : Bool :=
  s.pwr.aonUp && s.pwr.coreRstN && s.sk.up && s.sk.record.isSome &&
    !s.pwr.supply.contains .engineFails && !s.pwr.lost.any fun c => c == .eclk || c == .hclk || c == .pclk

/-- ENGINE_DOMAIN_RESET_EXIT (R388, R471, step 5): the self-test runs, and an image in the current slot is activated
again. Without one, STAGE requests of management that waited go on (R392). -/
def execEngineDomainResetExit (badTiles : BitVec 50) (s : State) : Out :=
  if s.pwr.engineUp || !s.mayLeave then .next s
  else
    let s := s.engineReset
    let s := { s with pwr := { s.pwr with engineUp := true } }.selfTest badTiles.toNat
    if s.slots.current.isSome then
      .next (s.modSlots fun l => { l with cmd := some ⟨0, false, 0, false⟩, activating := true })
    else
      let n := s.slots.later
      .next ((s.modSlots fun l => { l with later := 0 }).each (List.range n) fun s _ =>
        if s.cfgBusy then s.endCmd 1 1 true else s.beginStage true)

/-- TRAINING_AT_RESET_END (R463, R473). -/
def execTrainingAtResetEnd (n : AgentId) (s : State) : Out :=
  if !s.targetOn || (s.link n).resetDone then .next s
  else .next ((s.modLink n fun l => { l with resetDone := true }).noteReady s)

/-! ### Agents -/

/-- AGENT_RESET_RELEASE (R471, step 6). -/
def execAgentResetRelease (n : AgentId) (s : State) : Out :=
  .next ((s.modAgent n fun a => { a with released := true }).agentPower n)

/-- The counters of an agent's bank restart at zero (R440). -/
def State.bankZero (s : State) (n : Nat) : State :=
  { s with obs := { s.obs with
      counters := s.obs.counters.filter fun e => e.1 < agentCounter n 0 || agentCounter n 128 ≤ e.1 } }

/-- AGENT_RESET_ASSERT (R327, R345, R419, R440): the agent's Crates and held requests are gone, and it serves again
once it has left reset, has trained and is repaired. -/
def execAgentResetAssert (n : AgentId) (s : State) : Out :=
  if !(s.agent n).released then .next s
  else
    let s := (s.agentStops n).modAgent n fun a => { a with
      released := false, failed := false, out := false, repairDone := false, repaired := 0, remap := [] }
    .next ((s.agentPower n).bankZero n)

/-! ### The always-on domain -/

/-- What the Storekeeper keeps in its persistent store (R343, R311, R436, R470). -/
def Keeper.kept (k : Keeper) : Keeper :=
  { Keeper.init with
    reports := k.reports, waiting := k.waiting, active := k.active, svnA := k.svnA, svnB := k.svnB, minSvn := k.minSvn
    fresh := k.fresh, signing := k.signing, hmac := k.hmac, ceilings := k.ceilings, seqs := k.seqs
    remap := k.remap, record := k.record }

/-- AON_RESET_ASSERT (R387, R470, R474): every slot is empty, no marker value is kept, the Storekeeper stops, and the
engine domain is held in reset. -/
def execAonResetAssert (s : State) : Out :=
  if !s.pwr.aonUp then .next s
  else
    let s := s.engineStops
    let s := s.each (List.range 16) fun s n => s.modAgent n fun a => { a with marker := none, cold := false }
    .next { s with
      pwr := { s.pwr with aonUp := false }, slots := Slots.init, sk := s.sk.kept, mov := { s.mov with stackBase := [] } }

/-- TC_STACK_BASE from the integration record (R470). -/
def loadBases (rec : Option IntegrationRecord) : Tab Word :=
  ((rec.map fun r => r.stackBase).getD [] |>.take 24).zipIdx.foldl (fun t e => t.set 0#64 e.2 (BitVec.ofNat 64 e.1.toNat)) []

/-- The Storekeeper has started: it checks the integration record, and what waited for it goes on (R311, R400, R471). -/
def State.skStarted (s : State) (rec : Option IntegrationRecord) : State :=
  let s := s.modSk fun k => { k with up := true, record := rec }.ceiled
  (s.modMov fun m => { m with stackBase := loadBases rec }).skBack

/-- AON_RESET_RELEASE (R436, R470, R471, step 2): with neither copy good, no Storekeeper starts. rec is the
integration record, when it is there and its CRC-32C is right (log entry 80). -/
def execAonResetRelease (fwA fwB : Bool) (rec : Option IntegrationRecord) (s : State) : Out :=
  if s.pwr.aonUp || s.pwr.lost.contains .sclk then .next s
  else
    let s := { s with pwr := { s.pwr with aonUp := true } }.modSk fun k => { k with fwOk := [fwA, fwB] }
    let a := s.sk.active
    if s.sk.copyOk a then .next (s.skStarted rec)
    else if s.sk.copyOk (1 - a) then
      let s := s.modSk fun k => { k with active := 1 - a, fresh := none }
      .next ((s.logFw (1 - a) 2).skStarted rec)
    else .next s

end Sys2Proof.Machine
end

