-- ==== Sys2Proof/Machine/Dispatch.lean ====
section
/-! DEFINITION. The meaning of every command: one arm each. -/

namespace Sys2Proof.Machine

open Sys2Proof

def exec (i : Instr) (s : State) : Host.Outcome State Fault Refusal :=
  match i with
  | .registerWrite off size data => Sys2Proof.Machine.execRegisterWrite off size data s
  | .w1cClear off size data hwSet => Sys2Proof.Machine.execW1cClear off size data hwSet s
  | .sqProd page size data => Sys2Proof.Machine.execSqProd page size data s
  | .cqCons page size data => Sys2Proof.Machine.execCqCons page size data s
  | .class0Pool page slot bytes => Sys2Proof.Machine.execClass0Pool page slot bytes s
  | .class0Score page slot bytes => Sys2Proof.Machine.execClass0Score page slot bytes s
  | .rgCtlEnSet r => Sys2Proof.Machine.execRgCtlEnSet r s
  | .rgCtlEnClear r => Sys2Proof.Machine.execRgCtlEnClear r s
  | .rgAbort r slot all => Sys2Proof.Machine.execRgAbort r slot all s
  | .abortAll => Sys2Proof.Machine.execAbortAll s
  | .mvChHead ch addr => Sys2Proof.Machine.execMvChHead ch addr s
  | .mvChAbort ch => Sys2Proof.Machine.execMvChAbort ch s
  | .channelStopped ch => Sys2Proof.Machine.execChannelStopped ch s
  | .stage => Sys2Proof.Machine.execStage s
  | .stageReadDone res => Sys2Proof.Machine.execStageReadDone res s
  | .activate => Sys2Proof.Machine.execActivate s
  | .rollback => Sys2Proof.Machine.execRollback s
  | .activateDigest => Sys2Proof.Machine.execActivateDigest s
  | .discard => Sys2Proof.Machine.execDiscard s
  | .teardown => Sys2Proof.Machine.execTeardown s
  | .activationDrainEnd => Sys2Proof.Machine.execActivationDrainEnd s
  | .scrubDone => Sys2Proof.Machine.execScrubDone s
  | .fire release => Sys2Proof.Machine.execFire release s
  | .snapRelease => Sys2Proof.Machine.execSnapRelease s
  | .obSinkPtr size data => Sys2Proof.Machine.execObSinkPtr size data s
  | .skMbLogRead => Sys2Proof.Machine.execSkMbLogRead s
  | .skMbSensors => Sys2Proof.Machine.execSkMbSensors s
  | .skMbFwInfo => Sys2Proof.Machine.execSkMbFwInfo s
  | .skMbReports => Sys2Proof.Machine.execSkMbReports s
  | .pwCnValidSet c ctl => Sys2Proof.Machine.execPwCnValidSet c ctl s
  | .descriptorFetch r => Sys2Proof.Machine.execDescriptorFetch r s
  | .gather r => Sys2Proof.Machine.execGather r s
  | .scatter r => Sys2Proof.Machine.execScatter r s
  | .scoreCandidate r => Sys2Proof.Machine.execScoreCandidate r s
  | .interact r => Sys2Proof.Machine.execInteract r s
  | .project r => Sys2Proof.Machine.execProject r s
  | .qload r => Sys2Proof.Machine.execQload r s
  | .fence r => Sys2Proof.Machine.execFence r s
  | .porter r => Sys2Proof.Machine.execPorter r s
  | .mailboxPlace m w => Sys2Proof.Machine.execMailboxPlace m w s
  | .porterProgramStart m => Sys2Proof.Machine.execPorterProgramStart m s
  | .completionRecordWrite w => Sys2Proof.Machine.execCompletionRecordWrite w s
  | .statisticsWrite w => Sys2Proof.Machine.execStatisticsWrite w s
  | .class0TrailerWrite w => Sys2Proof.Machine.execClass0TrailerWrite w s
  | .tokenRefill stream => Sys2Proof.Machine.execTokenRefill stream s
  | .overflowRelease stream => Sys2Proof.Machine.execOverflowRelease stream s
  | .endProg w => Sys2Proof.Machine.execEndProg w s
  | .seta w => Sys2Proof.Machine.execSeta w s
  | .adda w => Sys2Proof.Machine.execAdda w s
  | .loop w => Sys2Proof.Machine.execLoop w s
  | .next w => Sys2Proof.Machine.execNext w s
  | .idx w => Sys2Proof.Machine.execIdx w s
  | .wgt w => Sys2Proof.Machine.execWgt w s
  | .len w => Sys2Proof.Machine.execLen w s
  | .bag w => Sys2Proof.Machine.execBag w s
  | .rowFetchIssue w bag idx => Sys2Proof.Machine.execRowFetchIssue w bag idx s
  | .rowReturn tag => Sys2Proof.Machine.execRowReturn tag s
  | .resultPacketCommit w bag err => Sys2Proof.Machine.execResultPacketCommit w bag err s
  | .engineEpochReport slot pos => Sys2Proof.Machine.execEngineEpochReport slot pos s
  | .epochCut slot => Sys2Proof.Machine.execEpochCut slot s
  | .arrayPass w bag arr => Sys2Proof.Machine.execArrayPass w bag arr s
  | .multicastPacket w bag => Sys2Proof.Machine.execMulticastPacket w bag s
  | .rotationStep set => Sys2Proof.Machine.execRotationStep set s
  | .semaphoreStall pair => Sys2Proof.Machine.execSemaphoreStall pair s
  | .add m => Sys2Proof.Machine.execAdd m s
  | .sub m => Sys2Proof.Machine.execSub m s
  | .and m => Sys2Proof.Machine.execAnd m s
  | .or m => Sys2Proof.Machine.execOr m s
  | .xor m => Sys2Proof.Machine.execXor m s
  | .sll m => Sys2Proof.Machine.execSll m s
  | .srl m => Sys2Proof.Machine.execSrl m s
  | .sra m => Sys2Proof.Machine.execSra m s
  | .mul m => Sys2Proof.Machine.execMul m s
  | .mulhu m => Sys2Proof.Machine.execMulhu m s
  | .divu m => Sys2Proof.Machine.execDivu m s
  | .remu m => Sys2Proof.Machine.execRemu m s
  | .slt m => Sys2Proof.Machine.execSlt m s
  | .sltu m => Sys2Proof.Machine.execSltu m s
  | .addi m => Sys2Proof.Machine.execAddi m s
  | .andi m => Sys2Proof.Machine.execAndi m s
  | .ori m => Sys2Proof.Machine.execOri m s
  | .xori m => Sys2Proof.Machine.execXori m s
  | .shi m => Sys2Proof.Machine.execShi m s
  | .lui m => Sys2Proof.Machine.execLui m s
  | .ldB m => Sys2Proof.Machine.execLdB m s
  | .ldH m => Sys2Proof.Machine.execLdH m s
  | .ldW m => Sys2Proof.Machine.execLdW m s
  | .ldD m => Sys2Proof.Machine.execLdD m s
  | .stB m => Sys2Proof.Machine.execStB m s
  | .stH m => Sys2Proof.Machine.execStH m s
  | .stW m => Sys2Proof.Machine.execStW m s
  | .stD m => Sys2Proof.Machine.execStD m s
  | .beq m => Sys2Proof.Machine.execBeq m s
  | .bne m => Sys2Proof.Machine.execBne m s
  | .blt m => Sys2Proof.Machine.execBlt m s
  | .bge m => Sys2Proof.Machine.execBge m s
  | .bltu m => Sys2Proof.Machine.execBltu m s
  | .bgeu m => Sys2Proof.Machine.execBgeu m s
  | .jal m => Sys2Proof.Machine.execJal m s
  | .jalr m => Sys2Proof.Machine.execJalr m s
  | .fadd m => Sys2Proof.Machine.execFadd m s
  | .fsub m => Sys2Proof.Machine.execFsub m s
  | .fmul m => Sys2Proof.Machine.execFmul m s
  | .fdiv m => Sys2Proof.Machine.execFdiv m s
  | .fsqrt m => Sys2Proof.Machine.execFsqrt m s
  | .fmin m => Sys2Proof.Machine.execFmin m s
  | .fmax m => Sys2Proof.Machine.execFmax m s
  | .fle m => Sys2Proof.Machine.execFle m s
  | .flt m => Sys2Proof.Machine.execFlt m s
  | .feq m => Sys2Proof.Machine.execFeq m s
  | .fcvtD m => Sys2Proof.Machine.execFcvtD m s
  | .fcvtS m => Sys2Proof.Machine.execFcvtS m s
  | .fcvtI m => Sys2Proof.Machine.execFcvtI m s
  | .icvt m => Sys2Proof.Machine.execIcvt m s
  | .fpk m => Sys2Proof.Machine.execFpk m s
  | .csrr m => Sys2Proof.Machine.execCsrr m s
  | .csrw m => Sys2Proof.Machine.execCsrw m s
  | .cclean m => Sys2Proof.Machine.execCclean m s
  | .cinv m => Sys2Proof.Machine.execCinv m s
  | .cflush m => Sys2Proof.Machine.execCflush m s
  | .cinvAll m => Sys2Proof.Machine.execCinvAll m s
  | .cflushAll m => Sys2Proof.Machine.execCflushAll m s
  | .sysFence m => Sys2Proof.Machine.execSysFence m s
  | .waitt m => Sys2Proof.Machine.execWaitt m s
  | .ticketComplete m t => Sys2Proof.Machine.execTicketComplete m t s
  | .halt m => Sys2Proof.Machine.execHalt m s
  | .dataCacheFill m => Sys2Proof.Machine.execDataCacheFill m s
  | .engineRelease m => Sys2Proof.Machine.execEngineRelease m s
  | .engineGather m => Sys2Proof.Machine.execEngineGather m s
  | .arrayScore m => Sys2Proof.Machine.execArrayScore m s
  | .moverList m => Sys2Proof.Machine.execMoverList m s
  | .moverCopy m => Sys2Proof.Machine.execMoverCopy m s
  | .moverAbort m => Sys2Proof.Machine.execMoverAbort m s
  | .waitSpace m => Sys2Proof.Machine.execWaitSpace m s
  | .postFill m => Sys2Proof.Machine.execPostFill m s
  | .waitFill m => Sys2Proof.Machine.execWaitFill m s
  | .postSpace m => Sys2Proof.Machine.execPostSpace m s
  | .semWaitSatisfied m => Sys2Proof.Machine.execSemWaitSatisfied m s
  | .moverDescriptorRead ch => Sys2Proof.Machine.execMoverDescriptorRead ch s
  | .copy ch => Sys2Proof.Machine.execCopy ch s
  | .fill ch => Sys2Proof.Machine.execFill ch s
  | .nop ch => Sys2Proof.Machine.execNop ch s
  | .moverBurstGrant => Sys2Proof.Machine.execMoverBurstGrant s
  | .moverDescriptorComplete ch => Sys2Proof.Machine.execMoverDescriptorComplete ch s
  | .firmwareChannelStart ch desc phys => Sys2Proof.Machine.execFirmwareChannelStart ch desc phys s
  | .coldFetchReturn tag => Sys2Proof.Machine.execColdFetchReturn tag s
  | .faultTake e => Sys2Proof.Machine.execFaultTake e s
  | .walkDone e res => Sys2Proof.Machine.execWalkDone e res s
  | .translationInvalidate scope => Sys2Proof.Machine.execTranslationInvalidate scope s
  | .invalidationDone => Sys2Proof.Machine.execInvalidationDone s
  | .initiatorIssue c => Sys2Proof.Machine.execInitiatorIssue c s
  | .requestCredit c => Sys2Proof.Machine.execRequestCredit c s
  | .writeBeatCredit c => Sys2Proof.Machine.execWriteBeatCredit c s
  | .readData c id resp data => Sys2Proof.Machine.execReadData c id resp data s
  | .writeResponse c id resp => Sys2Proof.Machine.execWriteResponse c id resp s
  | .targetCreditStart => Sys2Proof.Machine.execTargetCreditStart s
  | .hostEpochRise rstN linkUp => Sys2Proof.Machine.execHostEpochRise rstN linkUp s
  | .hostPortResume => Sys2Proof.Machine.execHostPortResume s
  | .write p pkt => Sys2Proof.Machine.execWrite p pkt s
  | .readReq p pkt => Sys2Proof.Machine.execReadReq p pkt s
  | .readResp p pkt => Sys2Proof.Machine.execReadResp p pkt s
  | .ack p pkt => Sys2Proof.Machine.execAck p pkt s
  | .nak p pkt => Sys2Proof.Machine.execNak p pkt s
  | .mgmt p pkt => Sys2Proof.Machine.execMgmt p pkt s
  | .peerAckTimer c => Sys2Proof.Machine.execPeerAckTimer c s
  | .peerRtoExpire c => Sys2Proof.Machine.execPeerRtoExpire c s
  | .linkTrainStart n => Sys2Proof.Machine.execLinkTrainStart n s
  | .trainingStepTimeout n => Sys2Proof.Machine.execTrainingStepTimeout n s
  | .exchange n agentNo stackNo capGib version => Sys2Proof.Machine.execExchange n agentNo stackNo capGib version s
  | .trainingComplete n badOut badIn => Sys2Proof.Machine.execTrainingComplete n badOut badIn s
  | .flitSlot n dir => Sys2Proof.Machine.execFlitSlot n dir s
  | .idleFlit n dir err => Sys2Proof.Machine.execIdleFlit n dir err s
  | .dataFlit n dir err => Sys2Proof.Machine.execDataFlit n dir err s
  | .controlFlit n dir err => Sys2Proof.Machine.execControlFlit n dir err s
  | .retryFlit n dir err => Sys2Proof.Machine.execRetryFlit n dir err s
  | .retryTimeout n dir => Sys2Proof.Machine.execRetryTimeout n dir s
  | .retrainOnReplays n dir => Sys2Proof.Machine.execRetrainOnReplays n dir s
  | .eyeMarginLow n dir lane => Sys2Proof.Machine.execEyeMarginLow n dir lane s
  | .noFlitTimeout n dir => Sys2Proof.Machine.execNoFlitTimeout n dir s
  | .retrainComplete n badOut badIn => Sys2Proof.Machine.execRetrainComplete n badOut badIn s
  | .linkMessageSend n dir vc pack => Sys2Proof.Machine.execLinkMessageSend n dir vc pack s
  | .rd n vc => Sys2Proof.Machine.execRd n vc s
  | .rdPack n => Sys2Proof.Machine.execRdPack n s
  | .wr n vc => Sys2Proof.Machine.execWr n vc s
  | .flush n => Sys2Proof.Machine.execFlush n s
  | .grad n => Sys2Proof.Machine.execGrad n s
  | .commit n => Sys2Proof.Machine.execCommit n s
  | .abort n => Sys2Proof.Machine.execAbort n s
  | .go n => Sys2Proof.Machine.execGo n s
  | .evict n => Sys2Proof.Machine.execEvict n s
  | .refreshAck n => Sys2Proof.Machine.execRefreshAck n s
  | .crateCommitStart c => Sys2Proof.Machine.execCrateCommitStart c s
  | .crateApplyDone n => Sys2Proof.Machine.execCrateApplyDone n s
  | .rdRsp n vc => Sys2Proof.Machine.execRdRsp n vc s
  | .rdPackRsp n => Sys2Proof.Machine.execRdPackRsp n s
  | .wrAck n vc => Sys2Proof.Machine.execWrAck n vc s
  | .flushAck n => Sys2Proof.Machine.execFlushAck n s
  | .hwm n => Sys2Proof.Machine.execHwm n s
  | .full n => Sys2Proof.Machine.execFull n s
  | .sealed n => Sys2Proof.Machine.execSealed n s
  | .crateAck n => Sys2Proof.Machine.execCrateAck n s
  | .refresh n => Sys2Proof.Machine.execRefresh n s
  | .enable n => Sys2Proof.Machine.execEnable n s
  | .linkMgmt n msg => Sys2Proof.Machine.execLinkMgmt n msg s
  | .controllerBusy n vc => Sys2Proof.Machine.execControllerBusy n vc s
  | .holdReissue n accepted => Sys2Proof.Machine.execHoldReissue n accepted s
  | .holdTimeout n idx => Sys2Proof.Machine.execHoldTimeout n idx s
  | .remapInstall n unit => Sys2Proof.Machine.execRemapInstall n unit s
  | .rowRecovery n addr => Sys2Proof.Machine.execRowRecovery n addr s
  | .stackRepair n repaired => Sys2Proof.Machine.execStackRepair n repaired s
  | .touchPeriod n => Sys2Proof.Machine.execTouchPeriod n s
  | .migrationStart n table row pos block => Sys2Proof.Machine.execMigrationStart n table row pos block s
  | .migrationCopyAck n late => Sys2Proof.Machine.execMigrationCopyAck n late s
  | .migrationRemove pos addr => Sys2Proof.Machine.execMigrationRemove pos addr s
  | .promotionStart tc frame recentlyHit => Sys2Proof.Machine.execPromotionStart tc frame recentlyHit s
  | .promotionCopyDone => Sys2Proof.Machine.execPromotionCopyDone s
  | .demotion frame => Sys2Proof.Machine.execDemotion frame s
  | .frameFree frame => Sys2Proof.Machine.execFrameFree frame s
  | .thermalSample temps => Sys2Proof.Machine.execThermalSample temps s
  | .rampStep pos => Sys2Proof.Machine.execRampStep pos s
  | .supplyExcursion dom thirdInSecond => Sys2Proof.Machine.execSupplyExcursion dom thirdInSecond s
  | .supplyRecovered dom => Sys2Proof.Machine.execSupplyRecovered dom s
  | .clockLoss clk => Sys2Proof.Machine.execClockLoss clk s
  | .lockstepMismatch withinSecond => Sys2Proof.Machine.execLockstepMismatch withinSecond s
  | .fwStartTimeout => Sys2Proof.Machine.execFwStartTimeout s
  | .knownAnswerCheck unit pass repeatPass => Sys2Proof.Machine.execKnownAnswerCheck unit pass repeatPass s
  | .porterKnownAnswer m pass => Sys2Proof.Machine.execPorterKnownAnswer m pass s
  | .watchdogFire unit => Sys2Proof.Machine.execWatchdogFire unit s
  | .scrubRead st res => Sys2Proof.Machine.execScrubRead st res s
  | .spareRelease pos => Sys2Proof.Machine.execSpareRelease pos s
  | .agentFailover n => Sys2Proof.Machine.execAgentFailover n s
  | .stackLost st => Sys2Proof.Machine.execStackLost st s
  | .parkedRelease w => Sys2Proof.Machine.execParkedRelease w s
  | .reportResend => Sys2Proof.Machine.execReportResend s
  | .inventorySweep => Sys2Proof.Machine.execInventorySweep s
  | .inventoryDone => Sys2Proof.Machine.execInventoryDone s
  | .tallyPacketForm unit => Sys2Proof.Machine.execTallyPacketForm unit s
  | .tallyPacketWritten unit => Sys2Proof.Machine.execTallyPacketWritten unit s
  | .aonResetRelease fwA fwB rec => Sys2Proof.Machine.execAonResetRelease fwA fwB rec s
  | .coreResetRelease => Sys2Proof.Machine.execCoreResetRelease s
  | .engineDomainResetExit badTiles => Sys2Proof.Machine.execEngineDomainResetExit badTiles s
  | .coreResetAssert => Sys2Proof.Machine.execCoreResetAssert s
  | .agentResetRelease n => Sys2Proof.Machine.execAgentResetRelease n s
  | .trainingAtResetEnd n => Sys2Proof.Machine.execTrainingAtResetEnd n s
  | .reportAck seq => Sys2Proof.Machine.execReportAck seq s
  | .sensors => Sys2Proof.Machine.execSensors s
  | .logRead first count => Sys2Proof.Machine.execLogRead first count s
  | .counters first count => Sys2Proof.Machine.execCounters first count s
  | .config op digest => Sys2Proof.Machine.execConfig op digest s
  | .snapshot => Sys2Proof.Machine.execSnapshot s
  | .keySet body overI3c => Sys2Proof.Machine.execKeySet body overI3c s
  | .fwInfo => Sys2Proof.Machine.execFwInfo s
  | .requestUpdate => Sys2Proof.Machine.execRequestUpdate s
  | .passComponentTable ids => Sys2Proof.Machine.execPassComponentTable ids s
  | .updateComponent id size => Sys2Proof.Machine.execUpdateComponent id size s
  | .requestFirmwareData offset data signer svn sigOk => Sys2Proof.Machine.execRequestFirmwareData offset data signer svn sigOk s
  | .activateFirmware => Sys2Proof.Machine.execActivateFirmware s
  | .getStatus => Sys2Proof.Machine.execGetStatus s
  | .cancelUpdate => Sys2Proof.Machine.execCancelUpdate s
  | .queryDeviceIdentifiers => Sys2Proof.Machine.execQueryDeviceIdentifiers s
  | .getFirmwareParameters => Sys2Proof.Machine.execGetFirmwareParameters s
  | .agentResetAssert n => Sys2Proof.Machine.execAgentResetAssert n s
  | .aonResetAssert => Sys2Proof.Machine.execAonResetAssert s
  | .clockReturn clk => Sys2Proof.Machine.execClockReturn clk s
  | .peerPacketStart p => Sys2Proof.Machine.execPeerPacketStart p s
  | .peerPacketDrop p pkt => Sys2Proof.Machine.execPeerPacketDrop p pkt s

end Sys2Proof.Machine
end

