-- ==== Sys2Proof/Safety.lean ====
section
/-! DEFINITION. What a sound state is, in the terms that claims use: every sparse table that software can read lies
in its canonical form, no two tiles hold one position, and the counts with a width keep it. -/

namespace Sys2Proof.Machine

open Sys2Proof

/-- The position that a tile holds (R15). -/
def TileSt.position : TileSt → Option Nat
  | .active p => some p
  | _ => none

/-- The tiles are GPE00 to GPE49, and no two of them hold one position (R15, R409). -/
def tilesOk (ts : List TileSt) : Prop := ts.length = 50 ∧ (ts.filterMap TileSt.position).Nodup

/-- The invariant of the block: canonical tables, one tile at most for each position (R15), a host epoch of 16 bits
(R291), a GENERATION and a sink ring position of 32 bits (R388, R446), and a log of at most 1,024 records (R431). -/
structure State.Inv (s : State) : Prop where
  tiles : tilesOk s.eng.tiles
  mem : Memory.wf s.mem = true
  regs : s.regs.wf 0#64 = true
  notices : s.notices.wf 0#64 = true
  counters : s.obs.counters.wf 0#64 = true
  drops : s.obs.drops.wf 0#64 = true
  epoch : s.host.epoch < 2 ^ 16
  generation : s.slots.generation < 2 ^ 32
  prod : s.obs.prod < 2 ^ 32
  log : s.sk.log.length ≤ 1024

/-- The parts of the state, one for each field of it but the queue. -/
inductive Part where
  | fresh | pwr | host | regs | notices | mem | wild | slots | cfg | disp | eng | arr | net | mov | hi | peer |
      porters | sk | obs
  deriving DecidableEq, Repr

/-- Two states agree on a part. -/
def State.same (s t : State) : Part → Prop
  | .fresh => s.fresh = t.fresh
  | .pwr => s.pwr = t.pwr
  | .host => s.host = t.host
  | .regs => s.regs = t.regs
  | .notices => s.notices = t.notices
  | .mem => s.mem = t.mem
  | .wild => s.wild = t.wild
  | .slots => s.slots = t.slots
  | .cfg => s.cfg = t.cfg
  | .disp => s.disp = t.disp
  | .eng => s.eng = t.eng
  | .arr => s.arr = t.arr
  | .net => s.net = t.net
  | .mov => s.mov = t.mov
  | .hi => s.hi = t.hi
  | .peer => s.peer = t.peer
  | .porters => s.porters = t.porters
  | .sk => s.sk = t.sk
  | .obs => s.obs = t.obs

/-- A command answers a next state, of which something holds. -/
def answers (c : Instr) (s : State) (P : State → Prop) : Prop := ∃ t, exec c s = .next t ∧ P t

/-- A bag of a piece of work. -/
def State.bagOf (s : State) (w b : Nat) : Bag := ((s.work w).map fun k => k.bags.get default b).getD default

/-- A counter of the inventory. -/
def State.counterAt (s : State) (i : Nat) : BitVec 64 := s.obs.counters.get 0#64 i

/-- The bytes at an address are at hand: it lies in the Larder, or in the Store Room with its agent in service. -/
def State.near (s : State) (a : Nat) : Prop :=
  spaceOf a = 1 ∨ (spaceOf a = 0 ∧ s.inService (s.ownerAgent a) = true)

/-- From s to t only the listed parts change, and the queue of commands does not. -/
def State.changes (s t : State) (ps : List Part) : Prop := t.pending = s.pending ∧ ∀ p, p ∉ ps → t.same s p

end Sys2Proof.Machine

namespace Sys2Proof

/-- The parts of the state that a command may change. -/
def Instr.touches : Instr → List Machine.Part
  | .registerWrite .. | .rgCtlEnSet .. | .rgCtlEnClear .. | .rgAbort .. | .abortAll | .mvChHead .. |
    .mvChAbort .. | .fire .. | .snapRelease | .obSinkPtr .. | .skMbLogRead | .skMbSensors | .skMbFwInfo |
    .skMbReports | .pwCnValidSet .. | .overflowRelease .. | .hostEpochRise .. =>
    [.fresh, .pwr, .host, .regs, .notices, .mem, .wild, .slots, .disp, .eng, .arr, .net, .mov, .hi, .peer, .porters, .sk, .obs]
  | .w1cClear .. => [.fresh, .pwr, .host, .notices, .arr]
  | .sqProd .. | .cqCons .. | .class0Pool .. | .class0Score .. =>
    [.fresh, .pwr, .host, .notices, .wild, .disp, .eng, .arr, .net, .mov, .peer, .porters, .obs]
  | .channelStopped .. => [.fresh, .notices, .wild, .disp, .eng, .arr, .net, .mov, .peer, .porters, .obs]
  | .stage | .activate | .rollback | .activateDigest | .discard | .teardown =>
    [.fresh, .pwr, .host, .regs, .notices, .slots, .disp, .mov, .hi, .peer, .sk]
  | .stageReadDone .. => [.fresh, .notices, .mem, .slots, .peer, .sk, .obs]
  | .activationDrainEnd =>
    [.fresh, .regs, .notices, .mem, .wild, .slots, .cfg, .disp, .eng, .arr, .net, .mov, .hi, .peer, .porters, .sk, .obs]
  | .scrubDone | .requestFirmwareData .. => [.fresh, .notices, .mem, .slots, .sk, .obs]
  | .descriptorFetch .. | .moverDescriptorRead .. | .walkDone .. | .writeResponse .. =>
    [.fresh, .notices, .wild, .disp, .eng, .arr, .net, .mov, .hi, .peer, .porters, .obs]
  | .gather .. | .scatter .. | .scoreCandidate .. | .interact .. | .porterProgramStart .. | .endProg .. |
    .seta .. | .adda .. | .loop .. | .next .. | .idx .. | .wgt .. | .bag .. | .add .. | .sub .. | .and .. |
    .or .. | .xor .. | .sll .. | .srl .. | .sra .. | .mul .. | .mulhu .. | .divu .. | .remu .. | .slt .. |
    .sltu .. | .addi .. | .andi .. | .ori .. | .xori .. | .shi .. | .lui .. | .beq .. | .bne .. | .blt .. |
    .bge .. | .bltu .. | .bgeu .. | .jal .. | .jalr .. | .fadd .. | .fsub .. | .fmul .. | .fdiv .. | .fsqrt .. |
    .fmin .. | .fmax .. | .fle .. | .flt .. | .feq .. | .fcvtD .. | .fcvtS .. | .fcvtI .. | .icvt .. | .fpk .. |
    .csrr .. | .csrw .. | .cclean .. | .cinv .. | .cflush .. | .cinvAll .. | .cflushAll .. | .sysFence .. |
    .waitt .. | .halt .. | .moverList .. | .moverCopy .. | .moverAbort .. | .waitSpace .. | .postFill .. |
    .waitFill .. | .postSpace .. => [.fresh, .wild, .disp, .eng, .arr, .net, .mov, .peer, .porters, .obs]
  | .project .. | .porter .. | .ldB .. | .ldH .. | .ldW .. | .ldD .. | .stB .. | .stH .. | .stW .. | .stD .. |
    .engineRelease .. | .engineGather .. =>
    [.fresh, .notices, .mem, .wild, .disp, .eng, .arr, .net, .mov, .peer, .porters, .sk, .obs]
  | .qload .. | .completionRecordWrite .. | .statisticsWrite .. | .len .. | .rowFetchIssue .. | .arrayPass .. |
    .multicastPacket .. | .rotationStep .. | .ticketComplete .. | .arrayScore .. | .write .. | .readReq .. |
    .readResp .. | .ack .. | .nak .. | .mgmt .. | .inventorySweep =>
    [.fresh, .notices, .mem, .wild, .disp, .eng, .arr, .net, .mov, .hi, .peer, .porters, .sk, .obs]
  | .fence .. => [.fresh, .wild, .disp, .eng, .arr, .net, .mov, .hi, .peer, .porters, .obs]
  | .mailboxPlace .. => [.fresh, .notices, .mem, .disp, .porters, .sk, .obs]
  | .class0TrailerWrite .. | .moverBurstGrant | .readData .. =>
    [.fresh, .notices, .mem, .wild, .disp, .eng, .arr, .net, .mov, .hi, .peer, .porters, .obs]
  | .tokenRefill .. | .epochCut .. | .parkedRelease .. => [.disp]
  | .rowReturn .. => [.fresh, .wild, .disp, .eng, .arr, .net, .obs]
  | .resultPacketCommit .. | .watchdogFire .. | .aonResetRelease .. | .clockReturn .. =>
    [.fresh, .pwr, .notices, .mem, .wild, .disp, .eng, .arr, .net, .mov, .hi, .peer, .porters, .sk, .obs]
  | .engineEpochReport .. => [.fresh, .disp, .eng, .net, .obs]
  | .semaphoreStall .. => [.fresh, .notices, .mem, .arr, .sk, .obs]
  | .dataCacheFill .. => [.wild, .disp, .eng, .arr, .net, .mov, .peer, .porters, .obs]
  | .semWaitSatisfied .. => [.arr, .porters, .obs]
  | .copy .. | .fill .. | .nop .. => [.fresh, .wild, .disp, .mov, .peer, .porters, .obs]
  | .moverDescriptorComplete .. => [.fresh, .notices, .mov, .obs]
  | .firmwareChannelStart .. | .faultTake .. | .invalidationDone | .frameFree .. => [.mov]
  | .coldFetchReturn .. => [.eng, .net, .mov, .obs]
  | .translationInvalidate .. | .promotionStart .. | .promotionCopyDone | .demotion .. => [.mov, .obs]
  | .initiatorIssue .. => [.fresh, .disp, .hi]
  | .requestCredit .. | .writeBeatCredit .. => [.hi]
  | .targetCreditStart | .coreResetRelease => [.pwr]
  | .hostPortResume => [.host]
  | .peerAckTimer .. => [.peer]
  | .peerRtoExpire .. | .snapshot => [.fresh, .notices, .mem, .peer, .sk, .obs]
  | .linkTrainStart .. | .exchange .. | .retryTimeout .. | .flush .. | .commit .. | .go .. | .evict .. |
    .agentResetRelease .. => [.net]
  | .trainingStepTimeout .. | .trainingComplete .. | .noFlitTimeout .. | .retrainComplete .. | .rowRecovery .. |
    .stackRepair .. | .agentResetAssert .. =>
    [.fresh, .notices, .mem, .disp, .eng, .arr, .net, .mov, .peer, .porters, .sk, .obs]
  | .flitSlot .. | .linkMessageSend .. => [.fresh, .net]
  | .idleFlit .. | .dataFlit .. | .retrainOnReplays .. | .eyeMarginLow .. | .linkMgmt .. => [.net, .obs]
  | .controlFlit .. => [.fresh, .notices, .mem, .eng, .net, .mov, .sk, .obs]
  | .retryFlit .. | .grad .. | .abort .. | .controllerBusy .. | .touchPeriod .. => [.fresh, .net, .obs]
  | .rd .. | .rdPack .. | .wr .. | .crateApplyDone .. => [.fresh, .mem, .net, .obs]
  | .refreshAck .. => [.fresh, .mem, .eng, .net, .sk, .obs]
  | .crateCommitStart .. | .clockLoss .. | .knownAnswerCheck .. | .porterKnownAnswer .. | .scrubRead .. =>
    [.fresh, .pwr, .notices, .mem, .disp, .eng, .arr, .net, .mov, .peer, .porters, .sk, .obs]
  | .rdRsp .. | .rdPackRsp .. => [.eng, .net, .obs]
  | .wrAck .. | .flushAck .. => [.disp, .net, .mov, .peer, .porters, .obs]
  | .hwm .. | .sealed .. => [.disp, .net]
  | .full .. | .agentFailover .. => [.fresh, .notices, .mem, .disp, .eng, .net, .sk, .obs]
  | .crateAck .. => [.disp, .net, .obs]
  | .refresh .. => [.mem, .eng, .net]
  | .enable .. => [.fresh, .eng, .net, .sk, .obs]
  | .holdReissue .. => [.mem, .net, .obs]
  | .holdTimeout .. | .remapInstall .. => [.fresh, .notices, .mem, .net, .sk, .obs]
  | .migrationStart .. | .migrationRemove .. => [.eng, .net]
  | .migrationCopyAck .. => [.fresh, .eng, .net, .mov, .sk, .obs]
  | .thermalSample .. => [.fresh, .notices, .mem, .eng, .net, .sk, .obs]
  | .rampStep .. | .spareRelease .. => [.eng]
  | .supplyExcursion .. => [.fresh, .pwr, .notices, .mem, .disp, .eng, .arr, .net, .sk, .obs]
  | .supplyRecovered .. => [.pwr, .eng]
  | .lockstepMismatch .. | .stackLost .. => [.fresh, .notices, .mem, .sk, .obs]
  | .fwStartTimeout | .activateFirmware => [.fresh, .mem, .sk, .obs]
  | .reportResend | .getStatus | .getFirmwareParameters => [.sk]
  | .inventoryDone | .tallyPacketForm .. => [.notices, .obs]
  | .tallyPacketWritten .. => [.notices, .mem, .obs]
  | .engineDomainResetExit .. | .coreResetAssert | .aonResetAssert =>
    [.fresh, .pwr, .host, .regs, .notices, .mem, .slots, .cfg, .disp, .eng, .arr, .net, .mov, .hi, .peer, .porters, .sk, .obs]
  | .trainingAtResetEnd .. => [.notices, .net]
  | .reportAck .. | .keySet .. => [.fresh, .mem, .peer, .sk, .obs]
  | .sensors | .logRead .. | .counters .. | .fwInfo => [.fresh, .peer, .sk]
  | .config .. => [.fresh, .regs, .notices, .slots, .disp, .mov, .hi, .peer, .sk]
  | .requestUpdate | .passComponentTable .. | .queryDeviceIdentifiers => [.fresh, .sk]
  | .updateComponent .. | .cancelUpdate => [.fresh, .slots, .sk]
  | .peerPacketStart .. => [.peer, .obs]
  | .peerPacketDrop .. => [.fresh, .notices, .obs]

/-- A host error of a work (R8): the block goes on, the work ends, and nothing outside the parts that the command
reaches changes. -/
def Machine.State.spoils (s : Machine.State) (w : Nat) (c : Instr) : Prop :=
  Machine.answers c s fun t => (∃ k, t.work w = some k ∧ k.ended = true) ∧ s.changes t c.touches

/-- An access without its right (R9, R242): the work of the command ends with ACCESS_VIOLATION, and nothing outside the
parts that the command reaches changes. -/
def Machine.State.violates (s : Machine.State) (w : Nat) (c : Instr) : Prop :=
  Machine.answers c s fun t => (∃ k, t.work w = some k ∧ k.ended = true ∧ k.status = 1) ∧ s.changes t c.touches

/-- The task of the command's work waits for a cause, parked (R419, R421), and nothing outside the parts that the command
reaches changes. -/
def Machine.State.waitsFor (s : Machine.State) (w : Nat) (cause : Machine.ParkCause) (c : Instr) : Prop :=
  Machine.answers c s fun t => (∃ v k, (v = w ∨ v = s.root w) ∧ t.work v = some k ∧ cause ∈ k.parked) ∧
    s.changes t c.touches

end Sys2Proof
end

