-- ==== Sys2Proof/Certificates/Slice0/Obligations.lean ====
section
/-! DEFINITION. The statements for the provers, with the words that they share. Every one is about every state and
every operand that meets its premises; `answers c s P` says that command c answers a next state at s, of which P
holds. -/

open Sys2Proof Sys2Proof.Machine

/-- A step runs the command at the front of the queue on the state with the queue's rest. On an empty queue the block
idles, but for the end of a firmware start (the model's choice, log entry 29). -/
def Obligations.StepRunsFront : Prop :=
  (∀ (s : State) (c : Instr) (rest : List Instr), s.pending = c :: rest → step s = exec c { s with pending := rest }) ∧
  (∀ s : State, s.pending = [] → step s = .next s.idle) ∧
  (∀ s : State, s.pending = [] → s.sk.fresh = none → step s = .next s)

/-- What reset leaves: the values that the spec gives. -/
def Obligations.ResetValues : Prop :=
  let s := State.reset
  (∀ n < 48, s.eng.tiles[n]? = some (.active n)) ∧ s.eng.tiles[48]? = some .spare ∧ s.eng.tiles[49]? = some .spare ∧
  s.reg Reg.pwCtl = 0x3200 ∧ (∀ n < 28, fld (s.reg (Reg.mvCtl n)) 3 2 = 2) ∧ (∀ a < 8, s.reg (Reg.saLimit a) = 0x0400) ∧
  (∀ off, s.noticeBits off = 0) ∧ (∀ i, s.obs.counters.get 0#64 i = 0#64) ∧ (∀ n, (s.link n).st = .down) ∧
  (∀ c, (s.hiChan c).credits = 0 ∧ (s.hiChan c).beats = 0) ∧
  s.slots.stagedSt = .empty ∧ s.slots.current = none ∧ s.slots.attic = none ∧ s.slots.generation = 0 ∧
  s.host.epoch = 0 ∧ s.pending = []

/-- The invariant holds at reset. -/
def Obligations.ResetMeetsInv : Prop :=
 State.reset.Inv

/-- Every step keeps the invariant: from any state that meets it, not only from those that a run reaches. -/
def Obligations.StepKeepsInv : Prop :=
 ∀ s t : State, s.Inv → step s = .next t → t.Inv

/-- The frame of every command: the queue and every part of the state that touches does not list are unchanged. -/
def Obligations.CommandFrames : Prop :=
 ∀ (c : Instr) (s t : State), exec c s = .next t → s.changes t c.touches

/-- No register, doorbell, task or firmware action changes a loaded structure (R30): only the end of an activation's
drain loads them, from the image that its swap makes current, and a teardown or a reset of the engine domain empties
them. -/
def Obligations.TablesOnlyFromImage : Prop :=
  ∀ (c : Instr) (s t : State), exec c s = .next t →
    t.cfg = s.cfg ∨
    (t.cfg = Cfg.empty ∧
      (c = .activationDrainEnd ∨ c = .coreResetAssert ∨ c = .aonResetAssert ∨ ∃ b, c = .engineDomainResetExit b)) ∨
    (c = .activationDrainEnd ∧ ∃ k img, s.slots.cmd = some k ∧ (s.swapSlots k.swap).slots.current = some img ∧
      t.cfg = Cfg.ofImage img)

/-- A register write sets the RW fields that it reaches, and only those (R454, R455). The RW fields with a row of
their own, and what is a host error (R281, R302, R6), are other rows' business. -/
def Obligations.RegisterWriteSetsFields : Prop :=
  (∀ (off : Offset) (size : Nat) (data : Word) (s : State),
    let o := off.toNat
    let b := o / 8 * 8
    let v := if size = 8 then data.toNat else put data.toNat 32 (8 * (o % 8))
    let m := s.writable b &&& halfMask o size
    let new := (s.reg b &&& (m ^^^ (2 ^ 64 - 1))) ||| (v &&& m)
    s.takesWrites (beatsOf size) = true → s.slots.activating = false → aligned o size = true → o < 0x800000 →
    rwMask b ≠ 0 →
    b ≠ Reg.mbCmd → (∀ c < 256, b = Reg.pwCn c + 0x10 → s.cnValid c = true ∨ bitOf v 0 = false) →
    v &&& halfMask o size &&& ((rwMask b ||| ownMask b ||| w1cMask b ||| roMask b) ^^^ (2 ^ 64 - 1)) = 0 →
    s.badChange b (halfMask o size) (s.reg b) new = false →
    answers (.registerWrite off size data) s fun t =>
      t.reg b = new ∧ (∀ b', b' ≠ b → t.reg b' = s.reg b') ∧ s.changes t [.regs]) ∧
  (∀ (off : Offset) (size : Nat) (data : Word) (s : State),
    s.targetFull = false → s.host.waiting = [] → off.toNat < 0x800000 →
    rwMask (off.toNat / 8 * 8) + ownMask (off.toNat / 8 * 8) + w1cMask (off.toNat / 8 * 8) = 0 →
    exec (.registerWrite off size data) s = .next s) ∧
  (∀ (off : Offset) (size : Nat) (data : Word) (s : State), s.targetOn = false ∨ s.pwr.wcred < beatsOf size →
    exec (.registerWrite off size data) s = .next s) ∧
  (∀ (off : Offset) (size : Nat) (data : Word) (s : State),
    s.targetOn = true → beatsOf size ≤ s.pwr.wcred → (s.targetFull = true ∨ s.host.waiting ≠ []) →
    answers (.registerWrite off size data) s fun t =>
      t.host.waiting = s.host.waiting ++ [.registerWrite off size data] ∧ t.pwr.wcred + beatsOf size = s.pwr.wcred ∧
      s.changes t [.pwr, .host])

/-- R175: SA_SEM[m] of array a reads the FILL, SPACE and STALLED of pair 128 a + m as one state holds them; a write
to it changes nothing. -/
def Obligations.SemaphoreReads : Prop :=
  ∀ (a : ArrayId) (m : Fin 128) (s : State),
    let off := Reg.sa a + 0x1000 + 8 * m.val
    let p := s.sem (128 * a.val + m.val)
    (p.fill < 2 ^ 16 → p.space < 2 ^ 16 →
      fld (s.readReg off 8) 15 0 = p.fill ∧ fld (s.readReg off 8) 31 16 = p.space ∧
        fld (s.readReg off 8) 48 48 = bitAt p.stalled 0) ∧
    ∀ (k : Fin 8) (size : Nat) (data : Word), s.takesWrites (beatsOf size) = true →
      exec (.registerWrite (BitVec.ofNat 24 (off + k.val)) size data) s = .next s

/-- R26 and R8: a doorbell write during an activation is a host error that reaches only what its page controls, and
the block goes on. Which of the bytes it reaches take other values is open, in the model's form (log entry 7). -/
def Obligations.DoorbellDuringActivation : Prop :=
  ∀ s : State, s.slots.activating = true →
    (∀ (p : PageId) (r size : Nat) (d : Word), s.cfg.page p = .ring r → s.takesWrites 1 = true →
      (answers (.sqProd p size d) s fun t => (∀ r', r' ≠ r → t.ring r' = s.ring r') ∧ t.disp.works = s.disp.works ∧
        s.changes t [.fresh, .wild, .disp]) ∧
      answers (.cqCons p size d) s fun t => (∀ r', r' ≠ r → t.ring r' = s.ring r') ∧ t.disp.works = s.disp.works ∧
        s.changes t [.fresh, .wild, .disp]) ∧
    (∀ (off : Offset) (r size : Nat) (d : Word), 0x800000 ≤ off.toNat →
      s.cfg.page ((off.toNat - 0x800000) / 0x1000) = .ring r → s.takesWrites (beatsOf size) = true →
      answers (.registerWrite off size d) s fun t => (∀ r', r' ≠ r → t.ring r' = s.ring r') ∧
        t.disp.works = s.disp.works ∧ s.changes t [.fresh, .wild, .disp]) ∧
    (∀ (p : PageId) (k : RingId) (b : Bytes), s.takesWrites (beatsOf b.length) = true →
      (answers (.class0Pool p k b) s fun t => s.changes t (Instr.class0Pool p k b).touches) ∧
      answers (.class0Score p k b) s fun t => s.changes t (Instr.class0Score p k b).touches)

/-- A class 0 doorbell write is accepted as one piece of work (R94, R154, R280). With a token it is steered at once,
without one it waits at the end of the overflow queue (R108). The slot carries no meaning. At an unassigned page, and
before READY or while EN = 0, the write is ignored (R279, R463). A request of another length, or with a field that the
rules forbid, is a host error (R8): that it may run or not, and reaches no more than the parts of its row, is the model's
choice (log entry 7). -/
def Obligations.ClassZeroPageWrites : Prop :=
  (∀ (page : PageId) (slot : RingId) (b : Bytes) (score : Bool) (stream dom : Nat) (s : State),
    let c : Instr := if score then .class0Score page slot b else .class0Pool page slot b
    let w := s.disp.nextWork
    s.takesWrites 8 = true → s.slots.activating = false → s.ready = true →
    s.cfg.page page = .class0 stream dom → b.length = 64 →
    s.badDoorbell { Doorbell.ofBytes b with score := score } = false → reservedBell score b = false →
    answers c s fun t =>
      (∃ k, t.work w = some k ∧ k.src = .class0 page stream ∧ k.cls = 0 ∧ k.domain = dom ∧
        k.doorbell = some { Doorbell.ofBytes b with score := score }) ∧
      t.disp.nextWork = w + 1 ∧
      (s.disp.tokens.get 0 stream ≠ 0 →
        t.disp.overflow = s.disp.overflow ∧ t.disp.tokens.get 0 stream = s.disp.tokens.get 0 stream - 1) ∧
      (s.disp.tokens.get 0 stream = 0 → t.disp.overflow = s.disp.overflow ++ [w] ∧ t.disp.tokens = s.disp.tokens)) ∧
  (∀ (page : PageId) (slot slot' : RingId) (b : Bytes) (s : State),
    s.targetFull = false → s.host.waiting = [] →
    exec (.class0Pool page slot b) s = exec (.class0Pool page slot' b) s ∧
    exec (.class0Score page slot b) s = exec (.class0Score page slot' b) s) ∧
  (∀ (page : PageId) (slot : RingId) (b : Bytes) (score : Bool) (stream dom : Nat) (s : State),
    let c : Instr := if score then .class0Score page slot b else .class0Pool page slot b
    s.takesWrites (beatsOf b.length) = true → s.slots.activating = false → s.ready = true →
    s.cfg.page page = .class0 stream dom →
    (b.length ≠ 64 ∨ s.badDoorbell { Doorbell.ofBytes b with score := score } = true ∨ reservedBell score b = true) →
    answers c s fun t => s.changes t c.touches) ∧
  (∀ (page : PageId) (slot : RingId) (b : Bytes) (s : State),
    s.takesWrites (beatsOf b.length) = true →
    (s.cfg.page page = .none ∨
      (s.slots.activating = false ∧ s.ready = false ∧ ∃ stream dom, s.cfg.page page = .class0 stream dom) ∨
      ∃ r, s.cfg.page page = .ring r ∧ s.slots.activating = false ∧ (s.ready = false ∨ s.ringEn r = false)) →
    ∀ c ∈ [Instr.class0Pool page slot b, .class0Score page slot b], answers c s fun t =>
      bitOf (t.noticeBits Reg.rgEvent) 1 = true ∧ t.counterAt 0x01E = s.counterAt 0x01E + 1 ∧
      s.changes t [.fresh, .notices, .obs])

/-- SQ_PROD and CQ_CONS (R279): the position moves, and nothing else does; a write to an unassigned page, before READY or
while EN = 0 is ignored and sets DB_IGNORED. At a class 0 page of a ready block they are malformed requests (R280): what
the host error of R8 reaches there is the model's choice (log entry 7). RG_CTL.EN set and cleared (R277, R281): the other
fields of RG_CTL, the other rings and every piece of work stay. -/
def Obligations.RingDoorbells : Prop :=
  ((∀ (page : PageId) (size r : Nat) (data : Word) (s : State),
     let v := data.toNat % 2 ^ 32
     let g := s.ring r
     s.takesWrites 1 = true → s.slots.activating = false → s.ready = true → s.cfg.page page = .ring r →
     (size = 4 ∨ size = 8 ∧ data.toNat < 2 ^ 32) → s.ringEn r = true →
     ((posDiff v g.cpl ≤ s.ringSize r ∧ posDiff g.prod g.cpl ≤ posDiff v g.cpl) →
       answers (.sqProd page size data) s fun t =>
         t.ring r = { g with prod := v } ∧ (∀ r', r' ≠ r → t.ring r' = s.ring r') ∧ s.changes t [.disp]) ∧
     (posDiff v g.cons ≤ posDiff g.cpl g.cons →
       answers (.cqCons page size data) s fun t =>
         t.ring r = { g with cons := v } ∧ (∀ r', r' ≠ r → t.ring r' = s.ring r') ∧ s.changes t [.disp])) ∧
   (∀ (page : PageId) (size : Nat) (data : Word) (s : State),
     s.takesWrites 1 = true →
     (s.cfg.page page = .none ∨
       (s.slots.activating = false ∧ s.ready = false ∧ ∃ stream dom, s.cfg.page page = .class0 stream dom) ∨
       ∃ r, s.cfg.page page = .ring r ∧ s.slots.activating = false ∧ (s.ready = false ∨ s.ringEn r = false)) →
     ∀ c ∈ [Instr.sqProd page size data, .cqCons page size data], answers c s fun t =>
       bitOf (t.noticeBits Reg.rgEvent) 1 = true ∧ t.counterAt 0x01E = s.counterAt 0x01E + 1 ∧
       s.changes t [.fresh, .notices, .obs]) ∧
   (∀ (page : PageId) (size stream dom : Nat) (data : Word) (s : State),
     s.takesWrites 1 = true → s.slots.activating = false → s.ready = true → s.cfg.page page = .class0 stream dom →
     ∀ c ∈ [Instr.sqProd page size data, .cqCons page size data], answers c s fun t => s.changes t c.touches)) ∧
  (∀ (r : RingId) (s : State), s.takesWrites 1 = true → s.slots.activating = false →
     (s.ringEn r = false → answers (.rgCtlEnSet r) s fun t =>
       t.ringEn r = true ∧ (t.ring r).prod = 0 ∧ (t.ring r).cons = 0 ∧ (t.ring r).cpl = 0 ∧ (t.ring r).fetch = 0 ∧
       (t.ring r).phase = none ∧ (t.ring r).epochStop = false ∧ (∀ r', r' ≠ r.val → t.ring r' = s.ring r') ∧
       t.disp.works = s.disp.works ∧ s.changes t [.regs, .disp]) ∧
     (s.ringEn r = true → answers (.rgCtlEnClear r) s fun t =>
       t.ringEn r = false ∧ t.ring r = { s.ring r with fetched := [] } ∧ (∀ r', r' ≠ r.val → t.ring r' = s.ring r') ∧
       t.disp.works = s.disp.works ∧ s.changes t [.regs, .disp, .mov, .hi]))

/-- A write of 1 clears a notice bit, and a hardware set in the same cycle wins (R456). The field tied to
SA_NOTICE.STALL follows the notice's final state (R458); which pair a set in the same cycle gives is open (log entry
2). A write that waits changes the queue of waiting writes alone (R108). -/
def Obligations.NoticeClear : Prop :=
  (∀ (off : Offset) (size : Nat) (data hw : Word) (s : State),
    let o := off.toNat
    let b := o / 8 * 8
    let w := if size = 8 then data.toNat else put data.toNat 32 (8 * (o % 8))
    let v := w &&& w1cMask b
    s.takesWrites (beatsOf size) = true → aligned o size = true → w1cMask b ≠ 0 →
    w &&& ((rwMask b ||| ownMask b ||| w1cMask b ||| roMask b) ^^^ (2 ^ 64 - 1)) = 0 →
    answers (.w1cClear off size data hw) s fun t =>
      t.noticeBits b = (s.noticeBits b &&& (v ^^^ (2 ^ 64 - 1))) ||| (hw.toNat &&& w1cMask b) ∧
      (∀ b', b' ≠ b → t.noticeBits b' = s.noticeBits b') ∧
      (∀ n < 8, b = Reg.saNotice n →
        let sets := bitOf hw.toNat 0 = true ∧ (bitOf w 0 = true ∨ (s.array n).stallPair = none)
        (t.noticeBits b = 0 → (t.array n).stallPair = none) ∧
        (t.noticeBits b ≠ 0 → sets → ∃ m < 128, (t.array n).stallPair = some (128 * n + m)) ∧
        (t.noticeBits b ≠ 0 → ¬ sets → (t.array n).stallPair = (s.array n).stallPair)) ∧
      (∀ n, b ≠ Reg.saNotice n → t.array n = s.array n) ∧ s.changes t [.fresh, .notices, .arr]) ∧
  (∀ (off : Offset) (size : Nat) (data hw : Word) (s : State),
    s.targetOn = true → beatsOf size ≤ s.pwr.wcred → (s.targetFull = true ∨ s.host.waiting ≠ []) →
    answers (.w1cClear off size data hw) s fun t =>
      t.host.waiting = s.host.waiting ++ [.w1cClear off size data hw] ∧ s.changes t [.pwr, .host]) ∧
  (∀ (off : Offset) (size : Nat) (data hw : Word) (s : State),
    answers (.w1cClear off size data hw) s fun t => s.changes t [.fresh, .pwr, .host, .notices, .arr])

/-- Software aborts (R282, R462): the named tasks have ended with ABORTED_BY_HOST (2) or STALLED (4); without such a
task RG_ABORT changes nothing. -/
def Obligations.SoftwareAborts : Prop :=
  (∀ (r : RingId) (slot : BitVec 16) (all : Bool) (s : State), s.takesWrites 1 = true → s.slots.activating = false →
    answers (.rgAbort r slot all) s fun t =>
      ∀ (w sl : Nat) (k : Work), s.work w = some k → k.src = .ring r sl → (all = true ∨ sl = slot.toNat) →
        ∃ k', t.work w = some k' ∧ k'.ended = true ∧ (k.ended = false → k'.status = 2 ∨ k'.status = 4)) ∧
  (∀ (r : RingId) (slot : BitVec 16) (s : State), s.takesWrites 1 = true → s.slots.activating = false →
    (∀ e ∈ s.works, e.2.src ≠ .ring r slot.toNat) → exec (.rgAbort r slot false) s = .next s) ∧
  (∀ s : State, s.takesWrites 1 = true → s.slots.activating = false →
    answers .abortAll s fun t => ∀ (w sl : Nat) (r : RingId) (k : Work), s.work w = some k → k.src = .ring r sl →
      ∃ k', t.work w = some k' ∧ k'.ended = true ∧ (k.ended = false → k'.status = 2 ∨ k'.status = 4))

/-- OB_SINK_PTR (R446) and the rise of PW_CN.VALID (R299). The commands of a software channel (R255, R256). A CONS past
PROD and a fifth head are host errors: that they reach nothing but that register and that channel is the model's choice
in R8 (log entry 7). -/
def Obligations.PointersAndChannels : Prop :=
  ((∀ (size : Nat) (data : Word) (s : State),
     let v := data.toNat % 2 ^ 32
     let cons := s.reg Reg.obSinkPtr
     s.takesWrites 1 = true → s.slots.activating = false → (size = 4 ∨ size = 8 ∧ data.toNat < 2 ^ 32) →
     (posDiff v cons ≤ posDiff (s.obs.prod % 2 ^ 32) cons → answers (.obSinkPtr size data) s fun t =>
       t.reg Reg.obSinkPtr = v ∧ (∀ b, b ≠ Reg.obSinkPtr → t.reg b = s.reg b) ∧ s.changes t [.regs]) ∧
     (posDiff (s.obs.prod % 2 ^ 32) cons < posDiff v cons →
       answers (.obSinkPtr size data) s fun t =>
         (∀ b, b ≠ Reg.obSinkPtr → t.reg b = s.reg b) ∧ s.changes t [.fresh, .regs])) ∧
   (∀ (c : ConnId) (ctl : Word) (s : State), s.takesWrites 1 = true → s.slots.activating = false → s.cnValid c = false →
     ctl.toNat &&& (rwMask (Reg.pwCn c + 0x10) ^^^ (2 ^ 64 - 1)) = 0 →
     answers (.pwCnValidSet c ctl) s fun t =>
       t.reg (Reg.pwCn c + 0x10) = ctl.toNat ||| 1 ∧ t.cnValid c = true ∧
       (t.conn c).next = 0 ∧ (t.conn c).exp = 0 ∧ (t.conn c).sent = [] ∧ (t.conn c).got = [] ∧
       (∀ c', c' ≠ c.val → t.conn c' = s.conn c') ∧ (∀ b, b ≠ Reg.pwCn c + 0x10 → t.reg b = s.reg b) ∧
       s.changes t [.regs, .peer])) ∧
  ((∀ (ch : ChanId) (addr : DevAddr) (s : State), s.takesWrites 1 = true → s.slots.activating = false → ch.val < 28 →
     (s.cfg.chan ch).porterOwned = false → addr.toNat % 64 = 0 →
     ((s.chan ch).heads.length < 4 → answers (.mvChHead ch addr) s fun t =>
       (t.chan ch).code = 0 ∧ (t.chan ch).fault = none ∧
       ((s.chan ch).st = .idle → (s.chan ch).heads = [] →
         (t.chan ch).st = .running ∧ (t.chan ch).list = some addr.toNat ∧ (t.chan ch).heads = []) ∧
       ((s.chan ch).st ≠ .idle → (t.chan ch).heads = (s.chan ch).heads ++ [⟨addr.toNat, none, none⟩]) ∧
       (∀ c, c ≠ ch.val → t.chan c = s.chan c) ∧ s.changes t [.mov]) ∧
     (4 ≤ (s.chan ch).heads.length → answers (.mvChHead ch addr) s fun t =>
       (∀ c, c ≠ ch.val → t.chan c = s.chan c) ∧ s.changes t [.fresh, .mov])) ∧
   (∀ (ch : ChanId) (s : State), s.takesWrites 1 = true → s.slots.activating = false → ch.val < 28 →
     (s.cfg.chan ch).porterOwned = false →
     ((s.chan ch).st ≠ .idle → answers (.mvChAbort ch) s fun t =>
       (t.chan ch).st = .stopping ∧ (t.chan ch).heads = [] ∧
       (t.chan ch).stop = some ((s.chan ch).stop.getD 2)) ∧
     ((s.chan ch).st = .idle → exec (.mvChAbort ch) s = .next s)) ∧
   (∀ (ch : ChanId) (s : State), s.targetOn = true → (s.chan ch).st = .stopping → s.stopQuiet ch = true →
     s.hostHas (fun o => o.reads ch) = false → (s.chan ch).user = none → (s.chan ch).gone = [] →
     answers (.channelStopped ch) s fun t =>
       (t.chan ch).code = (s.chan ch).stop.getD 2 ∧ bitOf (t.noticeBits Reg.mvNotice) ch = true ∧
       ((s.chan ch).heads = [] → (t.chan ch).st = .idle) ∧
       ((s.chan ch).heads ≠ [] → (t.chan ch).st = .running ∧ (t.chan ch).heads = (s.chan ch).heads.tail) ∧
       (∀ c, c ≠ ch.val → t.chan c = s.chan c) ∧ s.changes t [.fresh, .notices, .mov, .obs]))

/-- The life of an Inventory (R447, R448, R451, R453). Tally packets (R446). That a packet's write and its acknowledgement
are one step is the model's choice (log entry 26), and so is what a host error of OB_SNAP_TRIG during an activation
reaches (R8, log entry 7). Whether a trigger stands together with one that latches is open (log entry 56). -/
def Obligations.InventoryAndTally : Prop :=
  ((∀ s : State, s.takesWrites 1 = true → s.slots.activating = false → s.obs.snap.st = .idle → s.cfg.observe.snapBase ≠ 0 →
     answers (.fire false) s fun t =>
       t.obs.snap.st = .latching ∧ t.obs.snap.seq = (s.obs.snap.seq + 1) % 2 ^ 32 ∧ t.obs.snap.source = 1 ∧
       ∀ n < 16, n ∈ t.obs.snap.waiting ↔ (s.link n).up = true) ∧
   (∀ s : State, s.takesWrites 1 = true → s.slots.activating = false →
     let missed (t : State) : Prop := t.obs.snap = s.obs.snap ∧ t.counterAt 0x069 = s.counterAt 0x069 + 1 ∧
       bitOf (t.noticeBits Reg.obNotice) 3 = true ∧ s.changes t [.fresh, .notices, .obs]
     (s.obs.snap.st ≠ .idle ∨ s.cfg.observe.snapBase = 0 → s.obs.snap.st ≠ .latching → answers (.fire false) s missed) ∧
     (s.obs.snap.st = .latching → answers (.fire false) s fun t =>
       missed t ∨ (t.obs.snap = { s.obs.snap with source := s.obs.snap.source ||| 1 } ∧ s.changes t [.fresh, .obs]))) ∧
   (∀ s : State, s.takesWrites 1 = true → s.slots.activating = false → s.obs.snap.st = .done →
     answers .snapRelease s fun t => t.obs.snap = { s.obs.snap with st := .idle } ∧ s.changes t [.obs]) ∧
   (∀ s : State, s.takesWrites 1 = true → s.slots.activating = false → s.obs.snap.st ≠ .done →
     exec .snapRelease s = .next s) ∧
   (∀ s : State, s.targetOn = true → s.obs.snap.st = .latching → s.obs.snap.waiting = [] →
     answers .inventorySweep s fun t => t.obs.snap.st = .sweeping ∧ t.obs.snap.writes = []) ∧
   (∀ s : State, s.targetOn = true → s.obs.snap.st = .sweeping → s.obs.snap.unacked = 0 →
     answers .inventoryDone s fun t => t.obs.snap = { s.obs.snap with st := .done } ∧
       bitOf (t.noticeBits Reg.obNotice) 2 = true ∧ s.changes t [.notices, .obs]) ∧
   (∀ (s : State) (r : Bool), s.takesWrites 1 = true → s.slots.activating = true →
     (answers (.fire r) s fun t => s.changes t (Instr.fire r).touches) ∧
     answers .snapRelease s fun t => s.changes t Instr.snapRelease.touches)) ∧
  ((∀ (u : ObsId) (s : State),
     let f := s.fifo u
     s.targetOn = true → s.cfg.observe.sinkBase ≠ 0 → f.pending = [] → f.items ≠ [] →
     (15 ≤ f.items.length ∨ s.cfg.observe.flushUs ≠ 0) → s.sinkRoom = true →
     answers (.tallyPacketForm u) s fun t =>
       (t.fifo u).pending = f.items.take 15 ∧ (t.fifo u).items = f.items.drop 15 ∧ (t.fifo u).plost = f.lost ∧
       (t.fifo u).lost = 0 ∧ (∀ u', u' ≠ u.val → t.fifo u' = s.fifo u') ∧ s.changes t [.obs]) ∧
   (∀ (u : ObsId) (s : State),
     let f := s.fifo u
     let a := s.cfg.observe.sinkBase + 256 * (s.obs.prod % 2 ^ s.cfg.observe.sinkLog2)
     s.targetOn = true → s.cfg.observe.sinkBase ≠ 0 → f.pending ≠ [] → s.inService (s.ownerAgent a) = true →
     s.sinkRoom = true → answers (.tallyPacketWritten u) s fun t =>
       t.obs.prod = (s.obs.prod + 1) % 2 ^ 32 ∧ bitOf (t.noticeBits Reg.obNotice) 0 = true ∧ (t.fifo u).pending = [] ∧
       t.mem = (s.store a (f.packet u)).mem ∧ s.changes t [.notices, .mem, .obs]))

/-- The mailbox commands (R439). A COUNT outside 1 to 64 is a host error of LOG_READ, whose result is open (log entry
2). -/
def Obligations.MailboxCommands : Prop :=
  (∀ s : State, s.takesWrites 1 = true → s.slots.activating = false → s.sk.mbBusy = none → s.skOn = true →
    (let first := fld (s.reg Reg.mbArg) 31 0
     let n := fld (s.reg Reg.mbArg) 38 32
     1 ≤ n → n ≤ 64 → answers .skMbLogRead s fun t =>
      t.sk.mbData = logBytes (s.sk.logFrom first n).1 ∧
      t.sk.mbResult = (if (s.sk.logFrom first n).2 then 3 else 0) ∧ bitOf (t.noticeBits Reg.mbNotice) 0 = true ∧
      s.changes t [.notices, .sk]) ∧
    (answers .skMbSensors s fun t => t.sk.mbData = t.sk.sensorData ∧ t.sk.temps = s.sk.temps ∧ t.sk.mbResult = 0 ∧
      bitOf (t.noticeBits Reg.mbNotice) 0 = true ∧ s.changes t [.fresh, .notices, .sk]) ∧
    (answers .skMbFwInfo s fun t => t.sk.mbData = s.sk.fwInfo ∧ t.sk.mbResult = 0 ∧
      bitOf (t.noticeBits Reg.mbNotice) 0 = true ∧ s.changes t [.notices, .sk]) ∧
    (answers .skMbReports s fun t => t.sk.mbData = (s.sk.reports.take 64).flatMap Report.bytes ∧ t.sk.mbResult = 0 ∧
      bitOf (t.noticeBits Reg.mbNotice) 0 = true ∧ s.changes t [.notices, .sk])) ∧
  (∀ (s : State) (c : Instr), c ∈ [.skMbLogRead, .skMbSensors, .skMbFwInfo, .skMbReports] → s.takesWrites 1 = true →
    s.slots.activating = false →
    (s.sk.mbBusy.isSome = true → answers c s fun t => t.sk = { s.sk with mbResult := 1 } ∧ s.changes t [.sk]) ∧
    (s.sk.mbBusy = none → s.skOn = false → answers c s fun t =>
      ∃ op, t.sk = { s.sk with mbBusy := some (op, s.reg Reg.mbArg) } ∧ s.changes t [.sk]))

/-- The configuration commands begin (R390, R391, R394 to R397). That DISCARD of an empty slot is OK is the model's
choice (log entry 25). -/
def Obligations.ConfigCommandsBegin : Prop :=
  (∀ s : State, s.takesWrites 1 = true → s.cfgBusy = false →
    (s.storeHome = true → spaceOf (s.regFld Reg.cfStageAddr 51 0) = 3 → s.regFld Reg.cfStageAddr 51 0 % 64 = 0 →
      answers .stage s fun t => t.slots = { s.slots with
        stagedSt := .loading, staged := [], cmd := some ⟨1, false, 0, false⟩ } ∧ s.changes t [.slots]) ∧
    (answers .discard s fun t => t.slots = { s.slots with
        stagedSt := .empty, staged := [], lastStatus := 0, lastOp := 5 } ∧ bitOf (t.noticeBits Reg.cfNotice) 0 = true ∧
        s.changes t [.notices, .slots]) ∧
    (∀ c ∈ [Instr.activate, .rollback, .activateDigest],
      (c = .activate → s.slots.stagedSt = .ready) → (c = .rollback → s.slots.attic.isSome = true) →
      (c = .activateDigest → (s.slots.current.map fun b => slice b 80 48) = some s.reqDigest) →
      answers c s fun t => t.slots.activating = true ∧ (∀ r < 64, t.ringEn r = false ∧ (t.ring r).fetched = []) ∧
        t.slots.current = s.slots.current ∧ t.slots.attic = s.slots.attic ∧ t.slots.staged = s.slots.staged ∧
        t.disp.works = s.disp.works ∧ s.changes t [.regs, .notices, .slots, .disp, .mov, .hi]) ∧
    (s.slots.current.isSome = true → answers .teardown s fun t =>
      t.slots = { s.slots with cmd := some ⟨6, false, 3, false⟩, activating := false } ∧
      (∀ r < 64, t.ringEn r = false ∧ (t.ring r).fetched = [])) ∧
    (∀ (c : Instr) (op st : Nat), (c, op, st) ∈ [(Instr.activate, 2, 2), (.rollback, 3, 2), (.activateDigest, 4, 10), (.teardown, 6, 2)] →
      s.slots.stagedSt = .empty → s.slots.attic = none → s.slots.current = none →
      answers c s fun t => t.slots = { s.slots with lastStatus := st, lastOp := op } ∧ s.changes t [.notices, .slots])) ∧
  (∀ (s : State) (c : Instr) (op : Nat),
    (c, op) ∈ [(Instr.stage, 1), (.activate, 2), (.rollback, 3), (.activateDigest, 4), (.discard, 5), (.teardown, 6)] →
    s.takesWrites 1 = true → s.cfgBusy = true →
    answers c s fun t => t.slots = { s.slots with lastStatus := 1, lastOp := op } ∧
      bitOf (t.noticeBits Reg.cfNotice) 0 = true ∧ s.changes t [.notices, .slots])

/-- How the configuration commands end (R388 to R391, R396), where no host error has left an action for the end of the
activation (log entry 7). The log mirror of an image is no part of the scrub. -/
def Obligations.ConfigCommandsEnd : Prop :=
  (∀ (s : State) (img : Bytes) (m : Bool) (n : Nat) (l : Bool), s.slots.cmd = some ⟨1, m, n, l⟩ → s.skOn = true →
    s.targetOn = true → (s.chan 28).st = .idle → (s.chan 31).st = .idle →
    (answers (.stageReadDone (.image img)) s fun t => t.slots.staged = img ∧ t.slots.cmd = none ∧
      t.slots.stagedSt = (if s.sk.imageStatus img = 0 then .ready else .bad) ∧
      t.slots.lastStatus = s.sk.imageStatus img ∧ t.slots.lastOp = 1 ∧ t.slots.current = s.slots.current ∧
      t.slots.attic = s.slots.attic) ∧
    (answers (.stageReadDone .noAccess) s fun t => t.slots.stagedSt = .empty ∧ t.slots.cmd = none ∧
      t.slots.lastStatus = 8 ∧ t.slots.current = s.slots.current)) ∧
  (∀ (s : State) (op n : Nat) (m : Bool), s.slots.cmd = some ⟨op, m, n, true⟩ → 2 ≤ op → s.skOn = true →
    s.targetOn = true → s.slots.locks = [] → s.mov.faults = [] → s.slots.later = 0 → s.slots.wild = [] →
    answers .activationDrainEnd s fun t => t.slots.activating = false ∧ t.slots.cmd = none ∧
      t.slots.lastStatus = 0 ∧ t.slots.lastOp = op ∧ t.slots.generation = (s.slots.generation + 1) % 2 ^ 32 ∧
      t.cfg = s.cfg) ∧
  (∀ (s : State) (n : Nat) (m : Bool), s.slots.cmd = some ⟨6, m, n, false⟩ → s.skOn = true → s.targetOn = true →
    s.dropParked.drained = true → s.slots.wild = [] →
    answers .activationDrainEnd s fun t => t.slots.current = none ∧ t.slots.attic = s.slots.current ∧
      t.slots.scrubbing = true ∧ t.slots.lastStatus = 0 ∧ t.slots.lastOp = 6 ∧ t.cfg = Cfg.empty) ∧
  (∀ s : State, s.slots.scrubbing = true → s.targetOn = true → s.cfg.observe.mirrorBase = 0 →
    (∀ r ∈ ((s.slots.attic.map Cfg.ofImage).getD Cfg.empty).scrub, ∀ n ∈ rangeAgents r,
      s.inService (s.ownerOf n) = true) →
    answers .scrubDone s fun t => t.slots = { s.slots with scrubbing := false } ∧
      bitOf (t.noticeBits Reg.cfNotice) 3 = true ∧ ∀ a, spaceOf a = 1 → Memory.byte t.mem a = 0#8)

/-- Management requests over MCTP (R400, R435, R438). That DISCARD of an empty slot ends OK is the model's reading of R390
(log entry 25). -/
def Obligations.ManagementRequests : Prop :=
  ∀ s : State, s.skOn = true →
    (∀ seq : BitVec 32, (∃ r ∈ s.sk.reports, r.seq = seq.toNat) → answers (.reportAck seq) s fun t =>
      t.sk.reports = s.sk.reports.filter (fun r => r.seq != seq.toNat) ∧
      t.sk.out = s.sk.out ++ [.response 0x02 0 []]) ∧
    (answers .reportResend s fun t => t.sk = { s.sk with out := s.sk.out ++ s.sk.reports.map .report } ∧
      s.changes t [.sk]) ∧
    (answers .sensors s fun t => t.sk.out = s.sk.out ++ [.response 0x03 0 t.sk.sensorData] ∧ t.sk.temps = s.sk.temps ∧
      s.changes t [.fresh, .peer, .sk]) ∧
    (answers .fwInfo s fun t => t.sk.out = s.sk.out ++ [.response 0x09 0 s.sk.fwInfo] ∧ s.changes t [.fresh, .peer, .sk]) ∧
    (∀ first n, 1 ≤ n → n ≤ 64 → answers (.logRead first n) s fun t =>
      t.sk.out = s.sk.out ++ [.response 0x04 0 (logBytes (s.sk.logFrom first n).1)] ∧ s.changes t [.fresh, .peer, .sk]) ∧
    (∀ first n, 1 ≤ n → n ≤ 496 → first + n ≤ 4096 → answers (.counters first n) s fun t =>
      t.sk.out = s.sk.out ++ [.response 0x05 0 ((List.range n).flatMap fun i =>
        leBytes 8 (s.counter (first + i)).toNat)] ∧ s.changes t [.fresh, .peer, .sk]) ∧
    (s.targetOn = true → s.obs.snap.st = .idle → s.cfg.observe.snapBase ≠ 0 → answers .snapshot s fun t =>
      t.obs.snap.seq = (s.obs.snap.seq + 1) % 2 ^ 32 ∧ t.obs.snap.st = .latching ∧ t.obs.snap.source = 2 ∧
      t.sk.out = s.sk.out ++ [.response 0x07 0 (leBytes 4 ((s.obs.snap.seq + 1) % 2 ^ 32))]) ∧
    (∀ body : Bytes, body.length = 200 → leAt body 0 1 = 1 → leAt body 1 1 < 4 → s.sk.hmac.length = 4 →
      answers (.keySet body true) s fun t =>
        t.sk.hmac[leAt body 1 1]? = some (some (slice body 8 32, 0)) ∧
        (∀ i, i ≠ leAt body 1 1 → t.sk.hmac[i]? = s.sk.hmac[i]?) ∧ t.sk.signing = s.sk.signing ∧
        t.sk.out = s.sk.out ++ [.response 0x08 0 []]) ∧
    (∀ body : Bytes, body.length = 200 → leAt body 0 1 = 0 → leAt body 1 1 < 4 → s.sk.signing.length = 4 →
      s.sk.signing[leAt body 1 1]? = some none → answers (.keySet body true) s fun t =>
        t.sk.signing[leAt body 1 1]? = some (some (slice body 8 96)) ∧
        (∀ i, i ≠ leAt body 1 1 → t.sk.signing[i]? = s.sk.signing[i]?) ∧ t.sk.hmac = s.sk.hmac) ∧
    (∀ digest : Bytes, s.targetOn = true → s.cfgBusy = false → answers (.config 5 digest) s fun t =>
      t.slots = { s.slots with stagedSt := .empty, staged := [], lastStatus := 0, lastOp := 5 } ∧
      t.sk.out = s.sk.out ++ [.response 0x06 0 []]) ∧
    (∀ digest : Bytes, s.targetOn = true → s.cfgBusy = false → s.slots.stagedSt = .ready →
      answers (.config 2 digest) s fun t => t.slots = { s.slots with
        cmd := some ⟨2, true, 1, false⟩, activating := true } ∧ t.sk = s.sk)

/-- PLDM for Firmware Update (R436, R437). Command codes are of DMTF DSP0267 (PRESUMED, log entry 28); how much the
Storekeeper asks for at once is the model's open value (log entry 66). -/
def Obligations.FirmwareUpdates : Prop :=
  ∀ s : State, s.skOn = true →
    (s.sk.update.openFlag = false → answers .requestUpdate s fun t => t.sk.update.openFlag = true ∧
      t.sk.update.cur = none ∧ t.sk.out = s.sk.out ++ [.pldm 0x10 0 []] ∧ s.changes t [.sk]) ∧
    (∀ ids, s.sk.update.openFlag = true → (∀ i ∈ ids, i = 1 ∨ i = 2) → answers (.passComponentTable ids) s fun t =>
      t.sk.update = { s.sk.update with components := ids } ∧ s.changes t [.sk]) ∧
    (∀ size, s.sk.update.openFlag = true → 1 ∈ s.sk.update.components → s.sk.update.cur = none → size ≤ 2 ^ 23 →
      answers (.updateComponent 1 size) s fun t =>
        t.sk.update = { s.sk.update with cur := some (1, size), data := [] } ∧ s.changes t [.fresh, .sk] ∧
        (size = 0 → t.sk.out = s.sk.out ++ [.pldm 0x14 0 []]) ∧
        (size ≠ 0 → ∃ n, 1 ≤ n ∧ n ≤ size ∧
          t.sk.out = s.sk.out ++ [.pldm 0x14 0 [], .pldm 0x15 0 (leBytes 4 0 ++ leBytes 4 n)])) ∧
    (∀ size, s.sk.update.openFlag = true → 2 ∈ s.sk.update.components → s.sk.update.cur = none → size ≤ 2 ^ 26 →
      s.targetOn = true → s.storeHome = true → s.cfgBusy = false → answers (.updateComponent 2 size) s fun t =>
        t.sk.update.cur = some (2, size) ∧ t.slots = { s.slots with stagedSt := .loading, staged := [] }) ∧
    (∀ (size off : Nat) (data : Bytes) (signer : BitVec 2) (svn : BitVec 32) (ok : Bool),
      s.sk.update.cur = some (1, size) → off = s.sk.update.data.length →
      (off + data.length < size → answers (.requestFirmwareData off data signer svn ok) s fun t =>
        t.sk.update = { s.sk.update with data := s.sk.update.data ++ data } ∧ s.changes t [.fresh, .sk] ∧
        ∃ n, 1 ≤ n ∧ off + data.length + n ≤ size ∧
          t.sk.out = s.sk.out ++ [.pldm 0x15 0 (leBytes 4 (off + data.length) ++ leBytes 4 n)]) ∧
      (size ≤ off + data.length → answers (.requestFirmwareData off data signer svn ok) s fun t =>
        t.sk.update.cur = none ∧ t.sk.update.verified = (ok && (s.sk.signKey signer.toNat).isSome &&
          decide (s.sk.minSvn ≤ svn.toNat)) ∧ t.sk.svn (1 - s.sk.active) = svn.toNat ∧ t.sk.active = s.sk.active)) ∧
    (s.sk.update.openFlag = true → s.sk.update.verified = true → s.sk.update.cur = none →
      s.sk.copyOk (1 - s.sk.active) = true → answers .activateFirmware s fun t => t.sk.active = 1 - s.sk.active ∧ t.sk.fresh = some s.sk.active ∧
        t.sk.update.openFlag = false) ∧
    (∀ old, s.sk.fresh = some old → s.sk.copyOk old = true → answers .fwStartTimeout s fun t => t.sk.active = old ∧ t.sk.fresh = none) ∧
    (s.sk.update.openFlag = true → answers .cancelUpdate s fun t => t.sk.update.openFlag = false ∧ t.sk.update.cur = none ∧
      (s.imageTransfer = true → t.slots.stagedSt = .empty) ∧ (s.imageTransfer = false → t.slots = s.slots)) ∧
    (answers .getStatus s fun t => t.sk = { s.sk with out := s.sk.out ++ [.pldm 0x1B 0 (leBytes 1 s.sk.update.code)] } ∧
      s.changes t [.sk]) ∧
    (answers .queryDeviceIdentifiers s fun t => (∃ b, t.sk = { s.sk with out := s.sk.out ++ [.pldm 0x01 0 b] }) ∧
      s.changes t [.fresh, .sk]) ∧
    (answers .getFirmwareParameters s fun t =>
      t.sk = { s.sk with out := s.sk.out ++ [.pldm 0x02 0 (s.sk.fwInfo.take 16)] } ∧ s.changes t [.sk])

/-- The next fetched descriptor of ring r is b of some slot, and its turn has come (R72, R73). -/
def Sys2Proof.Machine.State.turn (s : State) (r slot : Nat) (b : Bytes) (rest : List (Nat × DescSt)) : Prop :=
  s.dispatching = true ∧ (s.ring r).fetched = (slot, .bytes b) :: rest ∧ s.admissible r = true ∧ s.admitPick = some r

/-- What the admission of a task gives: one new piece of work, and the descriptor leaves its ring's list. -/
def Sys2Proof.Machine.State.admitted (s t : State) (r slot : Nat) (b : Bytes) (rest : List (Nat × DescSt)) : Prop :=
  let d := TaskDesc.ofBytes b
  (∃ k, t.work s.disp.nextWork = some k ∧ k.src = .ring r slot ∧ k.cls = d.cls ∧ k.domain = s.cfg.ringDomain r ∧
    k.desc = d ∧ k.epoch = s.host.epoch) ∧
  t.disp.nextWork = s.disp.nextWork + 1 ∧ (t.ring r).fetched = rest ∧ t.disp.nextRing.get 0 d.cls = (r + 1) % 64

/-- The kind of a command of admission: the descriptors that it takes, and those that its rules call malformed. -/
def Sys2Proof.Machine.admitRow (s : State) (r : RingId) : List (Instr × (TaskDesc → Bool) × (TaskDesc → Bool)) :=
  [(.gather r, fun d => d.kind == some .gather, s.badGatherTask),
   (.scatter r, fun d => d.kind == some .scatter && s.freeScatter.isSome, s.badScatter),
   (.scoreCandidate r, fun d => d.isScore 0, s.badCandidate),
   (.interact r, fun d => d.isScore 1, fun d => d.badArray d.score.outputs || (d.score.f == 1 && !d.score.self)),
   (.project r, fun d => d.isScore 2, s.cfg.badProject),
   (.qload r, fun d => d.isScore 3, TaskDesc.badQload),
   (.fence r, fun d => d.kind == some .fence, fun _ => false),
   (.porter r, fun d => d.kind == some .porter, fun d => d.porterMask == 0 || d.param0 / 2 ^ 20 != 0)]

/-- Admission (R69 to R73) of every kind of task. That the task of a malformed descriptor, a host error of R8, has ended is
the model's choice (log entry 7). -/
def Obligations.TaskAdmission : Prop :=
  (∀ (r : RingId) (s : State) (slot : Nat) (b : Bytes) (rest : List (Nat × DescSt)), s.turn r slot b rest →
    ∀ e ∈ admitRow s r, e.2.1 (TaskDesc.ofBytes b) = true →
      ((TaskDesc.ofBytes b).cls ≠ 0 → e.2.2 (TaskDesc.ofBytes b) = false → reservedTask b = false →
        answers e.1 s fun t => s.admitted t r slot b rest) ∧
      (((TaskDesc.ofBytes b).cls = 0 ∨ e.2.2 (TaskDesc.ofBytes b) = true ∨ reservedTask b = true) →
        answers e.1 s fun t =>
          (∃ k, t.work s.disp.nextWork = some k ∧ k.src = .ring r slot ∧ k.ended = true) ∧
          t.disp.nextWork = s.disp.nextWork + 1 ∧ (t.ring r).fetched = rest)) ∧
  (∀ (r : RingId) (s : State) (slot i : Nat) (b : Bytes) (rest : List (Nat × DescSt)) (td : TableDesc),
    let d := TaskDesc.ofBytes b
    s.turn r slot b rest → d.kind = some .scatter → d.cls ≠ 0 → s.badScatter d = false → reservedTask b = false →
    s.freeScatter = some i → s.cfg.table d.table = some td → s.mayUpdate (s.cfg.ringDomain r) td = true →
    answers (.scatter r) s fun t => t.scatter i = some (Scatter.init s.disp.nextWork))

/-- MAILBOX_PLACE (R347) and PORTER_PROGRAM_START (R349). -/
def Obligations.PorterMailboxes : Prop :=
  (∀ (m : PorterId) (w : WorkId) (k : Work) (s : State), s.work w = some k → s.targetOn = true → k.ended = false →
    k.parked = [] → bitOf k.mailbox m = true → (s.mailOf m).length < 4 → (s.porter (s.runner m)).retired = false →
    answers (.mailboxPlace m w) s fun t =>
      (∃ e, (t.porter (s.runner m)).mail = (s.porter (s.runner m)).mail ++ [e] ∧ e.work = w ∧ e.porter = m.val) ∧
      (∃ k', t.work w = some k' ∧ k'.mailbox = k.mailbox - 2 ^ m.val ∧ k'.src = k.src) ∧
      (∀ n, n ≠ s.runner m → t.porter n = s.porter n) ∧ s.changes t [.disp, .porters]) ∧
  (∀ (m : PorterId) (e : Mail) (rest : List Mail) (k : Work) (s : State), (s.porter m).mail = e :: rest →
    s.work e.work = some k → s.targetOn = true → (s.porter m).st = .idle → (s.porter m).retired = false →
    k.ended = false → k.parked = [] → s.cfg.entry (s.programOf k e) ≠ 0xFFFFFFFF →
    answers (.porterProgramStart m) s fun t =>
      let p := t.porter m
      p.st = .running ∧ p.pc = s.cfg.entry (s.programOf k e) ∧ p.mail = e :: rest ∧ p.cur = some e ∧
      p.g = (if e.share.isSome then 0x8000000000100000 else k.desc.param1) :: e.porter :: List.replicate 29 0 ∧
      p.cacheEn = true ∧ p.lines = [] ∧ p.tickets = List.replicate 16 .free ∧ p.localMem = (s.porter m).localMem ∧
      (∀ n, n ≠ m.val → t.porter n = s.porter n) ∧ s.changes t [.fresh, .porters, .obs])

/-- The end of work (R96, R105, R147, R278). -/
def Obligations.TasksComplete : Prop :=
  (∀ (w : WorkId) (k : Work) (r slot : Nat) (s : State),
    let a := s.cqAddr r + 32 * ((s.ring r).cpl % s.ringSize r)
    s.work w = some k → k.src = .ring r slot → k.desc.isScore 3 = false → s.targetOn = true → k.parked = [] →
    k.dead = false → k.recordLost = false → s.quiet w k = true → (k.ended = true ∨ s.finished w k = true) →
    posDiff (s.ring r).cpl (s.ring r).cons < s.ringSize r → (spaceOf a = 0 ∨ spaceOf a = 1) →
    s.allows (s.cfg.ringDomain r) a 32 2 = true → r < 64 →
    answers (.completionRecordWrite w) s fun t =>
      t.work w = none ∧ (t.ring r).cpl = ((s.ring r).cpl + 1) % 2 ^ 32 ∧ (t.ring r).cons = (s.ring r).cons ∧
      (t.ring r).prod = (s.ring r).prod ∧ bitOf (t.noticeBits Reg.rgNotice) r = true ∧
      (∀ r', r' ≠ r → t.ring r' = s.ring r') ∧
      (spaceOf a = 1 → t.mem = (s.store a (recordBytes k.desc.tag (s.counts w k) k.status r slot s.host.epoch k.desc.fence
        (((s.ring r).cpl / s.ringSize r + 1) % 2 == 1))).mem)) ∧
  (∀ (w : WorkId) (k : Work) (st : Stats) (b : Bytes) (rs : List (Nat × Nat)) (s s1 : State),
    s.running w = some k → k.stats = some st → k.statsDone = false → k.bagsDone = true → k.unissued = 0 →
    s.scales w k.desc st.chans.length = (.bytes b, rs, s1) → rs.any badRange = false → s1.work w = some k →
    answers (.statisticsWrite w) s fun t => ∃ k', t.work w = some k' ∧ k'.statsDone = true) ∧
  (∀ (w : WorkId) (k : Work) (d : Doorbell) (s : State), s.work w = some k → k.doorbell = some d → s.targetOn = true →
    k.parked = [] → k.dead = false → k.ended = false → k.answer.isSome = true → k.dataOut = true →
    answers (.class0TrailerWrite w) s fun t =>
      let a := d.result + roundUp (s.class0Size k) 16
      let (flags, pooled) := if k.status = 0 then k.answer.getD (0, 0) else (0, 0)
      t.work w = none ∧
      (spaceOf a = 1 → a + 16 ≤ 2 ^ 52 → s.allows k.domain a 16 2 = true →
        t.mem = (s.store a (trailerBytes d.tag k.status flags pooled s.host.epoch)).mem))

/-- DESCRIPTOR_FETCH (R71) of a ring whose slots lie in the Store Room or the Larder. TOKEN_REFILL (R384) and
OVERFLOW_RELEASE (R108). -/
def Obligations.DescriptorsAndTokens : Prop :=
  (∀ (r : RingId) (s : State),
     let g := s.ring r
     let n := min 16 (posDiff g.prod g.fetch)
     let pos (i : Nat) := (g.fetch + i) % 2 ^ 32
     s.targetOn = true → s.quiescing = false → s.ringEn r = true → g.fetched = [] → n ≠ 0 →
     (∀ i < n, spaceOf (s.slotAddr r (pos i)) < 2 ∧ s.reach (s.slotAddr r (pos i)) 128 = true) →
     answers (.descriptorFetch r) s fun t =>
       t.ring r = { g with
         fetch := pos n
         fetched := (List.range n).map fun i => (pos i % s.ringSize r,
           if s.allows (s.cfg.ringDomain r) (s.slotAddr r (pos i)) 128 1 then .bytes (s.load (s.slotAddr r (pos i)) 128)
           else .unreadable) } ∧
       (∀ r', r' ≠ r.val → t.ring r' = s.ring r') ∧ t.disp.works = s.disp.works ∧ s.changes t [.disp]) ∧
  ((∀ (i : RingId) (res : StreamRec) (s : State), s.targetOn = true → s.cfg.reserve.streams[i.val]? = some res →
     answers (.tokenRefill i) s fun t =>
       t.disp.tokens.get 0 i.val = min res.burst (s.disp.tokens.get 0 i.val + 1) ∧
       (∀ j, j ≠ i.val → t.disp.tokens.get 0 j = s.disp.tokens.get 0 j) ∧ t.disp.works = s.disp.works ∧
       s.changes t [.disp]) ∧
   (∀ (i : RingId) (s : State), s.targetOn = true →
     exec (.overflowRelease i) s = .next ((s.overflowLeave i).resumeTarget s.host.waiting.length)) ∧
   (∀ (i : RingId) (w page : Nat) (k : Work) (pre post : List Nat) (s : State), s.targetOn = true →
     s.disp.tokens.get 0 i.val ≠ 0 → s.disp.overflow = pre ++ w :: post → w ∉ pre → s.work w = some k →
     k.src = .class0 page i.val →
     (∀ v ∈ pre, ∀ k', s.work v = some k' → ∀ p, k'.src ≠ .class0 p i.val) →
     let u := s.overflowLeave i
     (s.host.waiting = [] → answers (.overflowRelease i) s fun t => t = u) ∧
     (∀ c, s.host.waiting = [c] → u.targetFull = false → answers (.overflowRelease i) s fun t =>
       t = { u with pwr := { u.pwr with wcred := u.pwr.wcred + targetBeats c }, host := { u.host with waiting := [] }
           }.runTarget c) ∧
     u.disp.overflow = pre ++ post ∧ u.disp.tokens.get 0 i.val = s.disp.tokens.get 0 i.val - 1 ∧
     u.disp.works = s.disp.works ∧ s.changes u [.disp]))

/-- A share of a piece of work. -/
def Sys2Proof.Machine.State.shareAt (s : State) (w i : Nat) : Option Share := (s.work w).bind fun k => k.shares[i]?

/-- Work w runs the program of its share number i, which is sh, and x is its next instruction (R84). -/
def Sys2Proof.Machine.State.atInstr (s : State) (w i : Nat) (sh : Share) (x : Nat) : Prop :=
  (s.running w).bind Work.programShare = some (i, sh) ∧ ∃ p, s.program sh = some p ∧ x = p.getD sh.stream.pc 0

/-- A command of a stream program leaves share number i of work w as sh, and nothing else changes. -/
def Sys2Proof.Machine.State.leavesShare (s : State) (w i : Nat) (c : Instr) (sh : Share) : Prop :=
  answers c s fun t => t.shareAt w i = some sh ∧ (∀ v, v ≠ w → t.work v = s.work v) ∧ s.changes t [.disp]

/-- END, SETA, ADDA, LOOP and NEXT (R84 to R87). IDX, WGT, LEN and BAG (R82 to R87). That the work of a program that breaks
a rule has ended is the model's choice in R8 (log entry 7). -/
def Obligations.StreamProgram : Prop :=
  ((∀ (w : WorkId) (i : Nat) (sh : Share) (x : Nat) (s : State), s.atInstr w i sh x →
     let u := sh.stream
     let ra := fld x 27 26
     let moved : Int := (u.a.getD ra 0 : Int) + sext 20 (fld x 19 0)
     let lv := fld x 25 24
     (fld x 31 28 = 0 → s.leavesShare w i (.endProg w) sh.finish) ∧
     (∀ v, fld x 31 28 = 1 → sh.source (fld x 3 0) = some v →
       s.leavesShare w i (.seta w) (Share.advance { sh with stream := { u with a := u.a.set ra (v % 2 ^ 52) } })) ∧
     (fld x 31 28 = 1 → 9 ≤ fld x 3 0 → s.spoils w (.seta w)) ∧
     (fld x 31 28 = 2 → 0 ≤ moved → moved < 2 ^ 52 →
       s.leavesShare w i (.adda w) (Share.advance { sh with stream := { u with a := u.a.set ra moved.toNat } })) ∧
     (fld x 31 28 = 2 → moved < 0 ∨ 2 ^ 52 ≤ moved → s.spoils w (.adda w)) ∧
     (∀ c body rest, fld x 31 28 = 4 → u.loops = (lv, c, body) :: rest →
       (c ≤ 1 → s.leavesShare w i (.next w) (Share.advance { sh with stream := { u with loops := rest } })) ∧
       (1 < c → body < 16 →
         s.leavesShare w i (.next w) { sh with stream := { u with loops := (lv, c - 1, body) :: rest, pc := body } })) ∧
     (fld x 31 28 = 4 → (∀ c body rest, u.loops ≠ (lv, c, body) :: rest) →
       s.spoils w (.next w)) ∧
     (∀ p n c, fld x 31 28 = 3 → s.program sh = some p → lv ≠ 3 → (∀ l ∈ u.loops, l.1 ≠ lv) →
       matchNext p u.pc lv = some n →
       (if bitOf x 23 then (sh.source (fld x 3 0)).map (· % 2 ^ 32) else some (fld x 22 0)) = some c →
       (c = 0 → s.leavesShare w i (.loop w) (sh.goto (n + 1))) ∧
       (c ≠ 0 → s.leavesShare w i (.loop w)
         (Share.advance { sh with stream := { u with loops := (lv, c, u.pc + 1) :: u.loops } }))) ∧
     (fld x 31 28 = 3 → lv = 3 ∨ (∃ l ∈ u.loops, l.1 = lv) → s.spoils w (.loop w)) ∧
     (9 ≤ fld x 31 28 → s.spoils w (.endProg w))) ∧
   (∀ sh : Share,
     (sh.stream.pc < 15 → sh.advance = { sh with stream := { sh.stream with pc := sh.stream.pc + 1 } }) ∧
     (15 ≤ sh.stream.pc → sh.advance = Share.finish { sh with stream := { sh.stream with pc := sh.stream.pc + 1 } }) ∧
     sh.finish.stream.ended = true ∧ sh.finish.emits = sh.emits ∧
     (sh.emits.length = sh.stream.start → sh.finish.closed = sh.closed) ∧
     (sh.stream.start < sh.emits.length →
       sh.finish.closed = sh.closed ++ [⟨sh.stream.start, sh.emits.length - sh.stream.start, true⟩]))) ∧
  (∀ (w : WorkId) (i : Nat) (sh : Share) (x : Nat) (s : State), s.atInstr w i sh x →
     let u := sh.stream
     let ra := fld x 27 26
     let at_ := u.a.getD ra 0
     let moved : Int := (at_ : Int) + sext 20 (fld x 19 0)
     let a' := u.a.set ra moved.toNat
     (fld x 31 28 = 5 → sh.desc.indexCount ≤ sh.emits.length → s.leavesShare w i (.idx w) sh.finish) ∧
     (fld x 31 28 = 5 → sh.emits.length < sh.desc.indexCount →
       0xFFFFFF ≤ sh.emits.length - u.start ∨ moved < 0 ∨ 2 ^ 52 ≤ moved → s.spoils w (.idx w)) ∧
     (fld x 31 28 = 5 → sh.emits.length < sh.desc.indexCount → sh.emits.length - u.start < 0xFFFFFF →
       0 ≤ moved → moved < 2 ^ 52 →
       s.leavesShare w i (.idx w) (Share.advance { sh with
         emits := sh.emits ++ [⟨at_, none⟩], stream := { u with a := a', canWgt := true } })) ∧
     (∀ es e, fld x 31 28 = 6 → u.canWgt = true → sh.emits = es ++ [e] → 0 ≤ moved → moved < 2 ^ 52 →
       s.leavesShare w i (.wgt w) (Share.advance { sh with
         emits := es ++ [{ e with wgt := some at_ }], stream := { u with a := a', canWgt := false } })) ∧
     (fld x 31 28 = 6 → u.canWgt = false → s.spoils w (.wgt w)) ∧
     (∀ k, fld x 31 28 = 7 → s.work w = some k → 2 ^ 52 < at_ + 4 ∨ (spaceOf at_ ≤ 1 ∧ s.allows k.domain at_ 4 1 = false) →
       s.violates w (.len w)) ∧
     (∀ k, fld x 31 28 = 7 → s.work w = some k → spaceOf at_ ≤ 1 → s.reach at_ 4 = true → at_ + 4 ≤ 2 ^ 52 →
       s.lostStack at_ 4 = none →
       s.allows k.domain at_ 4 1 = true → 0 ≤ moved → moved < 2 ^ 52 →
       let v := leNat (s.load at_ 4)
       (bitOf x 23 = false → s.leavesShare w i (.len w) (Share.advance { sh with stream := { u with a := a', len := v } })) ∧
       (bitOf x 23 = true → s.leavesShare w i (.len w) (Share.advance { sh with stream := { u with
         a := a', len := (v + 2 ^ 32 - u.prev) % 2 ^ 32, prev := v } }))) ∧
     (fld x 31 28 = 8 →
       let bags := sh.closed ++ [⟨u.start, sh.emits.length - u.start, false⟩]
       let u' := { u with start := sh.emits.length, canWgt := false }
       (bags.length = sh.count →
         s.leavesShare w i (.bag w) { sh with closed := bags, stream := { u' with ended := true } }) ∧
       (bags.length ≠ sh.count → s.leavesShare w i (.bag w) (Share.advance { sh with closed := bags, stream := u' }))))

/-- Position i of a bag can be taken: its range is known, no engine has it, its turn has come (R54, R194) and the bag
of a linked operation has its SPACE (R172). -/
def Sys2Proof.Machine.State.canTake (s : State) (w bag i : Nat) (g : BagRef) : Prop :=
  let p := g.r.start + i
  let b := g.k.bags.get default bag
  s.bagRef w bag = some (some g, s) ∧ s.work w = some g.k ∧ i < g.r.len ∧ b.committed = false ∧ g.sh.hasPos p = true ∧
  (∀ t ∈ b.taken, t.pos ≠ posId g.i p) ∧ (g.k.desc.inOrder = true → b.taken.length = i) ∧
  (g.k.desc.kind = some .scatter → s.mayIssue w (posId g.i p) = true ∧ s.earlierTaken w bag = true) ∧
  (g.k.link.isSome = true → b.space = true)

/-- The index of a position is x and its weight wt, both read. -/
def Sys2Proof.Machine.State.indexRead (s : State) (w p : Nat) (g : BagRef) (x : Nat) (wt : Option Weight) : Prop :=
  (∃ ib, s.readIndex w g.sh p = (.bytes ib, s) ∧ x = leNat ib) ∧
  let weighted := (g.k.desc.kind = some .gather ∨ (g.k.desc.kind = some .scatter ∧ g.k.desc.upd.perBag = true)) ∧
    g.k.desc.pool = .wsum
  (weighted ∨ (g.sh.desc.bagMode = 3 ∧ (g.sh.emits.getD p default).wgt.isSome = true) →
    ∃ wb, s.readWeight w g.sh p = (.bytes wb, s) ∧ (weighted → wt = weightOf g.sh.desc.wfmt wb)) ∧
  (¬ weighted → wt = none)

/-- ROW_FETCH_ISSUE (R54, R61, R80, R97, R214) of tasks that fetch rows. -/
def Obligations.RowFetchIssue : Prop :=
  ∀ (w : WorkId) (bag i pos x : Nat) (g : BagRef) (wt : Option Weight) (s : State),
    let p := g.r.start + i
    let b := g.k.bags.get default bag
    let res := s.cfg.resolve g.td x
    let steer := s.steering g b
    s.canTake w bag i g → s.indexRead w p g x wt → s.routeIndex g steer x = some pos →
    (s.engine pos).lost = false → (s.engine pos).moving = false → (g.k.cls ≠ 0 → s.class0At pos = false) →
    (res = .invalid ∨ res = .missing →
      answers (.rowFetchIssue w bag i) s fun t =>
        (t.bagOf w bag).taken = b.taken ++ [⟨posId g.i p, x, pos, res, none⟩] ∧ (t.bagOf w bag).steer = steer ∧
          t.engine pos = s.engine pos) ∧
    (∀ tb row a n gr, res = .rows [(tb, row, a)] →
      (g.k.desc.kind = some .gather ∧ g.k.desc.pool = .concat →
        (b.taken.countP fun t => t.res.survives) < g.sh.desc.concatN) →
      (if g.k.desc.kind = some .scatter then
        g.td.readsRows = true ∧ ∃ bs, s.gradientOf w g.sh g.td g.lb g.r i wt = (.bytes bs, gr, s)
      else gr = none) →
      let td := (s.cfg.table tb).getD default
      let ag := s.ownerAgent
      (spaceOf a = 0 → s.allows g.k.domain a td.rowBytes 1 = true ∧
        (g.k.desc.kind = some .scatter → (s.agent (ag a)).noContents = false)) →
      (s.engine pos).freeSlot g.k.cls s.cfg.reserve.fetch = some n → s.freeSlots pos g.k.cls ≠ 0 → pos < 48 →
      (s.engine pos).epoch < 256 →
      let place := s.placeOf w g.k.domain pos td a
      (match place with
        | .agent c | .frame _ c => (s.link (ag c)).st ≠ .down ∧ (s.agent (ag c)).noContents = false
        | .cold => s.coldRoom g.k.cls 1 = true
        | _ => True) →
      answers (.rowFetchIssue w bag i) s fun t =>
        (t.bagOf w bag).taken = b.taken ++ [⟨posId g.i p, x, pos, res, gr⟩] ∧
        (∃ k', t.work w = some k' ∧ k'.tally.indices =
          if b.taken.length + 1 ≤ b.peak then g.k.tally.indices else satAdd 0xFFFFFFFF g.k.tally.indices 1) ∧
        let tag := fetchTag n pos (s.engine pos).epoch
        let rd (c fill : Nat) : Msg := mkMsg 0x01 (vcOf g.k.cls) g.k.cls fill td.rowBytes tag c
        let queued (c fill : Nat) : Prop :=
          (t.link (ag c)).out.queue = (s.link (ag c)).out.queue ++ [⟨rd c fill, .none⟩]
        ∃ f, (s.engine pos).slots.get none n = none ∧ (t.engine pos).slots.get none n = some f ∧ f.work = w ∧
          f.bag = bag ∧ f.pos = posId g.i p ∧ f.table = tb ∧ f.row = row ∧ f.addr = a ∧ f.weight = wt ∧
          f.epoch = (s.engine pos).epoch ∧
          match place with
          | .reuse d | .placed d | .cached d => f.data = some d ∧ t.mov.cold = s.mov.cold
          | .joined => f.data = none ∧ f.joined = true ∧ t.mov.cold = s.mov.cold
          | .agent c => f.data = none ∧ f.frame = none ∧ t.mov.cold = s.mov.cold ∧ queued c (bitAt (g.k.caches td) 0)
          | .frame m c => f.data = none ∧ f.frame = some m ∧ t.mov.cold = s.mov.cold ∧ queued c 0
          | .cold => f.data = none ∧ t.mov.cold = s.mov.cold ++ [⟨tag, g.k.cls, a, td.rowBytes, g.k.domain⟩])

/-- ROW_RETURN (R97, R137, R164, R410, R411). -/
def Obligations.RowReturn : Prop :=
  ∀ (tag : BitVec 23) (s : State),
    let pos := fld tag.toNat 14 9
    let n := fld tag.toNat 8 0
    let slot := (s.engine pos).slots.get none n
    s.targetOn = true → pos < 48 →
    ((slot = none ∨ (∃ f, slot = some f ∧ f.epoch ≠ fld tag.toNat 22 15)) →
      answers (.rowReturn tag) s fun t => t.engine pos = s.engine pos ∧ t.disp = s.disp ∧
        ∀ u, s.tileOf pos = some u → t.counterAt (tileCounter u 7) = s.counterAt (tileCounter u 7) + 1) ∧
    (∀ f b, slot = some f → f.epoch = fld tag.toNat 22 15 → f.dead = true → f.data = some b ∨ f.err = true →
      answers (.rowReturn tag) s fun t => (t.engine pos).slots.get none n = none ∧ t.disp = s.disp ∧ s.changes t [.eng]) ∧
    (∀ f b k td, slot = some f → f.epoch = fld tag.toNat 22 15 → f.dead = false → f.data = some b →
      s.work f.work = some k → s.cfg.table f.table = some td → (f.cls ≠ 0 → s.class0Row pos = false) →
      let had := s.bagOf f.work f.bag
      let new : Arrival := ⟨f.pos, f.which, f.weight, td.row b⟩
      let opens (t : State) : Prop :=
        (td.hdr = true → (td.row b).badSum = true →
          t.wild = s.wild ++ s.runsOf k.domain (s.dests k ++ s.listDests f.work ++ s.rightTables k.domain) ++
            s.runsOf 16 [⟨f.addr, td.rowBytes, 0, 1⟩]) ∧
        (td.hdr = false ∨ (td.row b).badSum = false → t.wild = s.wild)
      (k.desc.kind = some .gather ∨ (k.desc.kind = some .scatter ∧
          ∃ j < 2, arrivedRow (had.arrivals ++ [new]) f.pos j = none) →
        answers (.rowReturn tag) s fun t =>
          (t.bagOf f.work f.bag).arrivals = had.arrivals ++ [new] ∧ (t.bagOf f.work f.bag).taken = had.taken ∧
          (t.engine pos).slots.get none n = none ∧
          (∀ m, m ≠ n → (t.engine pos).slots.get none m = (s.engine pos).slots.get none m) ∧
          (∀ q, q ≠ pos → t.engine q = s.engine q) ∧ opens t) ∧
      (k.desc.kind = some .score → s.canArrive f pos = true →
        answers (.rowReturn tag) s fun t =>
          (t.bagOf f.work f.bag).cands = had.cands ++ [⟨f.row, pos, s.feedOf pos, td.row b, none⟩] ∧
          (t.engine pos).slots.get none n = none ∧ (∀ q, q ≠ pos → t.engine q = s.engine q) ∧ opens t))

/-- RESULT_PACKET_COMMIT (R90, R93, R100, R101). -/
def Obligations.ResultPacketCommit : Prop :=
  ∀ (w : WorkId) (bag lb : Nat) (p : Packet) (ps : List ChParam) (d : TaskDesc) (k : Work) (s : State),
    s.assemble w bag = some (.packet p ps, d, lb, s) → s.work w = some k → k.doorbell = none → k.link = none →
    let b := k.bags.get default bag
    (k.cls ≠ 0 → s.class0Packet b.queuePos = false) →
    let a := d.result + lb * d.rstride
    let sa := d.side + 8 * lb
    let again (t : State) : Prop := (t.bagOf w bag).committed = false ∧ (t.bagOf w bag).taken = [] ∧ t.mem = s.mem ∧
      t.counterAt 0x006 = s.counterAt 0x006 + 1 ∧ t.counterAt 0x009 = s.counterAt 0x009 + 1
    (spaceOf a = 1 → s.allows k.domain a p.data.length 2 = true → p.data ≠ [] → a + p.data.length ≤ 2 ^ 52 →
      (d.sideEn = true → p.side ≠ [] ∧ spaceOf sa = 1 ∧ sa + p.side.length ≤ 2 ^ 52 ∧
        s.allows k.domain sa p.side.length 2 = true) →
      answers (.resultPacketCommit w bag .none) s fun t =>
        (t.bagOf w bag).committed = true ∧ (∀ v, v ≠ bag → t.bagOf w v = s.bagOf w v) ∧
        (∃ k', t.work w = some k' ∧ k'.tally.bags = satAdd 0xFFFFFFFF k.tally.bags 1 ∧ k'.ended = k.ended) ∧
        t.mem = (if d.sideEn then (s.store a p.data).store sa p.side else s.store a p.data).mem) ∧
    ((s.unit (((b.queuePos).bind s.tileOf).getD 63)).faults < 2 →
      answers (.resultPacketCommit w bag .word) s fun t => again t ∧
        (b.queuePos.isSome = true → t.counterAt 0x054 = s.counterAt 0x054 + 1)) ∧
    (∀ u : ObsId, u.val ∈ s.unitsOf k bag b → (s.unit u.val).faults < 2 →
      answers (.resultPacketCommit w bag (.residue u)) s fun t => again t ∧ t.counterAt 0x060 = s.counterAt 0x060 + 1)

/-- ARRAY_PASS (R160), MULTICAST_PACKET (R170) and SEMAPHORE_STALL (R174). -/
def Obligations.ArrayPasses : Prop :=
  (∀ (w : WorkId) (bag : Nat) (a : ArrayId) (k : Work) (g : BagRef) (s : State),
    let s' := s.takePackets a k.cls
    let b := g.k.bags.get default bag
    let due (c : Cand) : Bool := c.arr == a.val && c.score.isNone
    s.running w = some k → k.desc.isScore 1 = false → (s.array a).retired = false → s.issuing = true →
    (k.cls ≠ 0 → s.class0Pass a = false) →
    s'.bagRef w bag = some (some g, s') → s'.work w = some g.k → g.scores = true → b.committed = false →
    b.due a = true → s'.hasQuery w bag a g = true →
    (k.cls ≠ 0 → (∀ p, b.queuePos = some p → s'.linkFull (true, a, p) = false) ∨
      (b.cands.any fun c => c.arr == a.val && c.score.isSome) = true) →
    let q := g.queryVal (b.heard.get [] a)
    answers (.arrayPass w bag a) s fun t =>
      (t.bagOf w bag).cands = b.cands.map (fun c => if due c then { c with score := some (scoreVec c.val q) } else c) ∧
      (∀ v, v ≠ bag → t.bagOf w v = s'.bagOf w v) ∧
      t.counterAt (arrayCounter a 0) = s.counterAt (arrayCounter a 0) + 1 ∧
      t.counterAt (arrayCounter a 1) = s.counterAt (arrayCounter a 1) + BitVec.ofNat 64 (b.cands.countP due) ∧
      s.changes t [.fresh, .disp, .arr, .obs]) ∧
  (∀ (w : WorkId) (bag n : Nat) (g : BagRef) (bs : Bytes) (s : State),
    let b := g.k.bags.get default bag
    let due := (s.receivers b).filter fun a => b.mcast.get 0 a == n
    let len := min 256 (g.queryLen - 256 * n)
    s.bagRef w bag = some (some g, s) → s.work w = some g.k → g.scores = true → b.committed = false →
    due ≠ [] → (∀ a ∈ s.receivers b, n ≤ b.mcast.get 0 a) → n < 4096 → 256 * n < g.queryLen →
    (s.arr.mcast.countP fun x => x.cls == g.k.cls) < 16 →
    (match g.k.query with
      | some q => bs = slice q.bytes (256 * n) len
      | none => ∃ f e a, g.query = some (f, e, a) ∧ s.workRead w (a + 256 * n) len = (.bytes bs, s)) →
    answers (.multicastPacket w bag) s fun t =>
      t.arr.mcast = s.arr.mcast ++ [⟨w, bag, g.k.cls, bs, due⟩] ∧
      (∀ a ∈ due, (t.bagOf w bag).mcast.get 0 a = n + 1) ∧
      (∀ a, a ∉ due → (t.bagOf w bag).mcast.get 0 a = b.mcast.get 0 a) ∧ s.changes t [.disp, .arr]) ∧
  (∀ (p : PairId) (s : State), s.targetOn = true → s.depth p ≠ 0 → s.regFld (Reg.saLimit (p.val / 128)) 15 0 ≠ 0 →
    s.pairWaited p = true → (s.sem p).stalled = false →
    answers (.semaphoreStall p) s fun t =>
      (t.sem p).stalled = true ∧ (t.sem p).fill = (s.sem p).fill ∧ (t.sem p).space = (s.sem p).space ∧
      (t.array (p.val / 128)).stallPair = some ((s.array (p.val / 128)).stallPair.getD p.val) ∧
      bitOf (t.noticeBits (Reg.saNotice (p.val / 128))) 0 = true)

/-- ARRAY_PASS of an INTERACT task (R165) and ROTATION_STEP (R168). -/
def Obligations.SamplePasses : Prop :=
  (∀ (w : WorkId) (bag : Nat) (a : ArrayId) (k : Work) (vs : List (Nat × List RowVal)) (s : State),
    let d := k.desc
    let n := bag / d.score.perPass
    s.running w = some k → d.isScore 1 = true → k.passDue n ≠ [] → s.passArray n = a.val →
    (∀ i < n, s.passArray i = a.val → k.passDue i = []) →
    (s.array a).retired = false → s.issuing = true → (k.cls ≠ 0 → s.class0Pass a = false) →
    s.inputsOf w d d.score.f (k.passDue n) = (some vs, s) →
    answers (.arrayPass w bag a) s fun t =>
      (∀ v ∈ vs, (t.bagOf w v.1).outs = some ((interactPairs v.2.length d.score.self).map fun p =>
        scoreVec (v.2.getD p.1 default) (v.2.getD p.2 default))) ∧
      (∀ v, v ∉ k.passDue n → t.bagOf w v = s.bagOf w v) ∧
      t.counterAt (arrayCounter a 0) = s.counterAt (arrayCounter a 0) + 1 ∧
      t.counterAt (arrayCounter a 2) = s.counterAt (arrayCounter a 2) + BitVec.ofNat 64 vs.length ∧
      s.changes t [.fresh, .disp, .obs]) ∧
  (∀ (set : RingId) (p : ProjSet) (b : Batch) (k : Work) (x : RowVal) (s : State),
    let turn := s.arr.turns.get 0 p.set
    let had := k.bags.get default b.first
    let tile := p.tileAt (b.arr - p.first) turn
    let rot := if tile < p.tileCount then
        had.rot ++ [(tile, ((List.range 64).filter fun c => 64 * tile + c < p.p).map fun c =>
          scoreVec (p.column (64 * tile + c)) x)]
      else had.rot
    s.cfg.projSet set.val = some p → s.targetOn = true → s.retiredIn p = none → s.issuing = true →
    (∀ i < p.n, s.class0Pass (p.first + i) = false) → s.dealBatches p = s → s.arr.batches = [b] → b.count = 1 →
    s.work b.work = some k → k.desc.score.set = p.set → k.desc.isScore 2 = true → had.inp = some x →
    answers (.rotationStep set) s fun t =>
      t.arr.turns.get 0 p.set = (turn + 1) % max 1 p.steps ∧
      (b.done + 1 < p.steps → (t.bagOf b.work b.first).rot = rot ∧ (t.bagOf b.work b.first).outs = had.outs ∧
        t.arr.batches = [{ b with done := b.done + 1 }]) ∧
      (p.steps ≤ b.done + 1 → t.arr.batches = [] ∧ (t.bagOf b.work b.first).rot = [] ∧
        (t.bagOf b.work b.first).outs = some ((List.range p.tileCount).flatMap fun i =>
          ((rot.find? fun r => r.1 == i).map (·.2)).getD [])) ∧
      (∀ v, v ≠ b.first → t.bagOf b.work v = s.bagOf b.work v) ∧ t.mem = s.mem)

/-- Porter m runs p for its mailbox entry e of work k, and x is the first word of its next instruction, which is well
formed and does not wait for the outstanding miss (R347, R357, R371). -/
def Sys2Proof.Machine.State.fetches (s : State) (m : Nat) (p : Porter) (e : Mail) (k : Work) (x : Nat) : Prop :=
  s.porterRuns m = some (p, e, k) ∧ s.insWord p.pc = some x ∧ insOk x p.pc = true ∧ p.miss.any (insWaits x) = false

/-- A command leaves Porter m as p and counts one instruction of it; no other Porter changes. -/
def Sys2Proof.Machine.State.leavesPorter (s : State) (m : Nat) (c : Instr) (p : Porter) : Prop :=
  answers c s fun t => t.porter m = p ∧ (∀ n, n ≠ m → t.porter n = s.porter n) ∧
    t.counterAt (porterCounter m 0) = s.counterAt (porterCounter m 0) + 1 ∧ s.changes t [.porters, .obs]

/-- Register d of a Porter takes a value, unless d is 0, and the Porter goes on at an address. -/
def Sys2Proof.Machine.Porter.after (p : Porter) (d v pc : Nat) : Porter :=
  { p with g := if d = 0 then p.g else p.g.set (d - 1) (v % 2 ^ 64), pc := pc % 2 ^ 64, st := .running }

/-- The ALU instructions of a Porter with their FUNC and their 64-bit result (R357, R358). -/
def Sys2Proof.Machine.aluRow (m : PorterId) : List (Instr × Nat × (BitVec 64 → BitVec 64 → BitVec 64)) :=
  [(.add m, 0, fun a b => a + b), (.sub m, 1, fun a b => a - b), (.and m, 2, fun a b => a &&& b),
   (.or m, 3, fun a b => a ||| b), (.xor m, 4, fun a b => a ^^^ b), (.mul m, 8, fun a b => a * b),
   (.mulhu m, 9, fun a b => ((a.zeroExtend 128 * b.zeroExtend 128) >>> 64).truncate 64),
   (.divu m, 10, fun a b => if b = 0#64 then 0#64 - 1#64 else a / b),
   (.remu m, 11, fun a b => if b = 0#64 then a else a % b),
   (.slt m, 12, fun a b => if a.toInt < b.toInt then 1#64 else 0#64),
   (.sltu m, 13, fun a b => if a < b then 1#64 else 0#64)]

/-- The shifts (R357), for amounts below 64. -/
def Sys2Proof.Machine.shiftRow (m : PorterId) : List (Instr × Nat × (BitVec 64 → Nat → BitVec 64)) :=
  [(.sll m, 5, fun a n => a <<< n), (.srl m, 6, fun a n => a >>> n), (.sra m, 7, fun a n => a.sshiftRight n)]

/-- The instructions with an immediate (R357). -/
def Sys2Proof.Machine.immRow (m : PorterId) : List (Instr × Nat × (BitVec 64 → BitVec 16 → BitVec 64)) :=
  [(.addi m, 1, fun a i => a + i.signExtend 64), (.andi m, 2, fun a i => a &&& i.zeroExtend 64),
   (.ori m, 3, fun a i => a ||| i.zeroExtend 64), (.xori m, 4, fun a i => a ^^^ i.zeroExtend 64),
   (.lui m, 6, fun _ i => ((i.zeroExtend 32) <<< 16).signExtend 64)]

/-- The branches with their condition (R357). -/
def Sys2Proof.Machine.branchRow (m : PorterId) : List (Instr × Nat × (BitVec 64 → BitVec 64 → Prop)) :=
  [(.beq m, 0x10, fun a b => a = b), (.bne m, 0x11, fun a b => a ≠ b), (.blt m, 0x12, fun a b => a.toInt < b.toInt),
   (.bge m, 0x13, fun a b => b.toInt ≤ a.toInt), (.bltu m, 0x14, fun a b => a < b), (.bgeu m, 0x15, fun a b => b ≤ a)]

/-- Integer arithmetic of a Porter (R355, R357, R358). The value of a shift by 64 or more is free (log entry 2).
Branches and jumps (R357). That the work of an undefined instruction has ended is the model's choice in R8 (log entry
7). -/
def Obligations.PorterScalar : Prop :=
  ((∀ p : Porter, p.reg 0 = 0 ∧ ∀ v, p.setReg 0 v = p) ∧
   ∀ (m : PorterId) (p : Porter) (e : Mail) (k : Work) (x : Nat) (s : State), s.fetches m p e k x →
     let a := BitVec.ofNat 64 (p.reg (insA x))
     let b := BitVec.ofNat 64 (p.reg (insB x))
     (∀ r ∈ aluRow m, insMajor x = 0 → insFunc x = r.2.1 →
       s.leavesPorter m r.1 (p.after (insD x) (r.2.2 a b).toNat (p.pc + 4))) ∧
     (∀ r ∈ shiftRow m, insMajor x = 0 → insFunc x = r.2.1 →
       (b.toNat < 64 → s.leavesPorter m r.1 (p.after (insD x) (r.2.2 a b.toNat).toNat (p.pc + 4))) ∧
       (64 ≤ b.toNat → answers r.1 s fun t => (∃ v, t.porter m = p.after (insD x) v (p.pc + 4)) ∧
         (∀ n, n ≠ m.val → t.porter n = s.porter n) ∧ s.changes t [.fresh, .porters, .obs])) ∧
     (∀ r ∈ immRow m, insMajor x = r.2.1 →
       s.leavesPorter m r.1 (p.after (insD x) (r.2.2 a (BitVec.ofNat 16 x)).toNat (p.pc + 4))) ∧
     (insMajor x = 5 →
       (∀ i, fld x 7 6 = i → ∀ r, (shiftRow m)[i]? = some r →
         s.leavesPorter m (.shi m) (p.after (insD x) (r.2.2 a (fld x 5 0)).toNat (p.pc + 4))) ∧
       (fld x 7 6 = 3 → s.spoils e.work (.shi m)))) ∧
  (∀ (m : PorterId) (p : Porter) (e : Mail) (k : Work) (x : Nat) (s : State), s.fetches m p e k x →
     let a := BitVec.ofNat 64 (p.reg (insD x))
     let b := BitVec.ofNat 64 (p.reg (insA x))
     let pc := BitVec.ofNat 64 p.pc
     let imm := (BitVec.ofNat 16 x).signExtend 64
     (∀ r ∈ branchRow m, insMajor x = r.2.1 →
       (r.2.2 a b → s.leavesPorter m r.1 (p.after 0 0 (pc + 4#64 * imm).toNat)) ∧
       (¬ r.2.2 a b → s.leavesPorter m r.1 (p.after 0 0 (pc + 4#64).toNat))) ∧
     (insMajor x = 0x16 → s.leavesPorter m (.jal m)
       (p.after (insD x) (p.pc + 4) (pc + 4#64 * (BitVec.ofNat 21 x).signExtend 64).toNat)) ∧
     (insMajor x = 0x17 → s.leavesPorter m (.jalr m) (p.after (insD x) (p.pc + 4) (b + imm).toNat)))

/-- The FP instructions with one result for two operands (R357, R358). -/
def Sys2Proof.Machine.fpRow (m : PorterId) : List (Instr × Nat × (FFmt → Nat → Nat → Nat)) :=
  [(.fadd m, 0, FFmt.add), (.fsub m, 1, FFmt.sub), (.fmul m, 2, FFmt.mul), (.fdiv m, 3, FFmt.div),
   (.fsqrt m, 4, fun q a _ => q.sqrt a),
   (.fle m, 7, fun q a b => if (q.decode a).lt (q.decode b) ∨ (q.decode a).eq (q.decode b) then 1 else 0),
   (.flt m, 8, fun q a b => if (q.decode a).lt (q.decode b) then 1 else 0),
   (.feq m, 9, fun q a b => if (q.decode a).eq (q.decode b) then 1 else 0)]

/-- Floating point (R114, R357, R358). That the work of an FPK with an undefined format has ended is the model's choice in
R8 (log entry 7). -/
def Obligations.PorterFloatingPoint : Prop :=
  (∀ (q : FFmt) (a b : Nat), (q.decode a).isNan = true ∨ (q.decode b).isNan = true →
    (q.decode a).lt (q.decode b) = false ∧ (q.decode a).eq (q.decode b) = false) ∧
  ∀ (m : PorterId) (p : Porter) (e : Mail) (k : Work) (x : Nat) (s : State), s.fetches m p e k x → insMajor x = 0x18 →
    let q := if bitOf x 10 then FFmt.fp64 else FFmt.fp32
    let op := insFunc x % 1024
    let a := p.reg (insA x) % 2 ^ q.bits
    let b := p.reg (insB x) % 2 ^ q.bits
    let nan (c : Nat) := (q.decode c).isNan = true
    let writes (c : Instr) (v : Nat) := s.leavesPorter m c (p.after (insD x) v (p.pc + 4))
    let draws (c : Instr) := answers c s fun t => (∃ v, t.porter m = p.after (insD x) v (p.pc + 4)) ∧
      (∀ n, n ≠ m.val → t.porter n = s.porter n) ∧ s.changes t [.fresh, .porters, .obs]
    (∀ r ∈ fpRow m, op = r.2.1 → writes r.1 (r.2.2 q a b)) ∧
    (∀ r ∈ [(Instr.fmin m, 5, ltZ (q.decode a) (q.decode b)), (.fmax m, 6, ltZ (q.decode b) (q.decode a))], op = r.2.1 →
      (nan a → ¬ nan b → writes r.1 b) ∧ (¬ nan a → nan b → writes r.1 a) ∧ (nan a → nan b → writes r.1 q.nanCode) ∧
      (¬ nan a → ¬ nan b → writes r.1 (if r.2.2 then a else b))) ∧
    (op = 10 → writes (.fcvtD m) (FFmt.fp64.encode .nearest (FFmt.fp32.decode (p.reg (insA x) % 2 ^ 32)))) ∧
    (op = 11 → writes (.fcvtS m) (FFmt.fp32.encode .nearest (FFmt.fp64.decode (p.reg (insA x) % 2 ^ 64)))) ∧
    (op = 12 → (∀ i, toInt64 (q.decode a) = some i → writes (.fcvtI m) (BitVec.ofInt 64 i).toNat) ∧
      (nan a → draws (.fcvtI m))) ∧
    (op = 13 → let i := (BitVec.ofNat 64 (p.reg (insA x))).toInt
      writes (.icvt m) (q.encode .nearest (.fin (decide (i < 0)) i.natAbs 0))) ∧
    (op = 14 → let c := p.reg (insA x) % 2 ^ 32
      (Fmt.ofCode (p.reg (insB x) % 16) = some .fp32 → writes (.fpk m) c) ∧
      (∀ f, Fmt.ofCode (p.reg (insB x) % 16) = some f → f ≠ .fp32 →
        (f = .int8 ∨ f = .int4 → draws (.fpk m)) ∧
        (f ≠ .int8 → f ≠ .int4 → writes (.fpk m) (requantCode f default (FFmt.fp32.decode c)).1)) ∧
      (Fmt.ofCode (p.reg (insB x) % 16) = none → s.spoils e.work (.fpk m)))

/-- The loads and stores with their MAJOR and width (R357). -/
def Sys2Proof.Machine.memRow (m : PorterId) : List (Instr × Instr × Nat × Nat) :=
  [(.ldB m, .stB m, 8, 1), (.ldH m, .stH m, 9, 2), (.ldW m, .stW m, 10, 4), (.ldD m, .stD m, 11, 8)]

/-- The address of a load or store (R358). -/
def Sys2Proof.Machine.Porter.address (p : Porter) (x : Nat) : Nat :=
  (BitVec.ofNat 64 (p.reg (insA x)) + (BitVec.ofNat 16 x).signExtend 64).toNat

/-- Loads of a Porter (R357, R361, R369). That the work of a load at an address that breaks a rule has ended is the model's
choice in R8 (log entry 7). A task that needs a stack whose contents are lost is parked (R421). -/
def Obligations.PorterLoads : Prop :=
  ∀ (m : PorterId) (p : Porter) (e : Mail) (k : Work) (x : Nat) (s : State), s.fetches m p e k x →
    ∀ r ∈ memRow m, insMajor x = r.2.2.1 →
      let n := r.2.2.2
      let v := p.address x
      let loads (b : Bytes) := s.leavesPorter m r.1 (p.after (insD x) (leNat b) (p.pc + 4))
      let right := v < 2 ^ 52 ∧ s.allows k.domain v n 1 = true ∧ s.lostStack v n = none
      let line := v / 64 * 64
      (v % n ≠ 0 ∨ (2 ^ 52 ≤ v ∧ v < 2 ^ 63) → s.spoils e.work r.1) ∧
      (v % n = 0 → (
        (2 ^ 63 ≤ v → v < 2 ^ 63 + 0x20000 → loads ((List.range n).map fun i => p.localMem.get 0#8 (v - 2 ^ 63 + i))) ∧
        (2 ^ 63 + 0x100000 ≤ v → v < 2 ^ 63 + 0x100080 → loads (slice k.raw (v - 2 ^ 63 - 0x100000) n)) ∧
        (2 ^ 63 + 0x20000 ≤ v → v < 2 ^ 63 + 0x100000 → loads [0#8]) ∧
        (v < 2 ^ 52 → 1 < spaceOf v ∨ s.allows k.domain v n 1 = false → s.violates e.work r.1) ∧
        (∀ st, v < 2 ^ 52 → s.allows k.domain v n 1 = true → s.lostStack v n = some st →
          s.waitsFor e.work (.contents st) r.1) ∧
        (right → spaceOf v = 1 → loads (s.load v n)) ∧
        (∀ l pre post, right → spaceOf v = 0 → p.cacheEn = true →
          p.lines = pre ++ l :: post → l.addr = line → (∀ y ∈ pre ++ post, y.addr ≠ l.addr) →
          s.leavesPorter m r.1 { p with
            g := (p.after (insD x) (leNat (slice l.data (v % 64) n)) 0).g, pc := (p.pc + 4) % 2 ^ 64, st := .running
            lines := l :: (pre ++ post) }) ∧
        (right → spaceOf v = 0 → p.cacheEn = true → (∀ y ∈ p.lines, y.addr ≠ line) →
          (p.miss = none → s.leavesPorter m r.1 { p with
            pc := (p.pc + 4) % 2 ^ 64, st := .running, run := none, miss := some ⟨line, v, n, some (insD x), []⟩ }) ∧
          (p.miss ≠ none → answers r.1 s fun t => t.porter m = { p with st := .waitMiss } ∧
            (∀ n, n ≠ m.val → t.porter n = s.porter n) ∧ s.changes t [.porters])) ∧
        (∀ b, right → spaceOf v = 0 → p.cacheEn = false → s.porterRead m k.domain v n = .bytes b → loads b)))

/-- Stores of a Porter (R243, R358, R361, R369, R373). That the work of a store at an address that breaks a rule has ended,
and that a store into live destinations, tables or Larder rows opens them, is the model's choice in R7 and R8 (log entry
7). A task that needs a stack whose contents are lost is parked (R421). -/
def Obligations.PorterStores : Prop :=
  ∀ (m : PorterId) (p : Porter) (e : Mail) (k : Work) (x : Nat) (s : State), s.fetches m p e k x →
    ∀ r ∈ memRow m, insMajor x = r.2.2.1 + 4 →
      let n := r.2.2.2
      let v := p.address x
      let b := leBytes n (p.reg (insD x))
      let right := v < 2 ^ 52 ∧ s.allows k.domain v n 2 = true ∧ s.lostStack v n = none
      let alone := s.checkStore e.work k.domain v n = s
      let stores (p' : Porter) := answers r.2.1 s fun t => t.porter m = p' ∧ (∀ n, n ≠ m.val → t.porter n = s.porter n) ∧
        t.counterAt (porterCounter m 0) = s.counterAt (porterCounter m 0) + 1 ∧ s.changes t [.wild, .mov, .porters, .obs] ∧
        (alone → s.changes t [.porters, .obs])
      let line := v / 64 * 64
      let next := { p with pc := (p.pc + 4) % 2 ^ 64, st := .running }
      (v % n ≠ 0 ∨ (2 ^ 52 ≤ v ∧ v < 2 ^ 63) ∨ 2 ^ 63 + 0x20000 ≤ v → s.spoils e.work r.2.1) ∧
      (v % n = 0 → (
        (2 ^ 63 ≤ v → v < 2 ^ 63 + 0x20000 → answers r.2.1 s fun t =>
          (∀ i < n, (t.porter m).localMem.get 0#8 (v - 2 ^ 63 + i) = b.getD i 0#8) ∧
          (∀ a, a < v - 2 ^ 63 ∨ v - 2 ^ 63 + n ≤ a → (t.porter m).localMem.get 0#8 a = p.localMem.get 0#8 a) ∧
          (t.porter m).g = p.g ∧ (t.porter m).pc = (p.pc + 4) % 2 ^ 64 ∧ s.changes t [.porters, .obs]) ∧
        (v < 2 ^ 52 → 1 < spaceOf v ∨ s.allows k.domain v n 2 = false → s.violates e.work r.2.1) ∧
        (∀ st, v < 2 ^ 52 → s.allows k.domain v n 2 = true → s.lostStack v n = some st →
          s.waitsFor e.work (.contents st) r.2.1) ∧
        (right → spaceOf v = 1 → answers r.2.1 s fun t =>
          t.mem = (s.store v b).mem ∧ t.porter m = next ∧
          (alone → s.tableHit v n = false → s.holdsRow v n = false →
            s.changes t [.mem, .porters, .obs] ∧ (s.wild = [] → t.load v n = b)) ∧
          s.changes t [.mem, .wild, .eng, .mov, .porters, .obs]) ∧
        (∀ l pre post, right → spaceOf v = 0 → p.cacheEn = true →
          p.lines = pre ++ l :: post → l.addr = line → (∀ y ∈ pre ++ post, y.addr ≠ l.addr) →
          stores { next with
            lines := { l with data := l.data.take (v % 64) ++ b ++ l.data.drop (v % 64 + n), dirty := true } ::
              (pre ++ post) }) ∧
        (right → spaceOf v = 0 → p.cacheEn = true → (∀ y ∈ p.lines, y.addr ≠ line) →
          let run := nextRun p.run line
          (p.miss = none → run.2 ≤ 8 →
            stores { next with run := some run, miss := some ⟨line, v, n, none, b⟩ }) ∧
          (p.miss ≠ none → answers r.2.1 s fun t => t.porter m = { p with st := .waitMiss } ∧
            (∀ n, n ≠ m.val → t.porter n = s.porter n) ∧ s.changes t [.wild, .mov, .porters] ∧
            (alone → s.changes t [.porters]))) ∧
        (right → spaceOf v = 0 → p.cacheEn = false ∨
            ((∀ y ∈ p.lines, y.addr ≠ line) ∧ p.miss = none ∧ 8 < (nextRun p.run line).2) →
          answers r.2.1 s fun t =>
            (t.porter m).unacked = p.unacked + 1 ∧ (t.porter m).pc = (p.pc + 4) % 2 ^ 64 ∧ (t.porter m).g = p.g ∧
            (t.porter m).lines = p.lines ∧
            (∃ msg, (t.link (s.ownerAgent v)).out.queue = (s.link (s.ownerAgent v)).out.queue ++ [⟨msg, .porter m e.work⟩] ∧
              msg.mtype = 3 ∧ msg.addr = v ∧ msg.body = b ∧ msg.cls = k.cls) ∧
            (alone → s.tableHit v n = false → s.changes t [.disp, .net, .porters, .obs]))))

/-- The cache operations with their FUNC (R374): do they drop all lines, and do they drop those of the range? -/
def Sys2Proof.Machine.cacheRow (m : PorterId) : List (Instr × Nat × Bool × Bool) :=
  [(.cclean m, 0, false, false), (.cinv m, 1, false, true), (.cflush m, 2, false, true), (.cinvAll m, 3, true, true),
   (.cflushAll m, 4, true, true)]

/-- System instructions and events of a Porter (R350, R355, R366, R367, R371, R374). -/
def Obligations.PorterSystem : Prop :=
  ∀ (m : PorterId) (p : Porter) (e : Mail) (k : Work) (s : State),
    (∀ x, s.fetches m p e k x →
      let next := { p with pc := (p.pc + 4) % 2 ^ 64, st := .running }
      (insMajor x = 0x19 → bitOf x 15 = false →
        (∀ v, [e.porter, (if p.cacheEn then 1 else 0), p.ticketMask][fld x 7 0]? = some v →
          s.leavesPorter m (.csrr m) (p.after (insD x) v (p.pc + 4))) ∧
        (fld x 7 0 = 3 → answers (.csrr m) s fun t => (∃ v, t.porter m = p.after (insD x) v (p.pc + 4)) ∧
          s.changes t [.fresh, .porters, .obs])) ∧
      (insMajor x = 0x19 → bitOf x 15 = true → s.leavesPorter m (.csrw m)
        { next with cacheEn := if fld x 7 0 = 1 then bitOf (p.reg (insA x)) 0 else p.cacheEn }) ∧
      (∀ r ∈ cacheRow m, insMajor x = 0x1A → insFunc x = r.2.1 →
        let a := p.reg (insA x)
        let within (l : DLine) : Bool := decide (a < 2 ^ 52 ∧ a / 64 * 64 ≤ l.addr ∧ l.addr < a / 64 * 64 + 64 * p.reg (insB x))
        let drops (l : DLine) : Bool := r.2.2.1 || (r.2.2.2 && within l)
        (r.2.1 = 1 ∨ r.2.1 = 3 ∨ (∀ l ∈ p.lines, l.dirty = false) →
          s.leavesPorter m r.1 { next with lines := p.lines.filter fun l => !drops l }) ∧
        (∀ l, r.2.1 ≠ 1 → r.2.1 ≠ 3 → p.lines = [l] → l.dirty = true → (r.2.1 = 4 ∨ within l = true) →
          answers r.1 s fun t =>
            t.porter m = { next with
              lines := if r.2.1 = 0 then [{ l with dirty := false }] else [], unacked := p.unacked + 1 } ∧
            (∃ msg, (t.link (s.ownerAgent l.addr)).out.queue =
              (s.link (s.ownerAgent l.addr)).out.queue ++ [⟨msg, .porter m e.work⟩] ∧
              msg.mtype = 3 ∧ msg.addr = l.addr ∧ msg.body = l.data))) ∧
      (insMajor x = 0x1B → insFunc x = 0 → (p.unacked = 0 → s.leavesPorter m (.sysFence m) next) ∧
        (p.unacked ≠ 0 → exec (.sysFence m) s = .next s)) ∧
      (insMajor x = 0x1B → insFunc x = 1 →
        let n := p.reg (insA x)
        (p.tickets[n]? = some .ready → s.leavesPorter m (.waitt m) { next with tickets := p.tickets.set n .free }) ∧
        (∀ auto, p.tickets[n]? = some (.running auto) → answers (.waitt m) s fun t =>
          t.porter m = { p with st := .waitTicket, need := n } ∧ s.changes t [.porters])) ∧
      (insMajor x = 0x1B → insFunc x = 2 → e.share = none → (∀ l ∈ p.lines, l.dirty = false) →
        answers (.halt m) s fun t =>
          t.porter m = { p with
            st := .idle, cur := none, mail := p.mail.drop 1, tickets := List.replicate 16 .free, lines := []
            run := none, miss := none } ∧
          (∃ k', t.work e.work = some k' ∧ bitOf k'.porters e.porter = false ∧ k'.tally = k.tally) ∧
          (∀ n, n ≠ m.val → t.porter n = s.porter n))) ∧
    (∀ (y : Miss) (b : Bytes), s.porter m = p → p.miss = some y → p.cur = some e → s.work e.work = some k →
      s.targetOn = true → k.ended = false → k.parked = [] →
      (s.porterRead m k.domain y.line 64 = .denied → s.violates e.work (.dataCacheFill m)) ∧
      (s.porterRead m k.domain y.line 64 = .bytes b →
        (p.lines.filter fun l => lineSet l.addr == lineSet y.line).length < 4 →
        answers (.dataCacheFill m) s fun t => s.changes t [.porters] ∧
          t.porter m = { p with
            miss := none, st := if p.st = .waitMiss then .running else p.st
            g := match y.load with
              | some d => (p.after d (leNat (slice b (y.addr - y.line) y.n)) 0).g
              | none => p.g
            lines := (match y.load with
              | some _ => ⟨y.line, b, false⟩
              | none => ⟨y.line, b.take (y.addr - y.line) ++ y.bytes ++ b.drop (y.addr - y.line + y.bytes.length), true⟩) ::
                p.lines })) ∧
    (∀ n auto w o, s.porter m = p → p.cur = some e → p.tickets[n]? = some (.running auto) → s.targetOn = true →
      s.opsOf m n = [w] → s.work w = some o → o.underTicket m n = true → o.desc.isScore 3 = false → o.opDone = true →
      ∀ t' : TicketId, t'.val = n → answers (.ticketComplete m t') s fun t =>
        let waits := p.st = .waitTicket ∧ p.need = n
        (t.porter m).tickets = p.tickets.set n (if auto = true ∨ waits then .free else .ready) ∧
        (waits → (t.porter m).st = .running ∧ (t.porter m).pc = (p.pc + 4) % 2 ^ 64) ∧
        (∃ o', t.work w = some o' ∧ o'.ended = true ∧ o'.tally = o.tally))

/-- A wide instruction with a UNIT and an OP that may issue: whole in the image, no store unacknowledged (R362,
R367); b is its 256 bits. -/
def Sys2Proof.Machine.State.issuesWide (s : State) (p : Porter) (x unit op b : Nat) : Prop :=
  insMajor x = 0x3F ∧ wideUnit x = unit ∧ wideOp x = op ∧ p.pc + 32 ≤ s.cfg.porterImage.length ∧ p.unacked = 0 ∧
    b = leAt s.cfg.porterImage p.pc 32

/-- The Porter after a launch with a ticket (R366). -/
def Sys2Proof.Machine.Porter.launches (p : Porter) (x n : Nat) : Porter :=
  ({ p with tickets := p.tickets.set n (.running (fld x 19 15 == 0)) } : Porter).after (fld x 19 15) n (p.pc + 32)

/-- The launches (R354, R363 to R366). That MOVER ABORT takes no ticket is the model's choice (log entry 22), and so is that
the work of a launch that breaks a rule has ended (R8, log entry 7). -/
def Obligations.PorterLaunches : Prop :=
  ∀ (m : PorterId) (p : Porter) (e : Mail) (k : Work) (x b n : Nat) (s : State), s.fetches m p e k x →
    let a := p.reg (fld x 14 10)
    let link := if bitOf b 42 then some (fld b 41 32) else none
    let free := p.tickets.findIdx? (· == .free) = some n
    let reads (a n : Nat) := spaceOf a ≤ 1 ∧ s.reach a n = true ∧ s.allows k.domain a n 1 = true
    let near := a < 2 ^ 52 ∧ reads a 128 ∧ s.lostStack a 128 = none ∧ reservedTask (s.load a 128) = false
    let raw := s.load a 128
    let d := TaskDesc.ofBytes raw
    let d' := { d with fence := d.fence || k.desc.fence }
    let starts (c : Instr) := answers c s fun t =>
      (∃ k', t.work s.disp.nextWork = some k' ∧ k'.src = .porter e.work m n link ∧ k'.cls = k.cls ∧ k'.domain = k.domain ∧
        k'.raw = raw ∧ k'.desc = d') ∧
      t.disp.nextWork = s.disp.nextWork + 1 ∧ t.porter m = p.launches x n
    let queues (c : Instr) (ch : Nat) (h : Head) := answers c s fun t =>
      t.porter m = p.launches x n ∧ (t.chan ch).code = 0 ∧ (t.chan ch).fault = none ∧
      ((s.chan ch).st ≠ .idle → (t.chan ch).heads = (s.chan ch).heads ++ [h]) ∧
      ((s.chan ch).st = .idle → (s.chan ch).heads = [] → (t.chan ch).st = .running ∧ (t.chan ch).user = h.user) ∧
      (∀ c, c ≠ ch → t.chan c = s.chan c) ∧ s.changes t [.mov, .porters, .obs]
    let owns (ch : Nat) := ch < 28 ∧ (s.cfg.chan ch).porterOwned = true ∧ (s.cfg.chan ch).porter = e.porter
    (s.issuesWide p x 0 1 b → e.share = none → free → near → d.kind = some .gather → s.badGatherTask d' = false →
      d.prep = false → (∀ q, link = some q → s.depth q ≠ 0) → starts (.engineGather m)) ∧
    (s.issuesWide p x 1 0 b → e.share = none → free → near → d.kind = some .score → s.badScore d' = false →
      d.prep = false → (∀ q, link = some q → s.depth q ≠ 0) →
      (∀ f, d.score.mode = 3 → queryFmt d.score.qfmt = some f →
        d.weights + vectorBytes f d.score.elem ≤ 2 ^ 52 ∧ reads d.weights (vectorBytes f d.score.elem)) → starts (.arrayScore m)) ∧
    (s.issuesWide p x 2 0 b → free → a % 64 = 0 → a < 2 ^ 52 → spaceOf a ≤ 1 → owns (fld b 36 32) →
      (s.chan (fld b 36 32)).heads.length < 4 →
      queues (.moverList m) (fld b 36 32) ⟨a, none, some (m, e.work, n)⟩) ∧
    (s.issuesWide p x 2 0 b → free → a % 64 ≠ 0 ∨ 2 ^ 52 ≤ a ∨ 1 < spaceOf a → s.spoils e.work (.moverList m)) ∧
    (s.issuesWide p x 2 1 b → free → a < 2 ^ 52 → p.reg (fld x 9 5) < 2 ^ 52 → owns (fld b 211 207) →
      (s.chan (fld b 211 207)).heads.length < 4 →
      queues (.moverCopy m) (fld b 211 207) ⟨0, some (copyDesc b a (p.reg (fld x 9 5))), some (m, e.work, n)⟩) ∧
    (s.issuesWide p x 2 2 b → owns (fld b 36 32) → answers (.moverAbort m) s fun t =>
      t.porter m = { p with pc := (p.pc + 32) % 2 ^ 64, st := .running } ∧
      ((s.chan (fld b 36 32)).st ≠ .idle →
        (t.chan (fld b 36 32)).st = .stopping ∧ (t.chan (fld b 36 32)).heads = []) ∧
      ((s.chan (fld b 36 32)).st = .idle → t.mov = s.mov)) ∧
    (∀ i sh, s.issuesWide p x 0 0 b → e.share = some i → k.shares[i]? = some sh → free → near → p.released = false →
      s.badShare k sh raw = false → answers (.engineRelease m) s fun t =>
        t.porter m = { p.launches x n with released := true } ∧
        (∃ k', t.work e.work = some k' ∧ k'.shares[i]? = some { sh with desc := d, released := true })) ∧
    (∀ c u o, (c, u, o) ∈ [(Instr.engineRelease m, 0, 0), (.engineGather m, 0, 1), (.arrayScore m, 1, 0), (.moverList m, 2, 0),
        (.moverCopy m, 2, 1)] → s.issuesWide p x u o b → ((u, o) ∈ [(0, 1), (1, 0)] → e.share = none) →
      ((u, o) = (0, 0) → e.share.isSome = true) → (∀ q ∈ p.tickets, q ≠ .free) → exec c s = .next s)

/-- Semaphore operations of a Porter (R368). That the work of a POST beyond DEPTH has ended is the model's choice in R8 (log
entry 7). -/
def Obligations.PorterSemaphores : Prop :=
  (∀ (m : PorterId) (p : Porter) (e : Mail) (k : Work) (x b : Nat) (s : State), s.fetches m p e k x → e.share = none →
    let q := fld b 41 32
    let n := fld b 53 42 + 1
    let v := s.sem q
    let next := { p with pc := (p.pc + 32) % 2 ^ 64, st := .running }
    let gives (c : Instr) (v' : Sem) := answers c s fun t => t.sem q = v' ∧ (∀ r, r ≠ q → t.sem r = s.sem r) ∧
      t.porter m = next ∧ s.changes t [.arr, .porters, .obs]
    let waits (c : Instr) := answers c s fun t => t.porter m = { p with st := .waitSem, pair := q, need := n } ∧
      s.changes t [.porters, .obs]
    s.depth q ≠ 0 →
    (s.issuesWide p x 3 0 b →
      (n ≤ v.space → gives (.waitSpace m) ⟨v.fill, v.space - n, false⟩) ∧ (v.space < n → waits (.waitSpace m))) ∧
    (s.issuesWide p x 3 2 b →
      (n ≤ v.fill → gives (.waitFill m) ⟨v.fill - n, v.space, false⟩) ∧ (v.fill < n → waits (.waitFill m))) ∧
    (s.issuesWide p x 3 1 b →
      (v.fill + v.space + n ≤ s.depth q → gives (.postFill m) ⟨v.fill + n, v.space, false⟩) ∧
      (s.depth q < v.fill + v.space + n → s.spoils e.work (.postFill m))) ∧
    (s.issuesWide p x 3 3 b →
      (v.fill + v.space + n ≤ s.depth q → gives (.postSpace m) ⟨v.fill, v.space + n, false⟩) ∧
      (s.depth q < v.fill + v.space + n → s.spoils e.work (.postSpace m)))) ∧
  (∀ (m : PorterId) (e : Mail) (k : Work) (x : Nat) (s : State),
    let p := s.porter m
    let v := s.sem p.pair
    s.targetOn = true → p.st = .waitSem → p.cur = some e → s.work e.work = some k → k.ended = false → k.parked = [] →
    s.insWord p.pc = some x →
    (wideOp x = 0 → p.need ≤ v.space → answers (.semWaitSatisfied m) s fun t =>
      t.sem p.pair = ⟨v.fill, v.space - p.need, false⟩ ∧
      t.porter m = { p with pc := (p.pc + 32) % 2 ^ 64, st := .running } ∧ s.changes t [.arr, .porters, .obs]) ∧
    (wideOp x = 2 → p.need ≤ v.fill → answers (.semWaitSatisfied m) s fun t =>
      t.sem p.pair = ⟨v.fill - p.need, v.space, false⟩ ∧
      t.porter m = { p with pc := (p.pc + 32) % 2 ^ 64, st := .running } ∧ s.changes t [.arr, .porters, .obs]))

/-- Descriptors of a channel (R249, R252 to R255, R257). That a malformed or overlapping descriptor opens the destinations
named and lets the list go on is the model's choice in R7 and R8 (log entry 7). -/
def Obligations.MoverDescriptors : Prop :=
  (∀ (ch : ChanId) (a : Nat) (s : State),
    let c := s.chan ch
    let d := MoverDesc.ofBytes (s.load a 64)
    s.targetOn = true → (c.st = .running ∨ c.st = .barrier ∨ c.st = .faultWait) → c.list = some a → c.reading = none →
    c.ahead.length < 2 → spaceOf a ≤ 1 → s.reach a 64 = true → s.allows (s.chanDomain ch) a 64 1 = true →
    answers (.moverDescriptorRead ch) s fun t =>
      t.chan ch = { c with
        ahead := c.ahead ++ [(a, some (s.load a 64))], list := if d.last ∨ d.bad then none else some d.next } ∧
      (∀ n, n ≠ ch.val → t.chan n = s.chan n) ∧ s.changes t [.mov]) ∧
  (∀ (ch : ChanId) (a : Nat) (b : Bytes) (rest : List (Nat × Option Bytes)) (s : State),
    let c := s.chan ch
    let d := MoverDesc.ofBytes b
    s.targetOn = true → c.st = .running → c.cur = none → c.ahead = (a, some b) :: rest →
    ∀ e ∈ [(Instr.copy ch, 0), (.fill ch, 1), (.nop ch, 2)],
      (d.bad = true ∨ reservedMover b = true → answers e.1 s fun t =>
        (∃ d', (t.chan ch).cur = some d' ∧ d'.op = 2) ∧ (t.chan ch).ahead = rest ∧
          (∀ r ∈ s.runsOf (s.chanDomain ch) d.dests, r ∈ t.wild) ∧ s.changes t [.fresh, .wild, .mov]) ∧
      (d.bad = false → reservedMover b = false → d.op = e.2 →
        (d.overlaps c.since = false → c.broken = false → s.worksHit d.dests = [] → s.listsHit ch d.dests = [] →
          answers e.1 s fun t =>
            t.chan ch = { c with
              ahead := rest, cur := some d, iter := 0, part := 0, dno := c.dno + 1, dests := c.dests ++ d.dests
              since := if d.barrier then [] else c.since ++ d.dests
              st := if d.op = 2 ∧ d.barrier = true ∨ d.op ≠ 2 ∧ d.c0 * d.c1 * d.c2 = 0 ∧ d.barrier = true then .barrier
                else .running } ∧
            (∀ n, n ≠ ch.val → t.chan n = s.chan n) ∧ s.changes t [.mov]) ∧
        (d.overlaps c.since = true ∨ s.worksHit d.dests ≠ [] ∨ s.listsHit ch d.dests ≠ [] → answers e.1 s fun t =>
          (t.chan ch).cur = some d ∧ (t.chan ch).broken = true ∧
            (∀ r ∈ s.runsOf (s.chanDomain ch) d.dests, r ∈ t.wild) ∧ s.changes t [.wild, .mov]))) ∧
  (∀ (ch : ChanId) (d : MoverDesc) (s : State),
    let c := s.chan ch
    s.targetOn = true → (c.st = .running ∨ c.st = .barrier ∨ c.st = .faultWait) → c.cur = some d → d.total ≤ c.iter →
    (d.barrier = true → s.chanQuiet ch = true) →
    answers (.moverDescriptorComplete ch) s fun t =>
      (t.chan ch).last = (if d.irq then d.tag else c.last) ∧ (t.chan ch).cur = none ∧
      (d.irq = true → bitOf (t.noticeBits Reg.mvNotice) ch = true) ∧ (d.irq = false → t.notices = s.notices) ∧
      (d.last = false → (t.chan ch).st = .running ∧ (t.chan ch).list = c.list ∧ (t.chan ch).ahead = c.ahead) ∧
      (d.last = true → c.heads = [] → (t.chan ch).st = .idle ∧ (t.chan ch).code = 0) ∧
      (d.last = true → c.heads ≠ [] → (t.chan ch).st = .running ∧ (t.chan ch).heads = c.heads.tail) ∧
      (∀ n, n ≠ ch.val → t.chan n = s.chan n) ∧
      s.changes t [.fresh, .notices, .mov, .obs]) ∧
  (∀ (ch : FwChanId) (desc : Bytes) (phys : Bool) (s : State), s.sk.up = true → s.sk.skLost = false → s.targetOn = true →
    (s.chan (28 + ch.val)).st = .idle →
    answers (.firmwareChannelStart ch desc phys) s fun t =>
      (t.chan (28 + ch.val)).st = .running ∧ (t.chan (28 + ch.val)).code = 0 ∧ (t.chan (28 + ch.val)).list = none ∧
      (∃ b, (t.chan (28 + ch.val)).ahead = [(0, some b)] ∧ (MoverDesc.ofBytes b).last = true ∧
        ∀ i, i ≠ 1 → i < 64 → b.getD i 0#8 = desc.getD i 0#8) ∧
      (∀ n, n ≠ 28 + ch.val → t.chan n = s.chan n) ∧ s.changes t [.mov])

/-- MOVER_BURST_GRANT (R229, R243, R245, R246, R250, R251). COLD_FETCH_RETURN (R229, R267, R410). -/
def Obligations.MoverBursts : Prop :=
  ((∀ (ch : Nat) (d : MoverDesc) (b : NextBurst) (a n x : Nat) (s : State),
     let c := s.chan ch
     let data := if d.op = 1 then fillBytes d.src c.part n else swapUnits d.swap (s.load x n)
     let out := data.take n
     s.targetOn = true → (∀ i < 32, s.settleChan i = s) → s.burstsInFlight < 256 → s.grantChan = some ch →
     (s.grantCold = none ∨ s.mov.lastCold = true) → s.nextBurst ch = some (d, b) → b.dsts = [(a, n)] → n = b.bytes →
     spaceOf a = 1 → a + n ≤ 2 ^ 52 → out ≠ [] → (d.op = 1 ∧ b.srcs = []) ∨ (d.op = 0 ∧ b.srcs = [(x, n)] ∧ spaceOf x = 1 ∧ c.reads = []) →
     answers .moverBurstGrant s fun t =>
       t.mem = (s.store a out).mem ∧
       (s.chanDomain ch ≠ 16 → s.tableHit a out.length = true ∨ s.holdsRow a out.length = true →
         ⟨⟨a, out.length, 0, 1⟩, some (s.cfg.domain (s.chanDomain ch))⟩ ∈ t.wild) ∧
       (t.chan ch).iter * 2 ^ d.esize + (t.chan ch).part = c.iter * 2 ^ d.esize + c.part + n ∧
       (t.chan ch).cur = some d ∧ (t.chan ch).reads = c.reads ∧ (∀ i, i ≠ ch → t.chan i = s.chan i) ∧
       t.mov.slot = (s.mov.slot + 1) % 15 ∧ t.mov.lastCold = false ∧
       t.mov.lastOf.get 0 (s.chanPrio ch) = (ch + 1) % 32) ∧
   (∀ (c : Cold) (a n i : Nat) (e : TcEnt) (s : State), s.targetOn = true →
     (∀ i < 32, s.settleChan i = s) →
     s.grantCold = some c → (s.grantChan = none ∨ s.mov.lastCold = false) → c.granules = (a, n) → hostRanges a n = [(a, n)] →
     c.domain ≠ 16 → s.tcFind (s.cfg.domain c.domain).pasid (spaceOf a) (a % 2 ^ 48) = some (i, e) → e.r = true → n ≠ 0 →
     answers .moverBurstGrant s fun t =>
       t.mov.cold = s.mov.cold.filter (· != c) ∧ t.mov.flight = s.mov.flight ++ [⟨c, n, [], false⟩] ∧ t.mov.lastCold = true ∧
       t.counterAt 0x010 = s.counterAt 0x010 + 1 ∧ t.mem = s.mem ∧ t.mov.chans = s.mov.chans)) ∧
  (∀ (tag : BitVec 23) (f : ColdFlight) (x : FSlot) (pre post : List ColdFlight) (s : State),
     let p := fld tag.toNat 14 9
     let n := fld tag.toNat 8 0
     s.targetOn = true → s.mov.flight = pre ++ f :: post → f.c.tag = tag.toNat → 
     (f.left = 0 ∨ (f.bad = true ∧ s.readPending (fun o => o == .cold tag.toNat) 0 (2 ^ 53) = false)) →
     (∀ g ∈ pre ++ post, g.c.tag ≠ tag.toNat) → (s.engine p).slots.get none n = some x → x.epoch = fld tag.toNat 22 15 →
     x.joined = false → x.data = none →
     answers (.coldFetchReturn tag) s fun t =>
       t.mov.flight = pre ++ post ∧
       (t.engine p).slots.get none n = some { x with
         err := f.bad
         data := if f.bad then none
           else some ((List.range f.c.len).map fun i => (stagedByte f.parts (f.c.addr + i)).getD 0#8) } ∧
       s.changes t [.eng, .net, .mov, .obs])

/-- Faults and invalidations (R259, R262, R265). Promotion and demotion (R231, R232, R235). -/
def Obligations.TranslationAndPromotion : Prop :=
  ((∀ (e : FaultId) (f : FaultEnt) (s : State), s.faultEnt e = some f → f.walking = false → s.sk.up = true →
     s.sk.skLost = false → s.targetOn = true → (s.mov.faults.countP fun x => x.2.any FaultEnt.walking) < 8 →
     answers (.faultTake e) s fun t => t.faultEnt e = some { f with walking := true } ∧
       (∀ i, i ≠ e.val → t.faultEnt i = s.faultEnt i) ∧ s.changes t [.mov]) ∧
   (∀ (e : FaultId) (f : FaultEnt) (res : Option PageMapping) (s : State), s.faultEnt e = some f → f.walking = true →
     s.sk.up = true → s.sk.skLost = false → s.targetOn = true →
     (f.stale = true → answers (.walkDone e res) s fun t => t.faultEnt e = some { f with stale := false } ∧
       t.counterAt 0x017 = s.counterAt 0x017 + 1 ∧ s.changes t [.mov, .obs]) ∧
     (∀ m i a, f.stale = false → res = some m → s.mov.faults = [(e.val, some f)] → s.mov.port = [] → f.waiters = [a] →
       s.tcPlace = some i → a.write = false → a.len ≠ 0 → a.domain ≠ 16 → (s.cfg.domain a.domain).pasid = f.pasid →
       spaceOf a.addr = f.space → f.va = a.addr % 2 ^ 48 / 2 ^ 28 * 2 ^ 28 → m.r = true →
       (∀ x ∈ s.mov.tc, ∀ y, x.2 = some y → x.1 ≠ i → y.covers f.pasid f.space (a.addr % 2 ^ 48) = false) →
       (∀ g, a.own ≠ .cold g) →
       let size := if m.big then 2 ^ 34 else 2 ^ 28
       answers (.walkDone e res) s fun t =>
         t.faultEnt e = none ∧ t.counterAt 0x016 = s.counterAt 0x016 + 1 ∧
         (∃ y, t.tcEnt i = some y ∧ y.big = m.big ∧ y.space = f.space ∧ y.pasid = f.pasid ∧ y.va = f.va / size * size ∧
           y.pa = m.pa / size * size ∧ y.r = m.r ∧ y.w = m.w ∧ y.a = m.a) ∧
         (∃ c r, (t.hiChan c).queue = (s.hiChan c).queue ++ [r] ∧ r.own = a.own ∧ r.ty = .read ∧ r.len = a.len ∧
           r.pa = m.pa / size * size + a.addr % 2 ^ 48 % size))) ∧
   (∀ (sc : InvScope) (s : State), s.targetOn = true → answers (.translationInvalidate sc) s fun t =>
     (∀ i y, t.tcEnt i = some y → inScope sc y.pasid y.space y.va y.size = false) ∧
     (∀ i y, s.tcEnt i = some y → inScope sc y.pasid y.space y.va y.size = false → t.tcEnt i = some y) ∧
     (∀ i f, s.faultEnt i = some f → t.faultEnt i =
       some (if inScope sc f.pasid f.space f.va (2 ^ 28) then { f with stale := true } else f)) ∧
     (∀ i p, s.frame i = .held p → inScope sc p.pasid p.space p.va (if p.big then 2 ^ 34 else 2 ^ 28) = true →
       t.frame i = .draining) ∧
     t.mov.invals.length = s.mov.invals.length + 1 ∧ t.counterAt 0x018 = s.counterAt 0x018 + 1 ∧ s.changes t [.mov, .obs]) ∧
   (∀ (es : List TcEnt) (n : Nat) (rest : List (List TcEnt × Nat)) (s : State), s.mov.invals = (es, n) :: rest →
     s.targetOn = true → s.invalBusy es n = false →
     answers .invalidationDone s fun t => t.mov.invals = rest ∧ t.mov.invalDone = s.mov.invalDone + 1 ∧ s.changes t [.mov])) ∧
  ((∀ (i : TcId) (fr : FrameId) (recent : List FrameId) (e : TcEnt) (s : State), s.tcEnt i = some e → s.skOn = true →
     s.targetOn = true → s.quiescing = false → s.hotPage e = true → fr.val ∈ s.cfg.framesOf e.big → s.frame fr = .free →
     (∀ x ∈ s.mov.frames, x.2.isFor e.promo = false ∧ x.2.copies = false) →
     s.levelAt (1 + stackOf (s.cfg.frameAddr fr)) < 2 → ((s.chan 29).st = .idle ∨ (s.chan 30).st = .idle) →
     answers (.promotionStart i fr recent) s fun t =>
       (∃ ch b, (ch = 29 ∨ ch = 30) ∧ t.frame fr = .copying e.promo ch ∧ (s.chan ch).st = .idle ∧
         (t.chan ch).st = .running ∧ (t.chan ch).ahead = [(0, some b)] ∧
         (s.cfg.frameAddr fr < 2 ^ 52 → (MoverDesc.ofBytes b).dst = s.cfg.frameAddr fr) ∧
         ∀ n, n ≠ ch → t.chan n = s.chan n) ∧
       (∀ f, f ≠ fr.val → t.frame f = s.frame f) ∧ s.changes t [.mov]) ∧
   (∀ (f ch : Nat) (p : Promo) (s : State), s.mov.frames.find? (fun x => x.2.copies) = some (f, .copying p ch) →
     s.skOn = true → s.targetOn = true → s.frameWritten f = false →
     s.levelAt (1 + stackOf (s.cfg.frameAddr f)) < 3 →
     answers .promotionCopyDone s fun t => t.frame f = .held p ∧ t.counterAt 0x012 = s.counterAt 0x012 + 1 ∧
       (∀ g, g ≠ f → t.frame g = s.frame g) ∧ s.changes t [.mov, .obs]) ∧
   (∀ (fr : FrameId) (p : Promo) (s : State), s.skOn = true → s.targetOn = true → s.frame fr = .held p →
     answers (.demotion fr) s fun t => t.frame fr = .draining ∧ t.counterAt 0x013 = s.counterAt 0x013 + 1 ∧
       (∀ g, g ≠ fr.val → t.frame g = s.frame g) ∧ s.changes t [.mov, .obs]) ∧
   (∀ (fr : FrameId) (s : State), s.skOn = true → s.targetOn = true → s.frame fr = .draining →
     s.frameWritten fr = false →
     (∀ e ∈ s.eng.engines, ∀ x ∈ e.2.slots, ∀ f, x.2 = some f → f.frame = some fr.val → f.data.isSome = true ∨ f.err = true) →
     answers (.frameFree fr) s fun t => t.frame fr = .free ∧ (∀ g, g ≠ fr.val → t.frame g = s.frame g) ∧ s.changes t [.mov]))

/-- The host epoch (R291 to R294). -/
def Obligations.HostEpochRises : Prop :=
  (∀ (rstN linkUp : Bool) (s : State), s.targetOn = true →
    (s.host.rstN = true ∧ rstN = false) ∨ (s.host.linkUp = true ∧ linkUp = false) →
    answers (.hostEpochRise rstN linkUp) s fun t =>
      (t.host.epoch = (s.host.epoch + 1) % 2 ^ 16 ∧ t.host.rstN = rstN ∧ t.host.linkUp = linkUp ∧ t.host.portUp = false) ∧
      (s.host.waiting = [] →
        bitOf (t.noticeBits Reg.rgEvent) 0 = true ∧ t.host.waiting = [] ∧
        (∀ c < 4, (t.hiChan c).credits = 0 ∧ (t.hiChan c).beats = 0) ∧
        (∀ r < 64, s.hostRing r = true → (t.ring r).epochStop = true ∧ t.ringEn r = false ∧ (t.ring r).fetched = []))) ∧
  (∀ (rstN linkUp : Bool) (s : State), s.targetOn = true →
    ¬ (s.host.rstN = true ∧ rstN = false) → ¬ (s.host.linkUp = true ∧ linkUp = false) →
    answers (.hostEpochRise rstN linkUp) s fun t =>
      t.host = { s.host with rstN := rstN, linkUp := linkUp } ∧ s.changes t [.host]) ∧
  (∀ s : State, s.targetOn = true → answers .hostPortResume s fun t =>
    t.host = { s.host with rstN := true, linkUp := true, portUp := true } ∧ s.changes t [.host]) ∧
  State.reset.host.epoch = 0

/-- Credits and issue of the initiator channels (R21, R109, R270, R275, R276). -/
def Obligations.InitiatorRequests : Prop :=
  (∀ (c : HiChanId) (s : State), s.targetOn = true → s.host.portUp = true →
    answers (.requestCredit c) s fun t =>
      t.hiChan c = { s.hiChan c with
        credits := (s.hiChan c).credits + 1, queue := (s.hiChan c).queue ++ (s.hiChan hiPool).queue } ∧
      (t.hiChan hiPool).queue = [] ∧ (∀ d < 4, d ≠ c.val → t.hiChan d = s.hiChan d) ∧ s.changes t [.hi]) ∧
  (∀ (c : HiChanId) (s : State), s.targetOn = true → s.host.portUp = true →
    answers (.writeBeatCredit c) s fun t =>
      t.hiChan c = { s.hiChan c with beats := (s.hiChan c).beats + 1 } ∧
      (∀ d, d ≠ c.val → t.hiChan d = s.hiChan d) ∧ s.changes t [.hi]) ∧
  (∀ s : State, s.targetOn = true → answers .targetCreditStart s fun t =>
    t.pwr = (if s.pwr.credits then s.pwr else { s.pwr with credits := true, wcred := 64, rcred := 8 }) ∧
      s.changes t [.pwr]) ∧
  (∀ (c : HiChanId) (s : State),
    let q := s.hiChan c
    let hs := (s.heads [] q.queue).filter fun r =>
      decide (r.beats ≤ q.beats ∧ (r.ty = .read → (q.flight.countP fun e => e.2.any fun x => x.ty == .read) < 1024))
    s.targetOn = true → s.host.portUp = true → q.credits ≠ 0 → hs ≠ [] →
    (q.freeId 0).isSome = true → (q.freeId 1024).isSome = true →
    answers (.initiatorIssue c) s fun t =>
      (∃ r ∈ hs, ((∃ x ∈ hs, x.cls = 0) → r.cls = 0) ∧
        ∃ i, (∀ x, q.flight.get none i = some x → x.old = true) ∧ (1024 ≤ i ↔ r.ty ≠ .read) ∧
          t.hiChan c = { q with
            credits := q.credits - 1, beats := q.beats - r.beats
            queue := eraseFirst (fun x => x == r) q.queue, flight := q.flight.set none i (some r) }) ∧
      (∀ d, d ≠ c.val → t.hiChan d = s.hiChan d) ∧ s.changes t [.fresh, .disp, .hi])

/-- READ_DATA and WRITE_RESPONSE (R275, R286, R292). -/
def Obligations.InitiatorAnswers : Prop :=
  (∀ (c : HiChanId) (id : ReqId) (resp : Resp) (data : Bytes) (r : HiReq) (s : State),
    (s.hiChan c).flight.get none id.toNat = some r →
    let freed (t : State) : Prop := (t.hiChan c).flight.get none id.toNat = none ∧ t.mem = s.mem
    let b := fit r.len data
    (r.old = true → answers (.readData c id resp data) s fun t => freed t ∧ s.changes t [.hi]) ∧
    (∀ w k, r.old = false → resp = .ok → r.own = .work w → s.work w = some k → k.ended = false →
      answers (.readData c id resp data) s fun t => freed t ∧
        (∃ k', t.work w = some k' ∧ k'.staged = k.staged ++ [(r.dev, b)] ∧ k'.ended = false) ∧
        (∀ v, v ≠ w → t.work v = s.work v) ∧ s.changes t [.disp, .hi]) ∧
    (∀ g slot, r.old = false → resp = .ok → r.own = .descr g slot →
      answers (.readData c id resp data) s fun t => freed t ∧
        (t.ring g).fetched = ((s.ring g).fetched.map fun e => if e.1 = slot ∧ e.2 = .reading then (slot, .bytes b) else e) ∧
        (∀ h, h ≠ g → t.ring h = s.ring h) ∧ s.changes t [.disp, .hi]) ∧
    (∀ tag, r.old = false → resp = .ok → r.own = .cold tag →
      answers (.readData c id resp data) s fun t => freed t ∧
        t.mov.flight = s.mov.flight.map (fun f => if f.c.tag = tag then
          { f with left := f.left - r.len, parts := f.parts ++ [(r.dev, b)] } else f) ∧ s.changes t [.mov, .hi]) ∧
    (∀ g slot, r.old = false → resp = .denied → r.own = .descr g slot →
      answers (.readData c id resp data) s fun t => freed t ∧
        (t.ring g).fetched = ((s.ring g).fetched.map fun e => if e.1 = slot ∧ e.2 = .reading then (slot, .unreadable) else e) ∧
        t.counterAt 0x01B = s.counterAt 0x01B + 1 ∧ s.changes t [.disp, .hi, .obs])) ∧
  (∀ (c : HiChanId) (id : ReqId) (resp : Resp) (r : HiReq) (s : State),
    (s.hiChan c).flight.get none (1024 + id.toNat) = some r →
    let freed (t : State) : Prop := (t.hiChan c).flight.get none (1024 + id.toNat) = none ∧ t.mem = s.mem
    (r.old = true → answers (.writeResponse c id resp) s fun t => freed t ∧ s.changes t [.hi]) ∧
    (∀ w k, r.old = false → resp = .ok → r.own = .result w → s.work w = some k →
      answers (.writeResponse c id resp) s fun t => freed t ∧
        (∃ k', t.work w = some k' ∧ k'.hostUnacked = k.hostUnacked - 1 ∧ k'.unissued = k.unissued) ∧
        (∀ v, v ≠ w → t.work v = s.work v) ∧ s.changes t [.disp, .hi]))

/-- A packet of TYPE ty comes in at port p, and nothing drops or holds it (R298, R299, R391). -/
def Sys2Proof.Machine.State.takesPacket (s : State) (p : PortId) (pkt : PeerRx) (ty : Nat) : Prop :=
  s.peerOn = true ∧ s.dropCause p pkt = none ∧ (PeerHdr.ofBytes pkt.payload).ty = ty ∧
    (ty ≤ 2 → s.quiescing = false) ∧ s.sourceOk pkt = true

/-- A connection after a new PSN (R305). -/
def Sys2Proof.Machine.Conn.takes (k k' : Conn) (psn : Nat) : Prop :=
  (psn = k.exp → k.got = [] → k'.exp = (k.exp + 1) % 2 ^ 32 ∧ k'.got = []) ∧
  (psn ≠ k.exp → k.exp ∉ k.got → k'.exp = k.exp ∧ k'.got = psn :: k.got)

/-- ACK, NAK, MGMT, duplicates and drops (R298, R299, R305, R307 to R310). -/
def Obligations.PeerControlPackets : Prop :=
  (∀ (p : PortId) (pkt : PeerRx) (j : Nat) (s : State), s.peerOn = true → s.dropCause p pkt = some j →
    answers (.peerPacketDrop p pkt) s fun t => t.counterAt (peerCounter p j) = s.counterAt (peerCounter p j) + 1 ∧
      (j = 6 ∧ rxMgmt pkt = true → bitOf (t.noticeBits Reg.pwNotice) 1 = true ∧ s.changes t [.fresh, .notices, .obs]) ∧
      (j ≠ 6 ∨ rxMgmt pkt = false → s.changes t [.obs])) ∧
  (∀ (p : PortId) (pkt : PeerRx) (s : State), s.peerOn = true → s.dropCause p pkt = none →
    ((PeerHdr.ofBytes pkt.payload).ty ≤ 2 → s.quiescing = false) → s.sourceOk pkt = false →
    ∀ e ∈ [(Instr.write p pkt, 0), (.readReq p pkt, 1), (.readResp p pkt, 2), (.ack p pkt, 3),
      (.nak p pkt, 4)], (PeerHdr.ofBytes pkt.payload).ty = e.2 →
    answers e.1 s fun t => t.counterAt (peerCounter p 8) = s.counterAt (peerCounter p 8) + 1 ∧ s.changes t [.obs]) ∧
  (∀ (p : PortId) (pkt : PeerRx) (s : State),
    let h := PeerHdr.ofBytes pkt.payload
    let k := s.conn h.conn
    let c := h.conn
    let s' := s.applyAck c h.ack h.sack
    (k.recorded h.psn = true → ∀ e ∈ [(Instr.write p pkt, 0), (.readReq p pkt, 1), (.readResp p pkt, 2)],
      s.takesPacket p pkt e.2 → (∀ x ∈ k.naks, x.1 ≠ h.psn) →
      answers e.1 s fun t => t.counterAt (peerCounter p 3) = s.counterAt (peerCounter p 3) + 1 ∧
        (t.conn c).exp = k.exp ∧ (t.conn c).got = k.got ∧
        (∃ b, (t.port (s.cnPort c)).queue = (s'.port (s.cnPort c)).queue ++ [⟨0, c, b, none, none⟩] ∧
          (PeerHdr.ofBytes b).ty = 3) ∧
        s.changes t [.peer, .obs]) ∧
    (k.want = [] → s.takesPacket p pkt 3 → psnBefore k.una h.ack = true →
      answers (.ack p pkt) s fun t =>
        (t.conn h.conn).una = h.ack ∧ (t.conn h.conn).lost = false ∧ (t.conn h.conn).expiries = 0 ∧
        (∀ x ∈ (t.conn h.conn).sent, psnBefore x.psn h.ack = false) ∧
        (∀ x ∈ k.sent, psnBefore x.psn h.ack = false → h.sack = 0 → ∃ y ∈ (t.conn h.conn).sent, y.psn = x.psn) ∧
        t.mem = s.mem ∧ s.changes t [.peer, .obs]) ∧
    (k.want = [] → s.takesPacket p pkt 4 → ∀ x ch a, (k.sent ++ k.past).find? (fun y => y.psn == h.ack) = some x → x.ch = some (ch, a) →
      (s.chan ch).st ≠ .idle → (x.ty = 1 → x.dno ≠ 0 ∧ ∀ r ∈ k.reads, r.id = x.aux → r.burst ≠ none) →
      answers (.nak p pkt) s fun t =>
        (∀ y ∈ (t.conn h.conn).sent, y.psn ≠ h.ack) ∧ (t.chan ch).st = .stopping ∧
        (t.chan ch).stop = some ((s.chan ch).stop.getD 1) ∧
        t.counterAt (peerCounter p 10) = s.counterAt (peerCounter p 10) + 1)) ∧
  (∀ (p : PortId) (pkt : PeerRx) (s : State), s.peerOn = true → s.dropCause p pkt = none →
    (PeerHdr.ofBytes pkt.payload).ty = 8 → s.sourceOk pkt = true →
    s.sk.up = true → s.sk.skLost = false →
    (∀ key seq msg, s.mgmtCheck pkt = some (key, seq, msg) → answers (.mgmt p pkt) s fun t =>
      (t.port p).mgmtIn = (s.port p).mgmtIn ++ [((PeerHdr.ofBytes pkt.payload).conn, key, msg)] ∧ (t.sk.hmac.getD key none).map (·.2) = some seq ∧
      t.counterAt (peerCounter p 12) = s.counterAt (peerCounter p 12) + 1) ∧
    (s.mgmtCheck pkt = none → answers (.mgmt p pkt) s fun t =>
      bitOf (t.noticeBits Reg.pwNotice) 1 = true ∧ t.peer = s.peer ∧
      t.counterAt (peerCounter p 13) = s.counterAt (peerCounter p 13) + 1))

/-- WRITE, READ_REQ and READ_RESP (R301, R304, R305, R309). Timers and transmission (R306 to R308, R312). -/
def Obligations.PeerDataAndTimers : Prop :=
  (∀ (p : PortId) (pkt : PeerRx) (s : State),
     let h := PeerHdr.ofBytes pkt.payload
     let c := h.conn
     let k := s.conn c
     let data := rxData pkt
     let s' := s.applyAck c h.ack h.sack
     let k' := s'.conn c
     k.recorded h.psn = false → posDiff h.psn k.exp < 256 →
     (s.takesPacket p pkt 0 → ∀ dom a, s.inWindow c h.win h.off h.len 2 = .ok (dom, a) → spaceOf a = 0 → data ≠ [] →
       data.length = h.len → a + h.len ≤ 2 ^ 52 → splitAt 4096 a data = [(a, data)] →
       answers (.write p pkt) s fun t => k.takes (t.conn c) h.psn ∧ t.mem = s.mem ∧
         ∃ m, (t.link (s.ownerAgent a)).out.queue = (s.link (s.ownerAgent a)).out.queue ++ [⟨m, .peer c h.psn⟩] ∧
           m.mtype = 3 ∧ m.addr = a ∧ m.body = data ∧ m.cls = 2) ∧
     (s.takesPacket p pkt 1 → ∀ dom a, s.inWindow c h.win h.off h.len 1 = .ok (dom, a) → spaceOf a = 0 →
       answers (.readReq p pkt) s fun t => k.takes (t.conn c) h.psn ∧ t.mem = s.mem ∧
         let isResp (x : Sent) := x.ty = 2 ∧ x.aux = h.aux ∧ x.len = h.len ∧ x.data = s.load a h.len
         (∃ x ∈ (t.conn c).want ++ (t.conn c).sent, isResp x) ∧
         (k'.want = [] → s'.peerRoom c = true →
           (t.conn c).next = (k'.next + 1) % 2 ^ 32 ∧ ∃ x ∈ (t.conn c).sent, isResp x ∧ x.psn = k'.next)) ∧
     ((∀ x ∈ k.naks, x.1 ≠ h.psn) →
       (∀ code, s.takesPacket p pkt 0 ∧ s.inWindow c h.win h.off h.len 2 = .error code →
         answers (.write p pkt) s fun t => k.takes (t.conn c) h.psn ∧ t.mem = s.mem ∧ t.net = s.net ∧
           (h.psn, code) ∈ (t.conn c).naks) ∧
       (∀ code, s.takesPacket p pkt 1 ∧ s.inWindow c h.win h.off h.len 1 = .error code →
         answers (.readReq p pkt) s fun t => k.takes (t.conn c) h.psn ∧ t.mem = s.mem ∧ t.net = s.net ∧
           (h.psn, code) ∈ (t.conn c).naks)) ∧
     (s.takesPacket p pkt 2 → ∀ ch n a d pa r, k.reads.filter (fun x => x.id == h.aux) = [⟨h.aux, ch, some n, a, h.len⟩] →
       let out := (swapUnits r.swap data).take h.len
       (s.chan ch).reads = [r] → r.num = n → r.srcs = [(a, h.len)] → r.got = [] → r.dsts = [(d, pa, h.len)] →
       spaceOf d = 1 → data.length = h.len → out ≠ [] → d + out.length ≤ 2 ^ 52 → s.allows r.domain d out.length 2 = true →
       answers (.readResp p pkt) s fun t => k.takes (t.conn c) h.psn ∧
         t.mem = (s.store d out).mem ∧ (t.chan ch).reads = [] ∧ (∀ x ∈ (t.conn c).reads, x.id ≠ h.aux))) ∧
  ((∀ (c : ConnId) (s : State), s.peerOn = true → s.cnValid c = true → ((s.conn c).since ≠ 0 ∨ (s.conn c).owes = true) →
     answers (.peerAckTimer c) s fun t =>
       t.conn c = { s.conn c with
         since := 0, owes := decide ((s.conn c).ackable ≠ [])
         due := (s.conn c).due.filter (s.conn c).ackable.contains } ∧
       (∃ b, (t.port (s.cnPort c)).queue = (s.port (s.cnPort c)).queue ++ [⟨0, c, b, none, none⟩] ∧
         (PeerHdr.ofBytes b).ty = 3) ∧ s.changes t [.peer]) ∧
   (∀ (c : ConnId) (s : State),
     let k := s.conn c
     s.peerOn = true → s.cnValid c = true → k.sent ≠ [] → (∀ x ∈ k.sent, s.queuedPsn c x.psn = false) →
     answers (.peerRtoExpire c) s fun t =>
       (t.conn c).expiries = min 15 (k.expiries + 1) ∧ (t.conn c).sent.map Sent.psn = k.sent.map Sent.psn ∧
       (t.conn c).lost = (k.lost || decide (8 ≤ min 15 (k.expiries + 1))) ∧
       (8 ≤ min 15 (k.expiries + 1) → k.lost = false → bitOf (t.noticeBits Reg.pwNotice) 0 = true) ∧
       (t.port (s.cnPort c)).queue = (s.port (s.cnPort c)).queue ++ k.sent.map fun x => ⟨2, c, [], some x.psn, none⟩) ∧
   (∀ (p : PortId) (x : PeerTx) (s : State),
     let q := s.port p
     let first (n : Nat) := q.queue.find? fun y => y.kind == n
     s.peerOn = true → s.cnValid x.conn = true →
     some x = ((if 15 ≤ q.starts then first 1 else none).or (first 0)).or ((first 2).or (first 1)) →
     let ctl := s.reg (Reg.pwCn x.conn + 0x10)
     let side (z : PeerSide) := z.ipv6 = bitOf ctl 1 ∧ z.dport = fld ctl 31 16 ∧ z.sport = s.regFld Reg.pwCtl 31 16 ∧
       z.dscp = (if x.kind = 1 then s.regFld Reg.pwCtl 45 40 else s.regFld Reg.pwCtl 37 32) ∧
       z.dstIp = if bitOf ctl 1 then s.reg (Reg.pwCn x.conn) + s.reg (Reg.pwCn x.conn + 8) * 2 ^ 64
         else fld (s.reg (Reg.pwCn x.conn)) 31 0
     (x.psn = none → answers (.peerPacketStart p) s fun t =>
       (∃ z, side z ∧ t.port p = { q with
         queue := eraseFirst (fun y => y == x) q.queue, starts := if x.kind = 1 then 0 else q.starts + 1
         sent := q.sent ++ [{ x with side := some z }] }) ∧
       t.counterAt (peerCounter p 0) = s.counterAt (peerCounter p 0) + 1 ∧ s.changes t [.peer, .obs]) ∧
     (∀ n y, x.psn = some n → (s.conn x.conn).sent.find? (fun z => z.psn == n) = some y →
       answers (.peerPacketStart p) s fun t =>
         (t.port p).queue = eraseFirst (fun y => y == x) q.queue ∧
         (∃ z, side z ∧ (t.port p).sent = q.sent ++ [{ x with payload := s.seqPayload x.conn y, side := some z }]) ∧
         (t.conn x.conn).sent = (s.conn x.conn).sent.map (fun w => if w.psn = n then { w with started := true } else w) ∧
         (t.conn x.conn).since = 0 ∧
         (y.started = true → t.counterAt (peerCounter p 1) = s.counterAt (peerCounter p 1) + 1) ∧
         s.changes t [.peer, .obs])))

/-- Training of a link (R318 to R321, R332). RETRAIN and DOWN (R326 to R328, R417). That no step timeout and no other
EXCHANGE takes out a link held at a mismatch is the model's reading of R320 (log entry 40). -/
def Obligations.LinkStates : Prop :=
  ((∀ (n : AgentId) (s : State), s.bothUp n = true → (s.link n).st = .down →
     ((s.link n).step = .idle → answers (.linkTrainStart n) s fun t =>
       t.link n = { s.link n with step := .detect, exchanged := false, heldMismatch := false } ∧
       (∀ m, m ≠ n.val → t.link m = s.link m) ∧ s.changes t [.net]) ∧
     ((s.link n).step ≠ .idle → (s.link n).heldMismatch = false → answers (.trainingStepTimeout n) s fun t =>
       t.link n = { s.link n with step := .detect, exchanged := false } ∧
       (∀ m, m ≠ n.val → t.link m = s.link m) ∧ s.changes t [.net]) ∧
     ((s.link n).heldMismatch = true → exec (.trainingStepTimeout n) s = .next s ∧
       ∀ a st cap v, exec (.exchange n a st cap v) s = .next s) ∧
     (∀ a st cap v, (s.link n).step ≠ .idle → (s.link n).heldMismatch = false → answers (.exchange n a st cap v) s fun t =>
       (t.link n).st = .down ∧ (t.link n).step = .exchange ∧
       (a = n.val ∧ st = n.val / 2 → (t.link n).exchanged = true ∧ (t.link n).heldMismatch = false ∧
         (t.agent n).capGib = cap ∧ (t.agent n).stackNo = st) ∧
       (¬ (a = n.val ∧ st = n.val / 2) → (t.link n).exchanged = false ∧ (t.link n).heldMismatch = true ∧
         t.agent n = s.agent n) ∧
       (∀ m, m ≠ n.val → t.link m = s.link m) ∧ s.changes t [.net]) ∧
     (∀ bo bi, (s.link n).exchanged = true →
       (popcount 52 bo.toNat ≤ 28 → popcount 52 bi.toNat ≤ 28 →
         let r := s.installRemaps n
         ((∀ g ∈ s.sk.repin, s.ownerAgent g.addr ≠ n) ∨ (s.agent n).mig.isSome = true) →
         ((s.agent n).repairDone = false ∨ (s.agent n).out = true ∨ (s.agent n).marker = none ∨
           (r.markerOk n = true ∧ r.validSeal n = none ∧ popcount 52 bo.toNat ≤ 4 ∧ popcount 52 bi.toNat ≤ 4)) →
         answers (.trainingComplete n bo bi) s fun t =>
           (t.link n).st = (if 4 < popcount 52 bo.toNat ∨ 4 < popcount 52 bi.toNat then .degraded else .active) ∧
           (t.link n).step = .idle ∧
           ∀ e ∈ [((t.link n).out, (s.link n).out, bo), ((t.link n).inb, (s.link n).inb, bi)],
             e.1 = { LinkDir.init with
               queue := e.2.1.queue, owed := [512, 3072, 6144, 128], bad := e.2.2.toNat
               half := decide (4 < popcount 52 e.2.2.toNat) }) ∧
       (28 < popcount 52 bo.toNat ∨ 28 < popcount 52 bi.toNat → answers (.trainingComplete n bo bi) s fun t =>
         (t.link n).st = .down ∧ (t.link n).step = .idle ∧ s.changes t [.net])))) ∧
  ((∀ (n : AgentId) (dir : Dir) (lane : LaneId) (s : State), s.linkRuns n = true →
     let l := s.link n
     let entered (t : State) : Prop :=
       t.link n = { l with
         st := .retrain, retrains := satAdd 0xFFFF l.retrains 1, out := { l.out with wire := [] }
         inb := { l.inb with wire := [] } } ∧
       t.counterAt (agentCounter n 14) = s.counterAt (agentCounter n 14) + 1 ∧ (∀ m, m ≠ n.val → t.link m = s.link m) ∧
       s.changes t [.net, .obs]
     ((8 ≤ (s.dir n dir).replays ∨ 3 ≤ (s.dir n dir).failed) → answers (.retrainOnReplays n dir) s entered) ∧
     (s.sk.up = true → s.sk.skLost = false → bitOf (s.dir n dir).bad lane = false →
       answers (.eyeMarginLow n dir lane) s entered)) ∧
   (∀ (n : AgentId) (bo bi : BitVec 52) (s : State), s.bothUp n = true → (s.link n).st = .retrain →
     let l := s.link n
     let lo := l.out.bad ||| bo.toNat
     let li := l.inb.bad ||| bi.toNat
     popcount 52 lo ≤ 28 → popcount 52 li ≤ 28 →
     answers (.retrainComplete n bo bi) s fun t =>
       ((t.link n).st = .active ∨ (t.link n).st = .degraded) ∧
       ((t.link n).st = .active ↔ l.out.half = false ∧ l.inb.half = false ∧ popcount 52 lo ≤ 4 ∧ popcount 52 li ≤ 4) ∧
       (t.link n).out.bad = lo ∧ (t.link n).inb.bad = li ∧ (t.link n).out.retry = l.out.retry ∧
       (t.link n).out.resend = l.out.retry.length ∧ (t.link n).out.seq = l.out.seq ∧
       (t.link n).out.queue = l.out.queue ∧ (t.link n).out.credits = l.out.credits ∧
       (t.link n).inb.resend = l.inb.retry.length) ∧
   (∀ (n : AgentId) (dir : Dir) (s : State),
     let fell (t : State) : Prop :=
       (t.link n).st = .down ∧ (t.link n).step = .idle ∧ (t.link n).out.wire = [] ∧ (t.link n).out.retry = [] ∧
       (t.link n).out.streams = [[], [], []] ∧ (t.link n).inb.wire = [] ∧ (t.link n).inb.inbox = [] ∧
       bitOf (t.noticeBits (Reg.maNotice n)) 1 = true
     (s.targetOn = true → (s.link n).up = true → answers (.noFlitTimeout n dir) s fell) ∧
     (s.bothUp n = true → (s.link n).st = .retrain → answers (.trainingStepTimeout n) s fell)))

/-- A message starts in a direction (R332): it, or the reads that it packs, leave the queue, it takes its credits,
and its bytes follow those of its virtual channel. -/
def Sys2Proof.Machine.LinkDir.started (q : LinkDir) (gone : List OutMsg) (m : Msg) : LinkDir :=
  { q with
    queue := gone.foldl (fun l x => eraseFirst (fun y => y == x) l) q.queue
    credits := q.credits.modify m.vc (· - m.units), used := q.used ++ [(m.vc, m.cls, m.units)]
    streams := if m.vc = 3 then q.streams else q.streams.modify m.vc (· ++ m.encode)
    mgmt := if m.vc = 3 then q.mgmt ++ m.encode else q.mgmt }

/-- FLIT_SLOT (R322 to R325) and LINK_MESSAGE_SEND (R21, R331, R332, R335). -/
def Obligations.FlitSlots : Prop :=
  (∀ (n : AgentId) (dir : Dir) (s : State), s.linkRuns n = true → s.sender n dir = true →
    let q := s.dir n dir
    let sends (ty : Nat) (P : LinkDir → Flit → Prop) : Prop := answers (.flitSlot n dir) s fun t =>
      (∃ f, flitOk f.bytes = true ∧ (FHdr.ofBytes f.bytes).ty = ty ∧ (t.dir n dir).wire = q.wire ++ [f] ∧
        P (t.dir n dir) f) ∧ s.changes t [.fresh, .net]
    let unsequenced (q' : LinkDir) (_ : Flit) : Prop := q'.seq = q.seq ∧ q'.retry = q.retry ∧ q'.streams = q.streams
    let sequenced (q' : LinkDir) (f : Flit) : Prop :=
      q'.seq = (q.seq + 1) % 4096 ∧ q'.retry = q.retry ++ [f] ∧ (q.seq < 4096 → (FHdr.ofBytes f.bytes).seq = q.seq)
    let empty := ∀ b ∈ q.streams, b = []
    (q.retrySend = true → sends 3 fun q' f => unsequenced q' f ∧ q'.retrySend = false) ∧
    (q.retrySend = false → 0 < q.resend → q.resend ≤ q.retry.length → answers (.flitSlot n dir) s fun t =>
      (t.dir n dir).resend = q.resend - 1 ∧ (t.dir n dir).seq = q.seq ∧ (t.dir n dir).retry = q.retry ∧
      (t.dir n dir).wire = q.wire ++ [q.retry.getD (q.retry.length - q.resend) default] ∧ s.changes t [.net]) ∧
    (q.retrySend = false → q.resend = 0 →
      (128 ≤ q.retry.length → sends 0 unsequenced) ∧
      (q.retry.length < 128 → q.slot = 31 → sends 2 fun q' f => sequenced q' f ∧ q'.streams = q.streams ∧ q'.slot = 0 ∧
        (f.trig = true ↔ dir = .out ∧ s.obs.snap.st = .latching ∧ n.val ∈ s.obs.snap.waiting)) ∧
      (q.retry.length < 128 → q.slot < 31 → ¬ empty → sends 1 fun q' f => sequenced q' f ∧ q'.slot = q.slot + 1 ∧
        (∃ order ∈ [[0, 1, 2], [0, 2, 1]], f.slots = (q.fill order).2.1 ∧ q'.streams = (q.fill order).2.2 ∧
          ∀ i < 256, f.bytes.getD (8 + i) 0#8 = (q.fill order).1.getD i 0#8) ∧
        ∀ i, i < 256 → i < (q.streams.getD 0 []).length → f.bytes.getD (8 + i) 0#8 = (q.streams.getD 0 []).getD i 0#8) ∧
      (q.retry.length < 128 → q.slot < 31 → empty → sends 0 fun q' f => unsequenced q' f ∧ q'.slot = q.slot + 1))) ∧
  (∀ (n : AgentId) (dir : Dir) (vc : VcId) (pack : Nat) (s : State), s.linkRuns n = true →
    let q := s.dir n dir
    let mine := q.queue.filter fun x => x.msg.vc == vc.val
    let hs := s.linkHeads dir vc.val mine
    let few (v : Nat) := s.packGroup mine pack v
    let packed (v : Nat) := dir = .out ∧ vc.val = 1 ∧ pack = (few v).length ∧ s.packs (few v) = true
    let room (m : Msg) := q.mayStart vc.val m.cls m.units = true
    (dir = .inb ∨ vc.val = 0 ∨ vc.val = 3 → hs = mine.take 1) ∧ (∀ m ∈ hs, m ∈ mine) ∧
    (dir = .out → vc.val = 1 ∨ vc.val = 2 → ∀ pre m post, mine = pre ++ m :: post →
      m.msg.mtype ≠ 4 ∨ (∀ x ∈ pre, x.msg.mtype ≠ 3) → ((∀ x ∈ pre, s.linkStream x ≠ s.linkStream m) → m ∈ hs)) ∧
    (vc.val = 1 ∨ vc.val = 2 → q.ready 0 = true → exec (.linkMessageSend n dir vc pack) s = .next s) ∧
    (mine ≠ [] → (vc.val = 1 ∨ vc.val = 2 → q.ready 0 = false) →
      ((∀ v, packed v ∧ room (packMsg (few v))) → answers (.linkMessageSend n dir vc pack) s fun t =>
        (∃ v, t.dir n dir = q.started (few v) (packMsg (few v))) ∧ (∀ k, k ≠ n.val → t.link k = s.link k) ∧
          s.changes t [.fresh, .net]) ∧
      ((∀ v, ¬ packed v) → (∀ m ∈ hs, room m.msg) → answers (.linkMessageSend n dir vc pack) s fun t =>
        (∃ m ∈ hs, t.dir n dir = q.started [m] m.msg) ∧ (∀ k, k ≠ n.val → t.link k = s.link k) ∧
          s.changes t [.fresh, .net]) ∧
      ((∀ v, ¬ packed v) → (∀ m ∈ hs, ¬ room m.msg) → answers (.linkMessageSend n dir vc pack) s fun t =>
        t.net = s.net ∧ s.changes t [.fresh])))

/-- Flits received (R323, R325, R326). -/
def Obligations.FlitReception : Prop :=
  (∀ (n : AgentId) (d : Dir) (err : Bytes) (raw : Flit) (rest : List Flit) (s : State), s.linkRuns n = true →
    let q := s.dir n d
    let b := xorBytes raw.bytes err
    let h := FHdr.ofBytes b
    let ty := (FHdr.ofBytes raw.bytes).ty
    let o := s.dir n (opp d)
    let back := o.credits.modify h.vc (· + h.count)
    let takes (v : Nat) (x : Bytes) := takeMsgs ((q.partials.getD v []).length + 256) (q.partials.getD v [] ++ x)
    let freed (t : State) : Prop :=
      (t.dir n (opp d)).retry = o.retry.filter (fun f => !seqBefore (FHdr.ofBytes f.bytes).seq h.ack)
    q.wire = raw :: rest →
    (∀ e ∈ [(Instr.idleFlit n d err, 0), (.dataFlit n d err, 1), (.controlFlit n d err, 2), (.retryFlit n d err, 3)],
      ty = e.2 → (flitOk b = false ∨ ((ty = 1 ∨ ty = 2) ∧ h.seq ≠ q.expect)) → answers e.1 s fun t =>
        (t.dir n d).wire = rest ∧ (t.dir n d).expect = q.expect ∧ (t.dir n d).inbox = q.inbox ∧ (t.dir n d).waiting = true ∧
        (q.waiting = false → (t.dir n (opp d)).retrySend = true) ∧ (t.dir n (opp d)).retry = o.retry ∧
        s.changes t [.net, .obs]) ∧
    (flitOk b = true → ty = 0 → answers (.idleFlit n d err) s fun t =>
      (t.dir n d).wire = rest ∧ (t.dir n d).expect = q.expect ∧ (t.dir n d).inbox = q.inbox ∧ freed t ∧
      (t.dir n (opp d)).credits = back ∧ s.changes t [.net, .obs]) ∧
    (flitOk b = true → ty = 1 → h.seq = q.expect → answers (.dataFlit n d err) s fun t =>
      let got (v : Nat) := takes v (raw.ofVc b v)
      (t.dir n d).wire = rest ∧ (t.dir n d).expect = (q.expect + 1) % 4096 ∧ (t.dir n d).waiting = false ∧
      (t.dir n d).inbox = q.inbox ++ (got 0).1 ++ (got 1).1 ++ (got 2).1 ∧
      (q.partials.length = 4 → ∀ v < 3, (t.dir n d).partials.getD v [] = (got v).2) ∧ freed t ∧
      (t.dir n (opp d)).credits = back ∧ s.changes t [.net, .obs]) ∧
    (flitOk b = true → ty = 2 → h.seq = q.expect →
      ¬ (raw.trig = true ∧ d = .out ∧ s.obs.snap.st = .latching ∧ n.val ∈ s.obs.snap.waiting) →
      let got := takes 3 (slice b 24 240)
      (∀ m ∈ q.inbox ++ got.1, m.vc ≠ 3) → q.partials.length = 4 → o.credits.length = 4 →
      answers (.controlFlit n d err) s fun t =>
        (t.dir n d).wire = rest ∧ (t.dir n d).expect = (q.expect + 1) % 4096 ∧ (t.dir n d).waiting = false ∧
        (t.dir n d).inbox = q.inbox ++ got.1 ∧ (t.dir n d).partials.getD 3 [] = got.2 ∧ freed t ∧
        (∀ v < 4, (t.dir n (opp d)).credits.getD v 0 = back.getD v 0 + leAt b (16 + 2 * v) 2) ∧ s.changes t [.net, .obs]) ∧
    (flitOk b = true → ty = 3 → answers (.retryFlit n d err) s fun t =>
      (t.dir n d).wire = rest ∧ freed t ∧ (t.dir n (opp d)).resend = (t.dir n (opp d)).retry.length ∧
      (t.dir n (opp d)).replays = o.replays + 1 ∧ (t.dir n (opp d)).lastRetry = h.ack ∧
      (t.dir n (opp d)).failed = (if o.replays ≠ 0 ∧ o.lastRetry = h.ack then o.failed + 1 else 1) ∧
      t.counterAt (agentCounter n 13) = s.counterAt (agentCounter n 13) + 1)) ∧
  (∀ (n : AgentId) (d : Dir) (s : State), s.linkRuns n = true → (s.dir n d).waiting = true →
    answers (.retryTimeout n d) s fun t => (t.dir n (opp d)).retrySend = true ∧ t.dir n d = s.dir n d ∧ s.changes t [.net])

/-- The next message of a virtual channel at agent n has type ty and is m; the agent handles it. -/
def Sys2Proof.Machine.State.agentTakes (s : State) (n vc ty : Nat) (m : Msg) : Prop :=
  s.agentOn n = true ∧ s.peek n .out vc ty = some m

/-- A request does not wait: the hold queue has room and holds no request of its row before which it may not go, and
no class 0 read of the row waits (R200, R338). -/
def Sys2Proof.Machine.State.mayServe (s : State) (n : Nat) (m : Msg) : Prop :=
  (s.agent n).full = false ∧ (s.agent n).behind m = false ∧
    (m.vc = 0 ∨ ∀ r ∈ m.rows, s.class0Waits n r.1 r.2 = false)

/-- A command takes message m off the inbox of a direction and owes its credits (R332). -/
def Sys2Proof.Machine.State.took (s t : State) (n : Nat) (d : Dir) (m : Msg) : Prop :=
  (t.dir n d).inbox = eraseFirst (fun x => x.vc == m.vc) (s.dir n d).inbox ∧
    (t.dir n d).owed = (s.dir n d).owed.modify m.vc (· + (1 + ceilDiv m.body.length 16))

/-- A command makes an agent send one message more. -/
def Sys2Proof.Machine.State.agentSent (s t : State) (n : Nat) (m : Msg) : Prop :=
  (t.dir n .inb).queue = (s.dir n .inb).queue ++ [⟨m, .none⟩]

/-- RD, RD_PACK, WR and FLUSH at an agent (R51, R253, R290, R314, R315, R335, R422). The bytes of an RD_PACK entry and of
its answer's rows, and bit 0 of FLAGS for a row that may not be cached, are the model's choice (log entry 12). -/
def Obligations.AgentReadsAndWrites : Prop :=
  (∀ (n : AgentId) (vc : VcId) (m : Msg) (s : State), s.agentTakes n vc.val 1 m → s.mayServe n m →
    let pos := fld m.tag 14 9
    let a := s.agent n
    let answered (flags : Nat) (b : Bytes) (t : State) : Prop :=
      s.took t n .out m ∧ t.mem = s.mem ∧
        s.agentSent t n { mtype := 0x11, vc := m.vc, cls := m.cls, flags := flags, len := b.length, tag := m.tag
                          addr := m.addr, body := b }
    (a.lostIn m.addr m.len = true → answers (.rd n vc) s (answered 2 [])) ∧
    (a.lostIn m.addr m.len = false → bitOf m.flags 0 = false →
      answers (.rd n vc) s fun t => answered 0 (s.load m.addr m.len) t ∧ (t.agent n).dir = a.dir) ∧
    (a.lostIn m.addr m.len = false → bitOf m.flags 0 = true →
      ((a.dir.map (·.1)).eraseDups.length < 131072 ∨ (∃ d ∈ a.dir, d.1 = m.addr)) →
      answers (.rd n vc) s fun t => answered 0 (s.load m.addr m.len) t ∧ (m.addr, pos) ∈ (t.agent n).dir ∧
        ∀ d, d ≠ (m.addr, pos) → (d ∈ (t.agent n).dir ↔ d ∈ a.dir))) ∧
  (∀ (n : AgentId) (m : Msg) (s : State), s.agentTakes n 1 2 m → s.mayServe n m →
    (∀ e ∈ packEntries m.body, (s.agent n).lostIn e.1 (e.2.1 % 2 ^ 15) = false ∧ bitOf e.2.1 15 = false) →
    answers (.rdPack n) s fun t => s.took t n .out m ∧ t.mem = s.mem ∧
      ∃ r : Msg, s.agentSent t n r ∧ r.mtype = 0x12 ∧ r.vc = 1 ∧ r.tag = m.tag ∧
        r.body = (packEntries m.body).flatMap fun e =>
          leBytes 4 e.2.2 ++ leBytes 2 (e.2.1 % 2 ^ 15) ++ zeros 10 ++ padTo 16 (s.load e.1 (e.2.1 % 2 ^ 15))) ∧
  (∀ (n : AgentId) (vc : VcId) (m : Msg) (s : State), s.agentTakes n vc.val 3 m → s.mayServe n m →
    answers (.wr n vc) s fun t => s.took t n .out m ∧ t.mem = (s.store m.addr m.body).mem ∧
      s.agentSent t n { mtype := 0x13, vc := m.vc, cls := m.cls, flags := 0, len := 0, tag := m.tag, addr := m.addr
                        body := [] } ∧ s.changes t [.mem, .net, .obs]) ∧
  (∀ (n : AgentId) (m : Msg) (s : State), s.agentTakes n 1 4 m → s.writesBefore n = false →
    answers (.flush n) s fun t => s.took t n .out m ∧
      s.agentSent t n { mtype := 0x14, vc := 1, cls := m.cls, flags := 0, len := 0, tag := m.tag, addr := 0, body := [] } ∧
      s.changes t [.net])

/-- The next message of a virtual channel from agent n at the Farnum die. -/
def Sys2Proof.Machine.State.dieTakes (s : State) (n vc ty : Nat) (m : Msg) : Prop :=
  s.targetOn = true ∧ (s.link n).st ≠ .down ∧ s.peek n .inb vc ty = some m

/-- The fetch slot that a tag names. -/
def Sys2Proof.Machine.State.slotAt (s : State) (tag : Nat) : Option FSlot :=
  (s.engine (fld tag 14 9)).slots.get none (fld tag 8 0)

/-- The hold queue (R338). RD_RSP, RD_PACK_RSP, WR_ACK and FLUSH_ACK (R253, R290, R334, R335). -/
def Obligations.AgentHoldsAndAnswers : Prop :=
  ((∀ (n : AgentId) (vc : VcId) (m : Msg) (s : State), s.agentOn n = true →
     (s.dir n .out).inbox.find? (fun x => x.vc == vc.val) = some m → m.mtype ∈ [1, 2, 3] →
     (s.agent n).full = false →
     answers (.controllerBusy n vc) s fun t =>
       (t.agent n).hold = (s.agent n).hold ++ [⟨m⟩] ∧
       (t.dir n .out).inbox = eraseFirst (fun x => x.vc == m.vc) (s.dir n .out).inbox ∧
       (t.dir n .out).owed = (s.dir n .out).owed ∧ t.mem = s.mem ∧
       t.counterAt (agentCounter n 15) = s.counterAt (agentCounter n 15) + 1) ∧
   (∀ (n : AgentId) (acc : List Bool) (s : State), s.agentOn n = true →
     answers (.holdReissue n acc) s fun t =>
       ((s.agent n).hold.Pairwise (fun a b => a.msg.meets b.msg = false ∧ b.msg.meets a.msg = false) →
         (t.agent n).hold = (((s.agent n).hold.zipIdx.filter fun h => !acc.getD h.2 false).map (·.1))) ∧
       (∀ a b, (s.agent n).hold = [a, b] → a.msg.meets b.msg = true → b.msg.first = false → acc = [false, true] →
         (t.agent n).hold = [a, b]) ∧
       ((∀ b ∈ acc, b = false) → t.mem = s.mem ∧ (t.dir n .inb).queue = (s.dir n .inb).queue) ∧
       s.changes t [.mem, .net, .obs]) ∧
   (∀ (n : AgentId) (vc : VcId) (m : Msg) (s : State), (s.agentTakes n vc.val 1 m ∨ s.agentTakes n vc.val 3 m) →
     (m.vc = 0 ∨ ∀ r ∈ m.rows, s.class0Waits n r.1 r.2 = false) →
     (s.agent n).full = false → (s.agent n).behind m = true →
     answers (if m.mtype = 1 then .rd n vc else .wr n vc) s fun t =>
       (t.agent n).hold = (s.agent n).hold ++ [⟨m⟩] ∧ t.mem = s.mem ∧ s.changes t [.fresh, .net, .obs]) ∧
   (∀ (n : AgentId) (h : Held) (s : State), s.agentOn n = true → (s.agent n).hold = [h] →
     let m := h.msg
     let owed (t : State) : Prop :=
       (t.dir n .out).owed = (s.dir n .out).owed.modify m.vc (· + (1 + ceilDiv m.body.length 16))
     (m.mtype = 3 → answers (.holdReissue n [true]) s fun t => owed t ∧ t.mem = (s.store m.addr m.body).mem ∧
       ∃ r : Msg, (t.dir n .inb).queue = (s.dir n .inb).queue ++ [⟨r, .none⟩] ∧ r.mtype = 0x13 ∧ r.tag = m.tag) ∧
     (m.mtype = 1 → bitOf m.flags 0 = false → (s.agent n).lostIn m.addr m.len = false →
       answers (.holdReissue n [true]) s fun t => owed t ∧ t.mem = s.mem ∧
         ∃ r : Msg, (t.dir n .inb).queue = (s.dir n .inb).queue ++ [⟨r, .none⟩] ∧ r.mtype = 0x11 ∧ r.tag = m.tag ∧
           r.body = s.load m.addr m.len))) ∧
  ((∀ (n : AgentId) (vc : VcId) (m : Msg) (x : FSlot) (s : State), s.dieTakes n vc.val 0x11 m → s.slotAt m.tag = some x →
     x.epoch = fld m.tag 22 15 → x.joined = false → x.data = none →
     answers (.rdRsp n vc) s fun t =>
       t.slotAt m.tag = some { x with
         err := bitOf m.flags 1, data := if bitOf m.flags 1 then none else some m.body } ∧
       (t.dir n .inb).inbox = eraseFirst (fun y => y.vc == m.vc) (s.dir n .inb).inbox ∧ s.changes t [.eng, .net, .obs]) ∧
   (∀ (n : AgentId) (m : Msg) (s : State), s.dieTakes n 1 0x12 m → (packRows 8 m.body).Pairwise (fun a b =>
       ¬ (fld a.1 14 9 = fld b.1 14 9 ∧ fld a.1 8 0 = fld b.1 8 0)) →
     answers (.rdPackRsp n) s fun t =>
       (∀ r ∈ packRows 8 m.body, ∀ x, s.slotAt r.1 = some x → x.epoch = fld r.1 22 15 → x.joined = false → x.data = none →
         t.slotAt r.1 = some { x with
           err := bitOf r.2.1 1, data := if bitOf r.2.1 1 then none else some r.2.2 }) ∧
       (t.dir n .inb).inbox = eraseFirst (fun y => y.vc == m.vc) (s.dir n .inb).inbox ∧ s.changes t [.eng, .net, .obs]) ∧
   (∀ (n : AgentId) (m : Msg) (o : OutMsg) (s : State), s.net.sent.get none m.tag = some o →
     ∀ e ∈ ([(Instr.flushAck n, 1, 0x14)] ++ ((List.finRange 4).map fun vc => (Instr.wrAck n vc, vc.val, 0x13))),
       s.dieTakes n e.2.1 e.2.2 m → answers e.1 s fun t =>
         t.net.sent.get none m.tag = none ∧ (∀ g, g ≠ m.tag → t.net.sent.get none g = s.net.sent.get none g) ∧
         t.mem = s.mem ∧
         (∀ w k, o.own = .result w → s.work w = some k → ∃ k', t.work w = some k' ∧
           k'.storeUnacked = k.storeUnacked - 1 ∧ k'.hostUnacked = k.hostUnacked) ∧
         (∀ w k, o.own = .flush w → s.work w = some k → ∃ k', t.work w = some k' ∧ k'.flushes = k.flushes - 1) ∧
         (∀ p w, o.own = .porter p w → (t.porter p).unacked = (s.porter p).unacked - 1)))

/-- The slot, epoch, row address and pairs of a gradient record (R188). -/
def Sys2Proof.Machine.Msg.gradFields (m : Msg) : Nat × Nat × Nat × List Pair :=
  (fld (leAt m.body 12 1) 0 0, leAt m.body 8 4, fld (leAt m.body 0 8) 51 0, recordPairs m.body)

/-- Area i of agent n becomes c, and the other areas stay. -/
def Sys2Proof.Machine.State.areaBecomes (s t : State) (n i : Nat) (c : Crate) : Prop :=
  (t.agent n).crates = (s.agent n).crates.set i c

/-- Agent n sends a message of type ty for a slot and an epoch. -/
def Sys2Proof.Machine.State.agentTold (s t : State) (n ty slot epoch : Nat) : Prop :=
  ∃ r : Msg, (t.dir n .inb).queue = (s.dir n .inb).queue ++ [⟨r, .none⟩] ∧ r.mtype = ty ∧ r.vc = 2 ∧
    r.addr = slotEpoch slot epoch

/-- GRAD (R188, R191 to R193, R196, R197). -/
def Obligations.CrateRecords : Prop :=
  ∀ (n : AgentId) (m : Msg) (s : State), s.agentTakes n 2 5 m →
    let (slot, epoch, a, ps) := m.gradFields
    let quiet (t : State) : Prop := (t.dir n .inb).queue = (s.dir n .inb).queue
    (∀ i, (s.agent n).areaOf slot epoch = none → (s.agent n).crates.findIdx? (fun c => c.st == .free) = some i →
      answers (.grad n) s fun t => quiet t ∧ s.areaBecomes t n i { Crate.empty with
        st := .open_, slot := slot, epoch := epoch, got := 1, entries := [⟨a, 1, ps⟩] }) ∧
    (∀ i c, (s.agent n).areaOf slot epoch = some (i, c) → (c.st = .open_ ∨ (c.st = .sealing ∧ c.want ≠ some (c.got + 1))) →
      let merged := { c with
        got := c.got + 1, entries := c.entries.map fun e => if e.addr = a then e.merge ps else e }
      let added := { c with got := c.got + 1, entries := c.entries ++ [⟨a, 1, ps⟩] }
      let known := ∃ e ∈ c.entries, e.addr = a
      let room := c.lines + (1 + ceilDiv ps.length 8) ≤ 65536 ∧ c.entries.length < 8192
      let takes (d : Crate) : Prop :=
        (c.st = .open_ ∧ d.high = true ∧ c.hwm = false → answers (.grad n) s fun t =>
          s.areaBecomes t n i { d with hwm := true } ∧ s.agentTold t n 0x15 c.slot c.epoch) ∧
        (¬ (c.st = .open_ ∧ d.high = true ∧ c.hwm = false) → answers (.grad n) s fun t =>
          s.areaBecomes t n i d ∧ quiet t)
      (known → takes merged) ∧ (¬ known → room → takes added) ∧
      (¬ known → ¬ room → answers (.grad n) s fun t =>
        s.areaBecomes t n i { c with st := .overflowed } ∧ s.agentTold t n 0x16 c.slot c.epoch))

/-- The commit of a Crate (R195 to R199, R203, R204, R222). The bytes of COMMIT, the slot and the epoch in ADDR, and the
FLAGS of a REFRESH_ACK that answers an ENABLE are the model's choice (log entry 12); so is that an EVICT of a row that the
position still fetches leaves its entry (log entry 81). -/
def Obligations.CrateCommits : Prop :=
  (∀ (n : AgentId) (m : Msg) (i : Nat) (c : Crate) (s : State), s.agentTakes n 2 6 m →
    (s.agent n).areaOf (leAt m.body 0 4) (leAt m.body 4 4) = some (i, c) → c.st = .open_ →
    let d := { c with
      want := some (leAt m.body 8 4), op := leAt m.body 12 4, alpha := leAt m.body 16 4, eps := leAt m.body 20 4
      order := (s.agent n).orders }
    (c.got = leAt m.body 8 4 → answers (.commit n) s fun t => s.areaBecomes t n i { d with st := .sealed } ∧
      s.agentTold t n 0x1A c.slot c.epoch ∧ s.changes t [.net]) ∧
    (c.got ≠ leAt m.body 8 4 → answers (.commit n) s fun t => s.areaBecomes t n i { d with st := .sealing } ∧
      (t.dir n .inb).queue = (s.dir n .inb).queue ∧ s.changes t [.net])) ∧
  (∀ (n : AgentId) (m : Msg) (i : Nat) (c : Crate) (s : State), (s.agent n).areaOf m.slotOf m.epochOf = some (i, c) →
    (s.agentTakes n 2 0x0A m → c.st = .sealed → answers (.go n) s fun t =>
      s.areaBecomes t n i { c with go := true } ∧ s.changes t [.net]) ∧
    (s.agentTakes n 2 7 m → c.committing = false → answers (.abort n) s fun t => s.areaBecomes t n i Crate.empty)) ∧
  (∀ (n : AgentId) (c : Crate) (i : Nat) (s : State), s.agentOn n = true →
    ((s.agent n).crates.zipIdx.filter fun x => x.1.st == .sealed && x.1.go) = [(c, i)] →
    (∀ x ∈ (s.agent n).crates, x.committing = false) → s.crateLost n c = false →
    s.commitWaits n (c.entries.map fun e => (e.addr, 64 * e.lines)) = false →
    let imgs := s.crateImages c
    (∀ res < 2, (s.unit (96 + n)).faults + res < 3 → answers (.crateCommitStart ⟨n, res⟩) s fun t =>
      s.areaBecomes t n i { c with st := .applying, images := imgs.map fun e => (e.1, e.2.1) } ∧
      t.counterAt 0x060 = s.counterAt 0x060 + BitVec.ofNat 64 res ∧
      ((∀ e ∈ imgs, e.2.2.1 = false) → t.mem = (s.writeLog n c (imgs.map fun e => (e.1, e.2.1))).mem)) ∧
    (∀ res ≥ 2, ∀ sc, s.scatter c.slot = some sc → (s.unit (96 + n)).faults + 2 < 3 →
      answers (.crateCommitStart ⟨n, res⟩) s fun t => t.mem = s.mem ∧ t.counterAt 0x060 = s.counterAt 0x060 + 2)) ∧
  (∀ (n : AgentId) (c : Crate) (i : Nat) (s : State), (s.agent n).up = true →
    (s.agent n).crates.zipIdx.find? (fun x => x.1.st == .applying) = some (c, i) →
    let due := c.images.flatMap fun e => ((s.agent n).dir.filter fun d => d.1 == e.1).map fun d => (e.1, d.2, e.2)
    let placed := s.each c.images fun s e => s.store e.1 e.2
    s.commitWaits n (c.images.map fun e => (e.1, e.2.length)) = false →
    (∀ e ∈ c.images, s.class0Waits n e.1 e.2.length = false) →
    (due = [] → answers (.crateApplyDone n) s fun t => s.areaBecomes t n i Crate.empty ∧
      s.agentTold t n 0x17 c.slot c.epoch ∧ t.mem = (placed.markDone n).mem ∧
      (t.agent n).commits = ((s.agent n).commits + 1) % 2 ^ 32) ∧
    (due ≠ [] → answers (.crateApplyDone n) s fun t =>
      s.areaBecomes t n i { c with st := .refreshing, refresh := due.map fun d => (d.1, d.2.1) } ∧
      t.mem = placed.mem ∧ (t.dir n .inb).queue = (s.dir n .inb).queue ++ due.map fun d =>
        ⟨{ mtype := 0x18, vc := 2, cls := 2, flags := 0, len := d.2.2.length, tag := (s.tileOf d.2.1).getD d.2.1, addr := d.1, body := d.2.2 },
          .none⟩)) ∧
  (∀ (n : AgentId) (m : Msg) (s : State), s.agentTakes n 2 9 m →
    (∀ c i, m.flags ≠ 1 → (s.agent n).crates.zipIdx.find? (fun x => x.1.st == .refreshing) = some (c, i) →
      let left := eraseFirst (fun r => r == (m.addr, s.posOfTile m.tag)) c.refresh
      (left = [] → answers (.refreshAck n) s fun t => s.areaBecomes t n i Crate.empty ∧
        s.agentTold t n 0x17 c.slot c.epoch ∧ t.mem = (s.markDone n).mem) ∧
      (left ≠ [] → answers (.refreshAck n) s fun t => s.areaBecomes t n i { c with refresh := left } ∧ t.mem = s.mem)) ∧
    (∀ g, m.flags = 1 → (s.agent n).mig = some g → g.enabled = true → g.addr = m.addr → g.pos = s.posOfTile m.tag →
      (∀ x ∈ s.sk.repin, s.ownerAgent x.addr ≠ n) → answers (.refreshAck n) s fun t => (t.agent n).mig = none ∧ t.mem = s.mem ∧
        t.counterAt (agentCounter n 9) = s.counterAt (agentCounter n 9) + 1)) ∧
  (∀ (n : AgentId) (m : Msg) (s : State), s.agentTakes n 2 8 m →
    let e := s.engine m.tag
    let holds := (∃ p ∈ e.placed, p.addr = m.addr) ∨ (∃ c ∈ e.cache, c.addr = m.addr) ∨
      ∃ x ∈ e.slots, ∃ f, x.2 = some f ∧ f.addr = m.addr ∧ f.data = none ∧ f.err = false ∧ f.old = false
    (holds → answers (.evict n) s fun t => t.agent n = s.agent n ∧ s.changes t [.net]) ∧
    (¬ holds → answers (.evict n) s fun t => (∀ d, d ∈ (t.agent n).dir ↔ d ∈ (s.agent n).dir ∧ d ≠ (m.addr, m.tag)) ∧ s.changes t [.net]))

/-- EPOCH_CUT (R194) and ENGINE_EPOCH_REPORT (R195). HWM, FULL, SEALED and CRATE_ACK (R194 to R198, R207).
That FULL drops the cuts after its epoch, and halves to at least one position, is the model's reading of R196 (log entry 16);
the slot and the epoch in ADDR are its choice (log entry 12). -/
def Obligations.ScatterEpochs : Prop :=
  ((∀ (i : ScatterSlot) (sc : Scatter) (k : Work) (s : State), s.scatter i = some sc → s.running sc.work = some k →
     let here := sc.issued.filter fun p => sc.start sc.cuts.length ≤ p
     sc.hold = none → sc.ending = false → here ≠ [] → (sc.wantCut = true ∨ k.allIssued = true) →
     (∀ e < sc.cuts.length, sc.done e = true) →
     answers (.epochCut i) s fun t =>
       (∃ m ∈ here, (∀ p ∈ here, p ≤ m) ∧
         t.scatter i = some { sc with cuts := sc.cuts ++ [m + 1], wantCut := false }) ∧
       (∀ j, j ≠ i.val → t.scatter j = s.scatter j) ∧ s.changes t [.disp]) ∧
   (∀ (i : ScatterSlot) (pos : PosId) (sc : Scatter) (e : Nat) (s : State), s.scatter i = some sc → e < sc.cuts.length →
     e ∉ sc.committed → (∀ d < e, d ∈ sc.committed) → s.targetOn = true → sc.holds e = false → sc.ending = false →
     (s.engine pos).lost = false → (s.engine pos).moving = false → (sc.start (e + 1) - 1) ∈ sc.issued →
     (e, pos.val) ∉ sc.reports → s.holdsEpoch pos sc e = false →
     (∀ r ∈ (s.engine pos).merge, r.slot = i.val → r.epoch ≠ e) →
     (∃ q ∈ s.reporters, q ≠ pos.val ∧ (e, q) ∉ sc.reports) →
     answers (.engineEpochReport i pos) s fun t =>
       t.scatter i = some { sc with reports := sc.reports ++ [(e, pos.val)] } ∧
       (∀ j, j ≠ i.val → t.scatter j = s.scatter j) ∧ t.net = s.net ∧ (t.engine pos).merge = (s.engine pos).merge)) ∧
  (∀ (n : AgentId) (m : Msg) (sc : Scatter) (s : State), s.scatter m.slotOf = some sc →
     let i := m.slotOf
     let e := m.epochOf
     (s.dieTakes n 2 0x15 m → sc.holds e = false → e = sc.cuts.length → answers (.hwm n) s fun t =>
       t.scatter i = some { sc with wantCut := true } ∧ s.changes t [.disp, .net]) ∧
     (s.dieTakes n 2 0x16 m → sc.holds e = false → sc.ending = false → sc.base ≤ e → s.scatterSlot sc.work = some i →
       (s.work sc.work).isSome = true → answers (.full n) s fun t =>
         (∃ sc', t.scatter i = some sc' ∧ sc'.cuts = sc.cuts.take e ∧ sc'.hold = some (min e (sc.hold.getD e)) ∧
           sc'.limit = some (max 1 ((sc.issued.countP fun p => sc.epochOf p == e) / 2)) ∧
           sc'.issued = sc.issued.filter (fun p => decide (p < sc.start e)) ∧ sc'.acked = sc.acked) ∧
         bitOf (t.noticeBits Reg.scNotice) 0 = true ∧
         t.counterAt (agentCounter n 7) = s.counterAt (agentCounter n 7) + 1) ∧
     (s.dieTakes n 2 0x1A m → sc.holds e = false → sc.ending = false → e ∈ sc.committed →
       let sc1 := { sc with sealedBy := sc.sealedBy ++ [(e, n.val)] }
       let all := ∀ a ∈ s.dueAgents sc1 e, (e, a) ∈ sc1.sealedBy
       (all → e ∉ sc.gone → answers (.sealed n) s fun t => t.scatter i = some { sc1 with gone := sc.gone ++ [e] } ∧
         ∀ a ∈ s.dueAgents sc1 e, ∃ r : OutMsg, r ∈ (t.dir a .out).queue ∧ r.msg.mtype = 0x0A ∧
           r.msg.addr = slotEpoch i e) ∧
       (¬ all ∨ e ∈ sc.gone → answers (.sealed n) s fun t => t.scatter i = some sc1 ∧ s.changes t [.disp, .net])) ∧
     (s.dieTakes n 2 0x17 m → answers (.crateAck n) s fun t =>
       (∃ sc', t.scatter i = some sc' ∧ (e, n.val) ∈ sc'.acked ∧ (∀ x ∈ sc.acked, x ∈ sc'.acked) ∧
         (∀ h ∈ s.dueAt sc e n, (e, h) ∈ sc'.acked) ∧ sc'.issued = sc.issued ∧ sc'.cuts = sc.cuts) ∧
       (t.agent n).acks = (s.agent n).acks.erase (i, e)))

/-- REFRESH and ENABLE (R204, R222, R223, R225). The tile in TAG and the FLAGS of the acknowledgement are the model's choice
(log entry 12). -/
def Obligations.CopyRefreshes : Prop :=
  ∀ (n : AgentId) (m : Msg) (s : State),
    let p := s.posOfTile m.tag
    let e := s.engine p
    let acked (t : State) (flags : Nat) : Prop := (t.dir n .out).queue = (s.dir n .out).queue ++
      [⟨{ mtype := 9, vc := 2, cls := 2, flags := flags, len := 0, tag := (s.tileOf p).getD p, addr := m.addr, body := [] }, .none⟩]
    (s.dieTakes n 2 0x18 m →
      let cache := e.cache.map fun x => if x.addr = m.addr then { x with data := m.body } else x
      let slots := e.slots.map fun x => (x.1, x.2.map fun f =>
        if f.addr = m.addr ∧ f.data.isNone ∧ ¬ (e.cache.any fun c => c.addr == m.addr) then { f with old := true } else f)
      ((∀ x ∈ e.placed, x.addr ≠ m.addr) → answers (.refresh n) s fun t =>
        t.engine p = { e with cache := cache, slots := slots } ∧ (∀ q, q ≠ p → t.engine q = s.engine q) ∧ t.mem = s.mem ∧ acked t 0) ∧
      (∀ x td, e.placed.find? (fun y => y.addr == m.addr) = some x → s.cfg.table x.table = some td →
        answers (.refresh n) s fun t =>
          t.engine p = { e with cache := cache, slots := slots } ∧ (∀ q, q ≠ p → t.engine q = s.engine q) ∧
          t.mem = (if td.hdr then
              ((s.store (sideAddr p x.block) (m.body.take 16)).store (larderAddr p (256 * x.block)) (m.body.drop 16)).mem
            else (s.store (larderAddr p (256 * x.block)) m.body).mem) ∧ acked t 0)) ∧
    (s.dieTakes n 2 0x19 m → s.levelAt (1 + n.val / 2) < 3 → answers (.enable n) s fun t =>
      t.engine p = { e with placed := e.placed.map fun x => if x.addr = m.addr then { x with valid := true } else x } ∧
      (∀ q, q ≠ p → t.engine q = s.engine q) ∧ acked t 1 ∧ s.changes t [.eng, .net]) ∧
    (∀ g, s.dieTakes n 2 0x19 m → 3 ≤ s.levelAt (1 + n.val / 2) → (s.agent n).mig = some g → g.pinned = false →
      (∀ x ∈ s.sk.repin, s.ownerAgent x.addr ≠ n) → answers (.enable n) s fun t =>
      (t.agent n).mig = none ∧
        (t.engine g.pos).placed = (s.engine g.pos).placed.filter fun x => x.valid || x.addr != g.addr)

/-- From s to t the Storekeeper sends one report more, with its cause and its unit (R399). -/
def Sys2Proof.Machine.State.reports (s t : State) (cause unit : Nat) : Prop :=
  ∃ r : Report, t.sk.reports = s.sk.reports ++ [r] ∧ r.cause = cause ∧ r.unit = unit ∧ r.seq = s.sk.nextReport ∧
    r.severity = causeSeverity cause

/-- The errors of a unit of an agent: how many corrected ones were counted, and 1 after an uncorrectable one, 2 when
a corrected one came after it (R342). -/
def Sys2Proof.Machine.Agent.errors (a : Agent) (unit : Nat) : Nat × Nat :=
  ((a.errUnits.find? fun e => e.1 == unit).map (·.2)).getD (0, 0)

/-- A management message of a kind, on VC 3 (R333; the layout of the body is the model's choice, log entry 53). -/
def Sys2Proof.Machine.mgmtOf (kind : Nat) (b : Bytes) : OutMsg :=
  ⟨{ mtype := 0x20, vc := 3, cls := 0, flags := 0, len := b.length + 1, tag := 0, addr := 0
     body := leBytes 1 kind ++ b }, .none⟩

/-- From s to t one management message of a kind is queued for each body, in order. -/
def Sys2Proof.Machine.State.tells (s t : State) (n : Nat) (d : Dir) (kind : Nat) (bodies : List Bytes) : Prop :=
  (t.dir n d).queue = (s.dir n d).queue ++ bodies.map (mgmtOf kind)

/-- From s to t bytes are queued in messages of at most 2,016 bytes (R315); that those after the first have the next
kind is the model's choice (log entry 53). -/
def Sys2Proof.Machine.State.tellsAll (s t : State) (n : Nat) (d : Dir) (kind : Nat) (b : Bytes) : Prop :=
  (t.dir n d).queue = (s.dir n d).queue ++ mgmtOf kind (b.take 2016) :: (chunks 2016 (b.drop 2016)).map (mgmtOf (kind + 1))

/-- The next flit received is a CONTROL flit without error that completes one management message, of a kind and with
a body, and no other waits (R323, R332). -/
def Sys2Proof.Machine.State.brings (s : State) (n : Nat) (d : Dir) (err : Bytes) (kind : Nat) (body : Bytes) : Prop :=
  ∃ (raw : Flit) (rest : List Flit) (m : Msg), (s.dir n d).wire = raw :: rest ∧ s.linkRuns n = true ∧
    (FHdr.ofBytes raw.bytes).ty = 2 ∧ flitOk (xorBytes raw.bytes err) = true ∧
    (FHdr.ofBytes (xorBytes raw.bytes err)).seq = (s.dir n d).expect ∧
    let old := (s.dir n d).partials.getD 3 []
    (takeMsgs (old.length + 256) (old ++ slice (xorBytes raw.bytes err) 24 240)).1 = [m] ∧
    m.vc = 3 ∧ m.body = leBytes 1 kind ++ body ∧ (∀ x ∈ (s.dir n d).inbox, x.vc ≠ 3) ∧ (d = .inb → s.skOn = true) ∧
    ¬ (raw.trig = true ∧ d = .out ∧ s.obs.snap.st = .latching ∧ n ∈ s.obs.snap.waiting)

/-- LINK_MGMT, the messages that a CONTROL_FLIT brings, TOUCH_PERIOD, REMAP_INSTALL, STACK_REPAIR and HOLD_TIMEOUT. -/
def Obligations.StackManagement : Prop :=
  (∀ (n : AgentId) (s : State), s.targetOn = true → (s.agent n).up = true → (s.link n).st ≠ .down →
    (∀ l : BitVec 2, answers (.linkMgmt n (.thermal l)) s fun t =>
      s.tells t n .inb 1 [leBytes 1 l.toNat] ∧ s.changes t [.net]) ∧
    (∀ (x : DevAddr) e, (s.agent n).touch.find? (fun t => t.1 == x.toNat) = some e →
      answers (.linkMgmt n (.touch x)) s fun t =>
        s.tells t n .inb 2 [leBytes 8 e.1 ++ leBytes 4 ((s.tileOf e.2.1).getD e.2.1) ++ leBytes 4 e.2.2] ∧ s.changes t [.net]) ∧
    (∀ x, answers (.linkMgmt n (.corrected x)) s fun t =>
      s.tells t n .inb 3 [leBytes 8 (x % 2 ^ 37 / 4096 * 4096)] ∧
      t.counterAt (agentCounter n 18) = s.counterAt (agentCounter n 18) + 1 ∧ s.changes t [.net, .obs]) ∧
    (∀ x : DevAddr, answers (.linkMgmt n (.uncorrectable x)) s fun t =>
      s.tells t n .inb 4 [leBytes 8 x.toNat] ∧ (∀ y, y ∈ (t.agent n).lost ↔ y = x.toNat ∨ y ∈ (s.agent n).lost) ∧
      t.counterAt (agentCounter n 19) = s.counterAt (agentCounter n 19) + 1 ∧ s.changes t [.net, .obs]) ∧
    (∀ wr, s.skOn = true → answers (.linkMgmt n (.ieee1500 wr)) s fun t =>
      s.tellsAll t n .out 20 wr ∧ s.changes t [.net]) ∧
    (∀ bits, (s.agent n).reading = true → answers (.linkMgmt n (.wso bits)) s fun t =>
      s.tellsAll t n .inb 5 bits ∧ (t.agent n).reading = false ∧ s.changes t [.net])) ∧
  (∀ (n : AgentId) (err : Bytes) (s : State),
    (∀ l : BitVec 2, s.brings n .inb err 1 (leBytes 1 l.toNat) → answers (.controlFlit n .inb err) s fun t =>
      t.eng.stackLevels.get 0 (n.val / 2) = l.toNat ∧
      (∀ k, k ≠ n.val / 2 → t.eng.stackLevels.get 0 k = s.eng.stackLevels.get 0 k) ∧ t.eng.block = s.eng.block ∧
      (s.eng.stackLevels.get 0 (n.val / 2) < 2 → 2 ≤ l.toNat → bitOf (t.noticeBits Reg.fnNotice) 3 = true)) ∧
    (∀ x tile count, x < 2 ^ 64 → tile < 2 ^ 32 → count < 2 ^ 32 →
      s.brings n .inb err 2 (leBytes 8 x ++ leBytes 4 tile ++ leBytes 4 count) →
      answers (.controlFlit n .inb err) s fun t => ∀ e, e ∈ t.sk.touches ↔
        e = (n.val, x, tile, count) ∨ (e ∈ s.sk.touches ∧ ¬ (e.1 = n.val ∧ e.2.1 = x))) ∧
    (∀ u, u < 2 ^ 64 → s.brings n .inb err 3 (leBytes 8 u) → answers (.controlFlit n .inb err) s fun t =>
      let old := (s.agent n).errors u
      (t.agent n).errors u = (old.1 + 1, if old.2 = 0 then 0 else 2) ∧
      (∀ v, v ≠ u → (t.agent n).errors v = (s.agent n).errors v) ∧ t.mem = s.mem) ∧
    (∀ x, x < 2 ^ 64 → s.brings n .inb err 4 (leBytes 8 x) → answers (.controlFlit n .inb err) s fun t =>
      let u := stackOff x % 2 ^ 37 / 4096 * 4096
      let old := (s.agent n).errors u
      (t.agent n).errors u = (old.1, max 1 old.2) ∧
      (∀ v, v ≠ u → (t.agent n).errors v = (s.agent n).errors v) ∧ t.mem = s.mem) ∧
    (∀ b, s.brings n .inb err 5 b → answers (.controlFlit n .inb err) s fun t =>
      t.sk.wso = s.sk.wso.set n b ∧ t.mem = s.mem) ∧
    (∀ b, s.brings n .inb err 6 b → answers (.controlFlit n .inb err) s fun t =>
      t.sk.wso = s.sk.wso.set n (s.sk.wso.getD n [] ++ b) ∧ t.mem = s.mem) ∧
    (∀ u f, u < 2 ^ 64 → f < 2 ^ 64 → s.brings n .out err 16 (leBytes 8 u ++ leBytes 8 f) →
      (∀ e ∈ (s.agent n).remap, e.1 ≠ u) → (∀ e ∈ s.remaps (n.val / 2), e.1 = u ↔ e.2 = f) →
      answers (.controlFlit n .out err) s fun t =>
        (t.agent n).remap = (s.agent n).remap ++ [(u, f)] ∧ (t.agent n).errors u = (0, 0) ∧
        bitOf (t.noticeBits (Reg.maNotice n)) 2 = true ∧ (∀ m, m ≠ n.val → (t.agent m).remap = (s.agent m).remap) ∧
        ((∀ e ∈ s.remaps (n.val / 2), e.1 ≠ u) → t.sk.remap = s.sk.remap ++ [(n.val / 2, u, f)] ∧
          (s.cfg.observe.mirrorBase = 0 → t.mem =
            Memory.write s.mem (stackStart (n.val / 2) + f) (s.load (stackStart (n.val / 2) + u) 4096))) ∧
        ((∃ e ∈ s.remaps (n.val / 2), e.1 = u) → t.sk.remap = s.sk.remap ∧ t.mem = s.mem)) ∧
    (∀ b, s.brings n .out err 20 b → answers (.controlFlit n .out err) s fun t =>
      (n.val % 2 = 0 → (t.agent n).wrapper = b ∧ (t.agent n).reading = true) ∧
      (n.val % 2 ≠ 0 → t.agent n = s.agent n) ∧ t.mem = s.mem) ∧
    (∀ b, s.brings n .out err 21 b → answers (.controlFlit n .out err) s fun t =>
      (n.val % 2 = 0 → t.agent n = { s.agent n with wrapper := (s.agent n).wrapper ++ b }) ∧
      (n.val % 2 ≠ 0 → t.agent n = s.agent n) ∧ t.mem = s.mem)) ∧
  (∀ (n : AgentId) (s : State), s.managed n = true →
    answers (.touchPeriod n) s (fun t => t.mem = s.mem ∧
      t.agent n = { s.agent n with touch := (s.agent n).touch.map fun x => (x.1, x.2.1, x.2.2 / 2) } ∧
      s.tells t n .inb 2 (chunks 2016 (((s.agent n).touch.filter fun x => s.cfg.agents.threshold ≤ x.2.2).flatMap fun x =>
        leBytes 8 x.1 ++ leBytes 4 ((s.tileOf x.2.1).getD x.2.1) ++ leBytes 4 x.2.2))) ∧
    (∀ x, let u := x % 2 ^ 37 / 4096 * 4096
      (s.agent n).clustered u = true → (∀ e ∈ s.remaps (n.val / 2), e.1 ≠ u) →
      (∀ f, s.freeFrame n = some f → answers (.remapInstall n x) s fun t =>
        (∀ m ∈ stackAgents (n.val / 2), s.managed m = true → s.tells t m .out 16 [leBytes 8 u ++ leBytes 8 f]) ∧
          s.changes t [.net]) ∧
      (s.freeFrame n = none → answers (.remapInstall n x) s fun t =>
        s.reports t 4 n ∧ t.sk.remap = s.sk.remap ∧ ∀ m, t.agent m = s.agent m)) ∧
    (∀ fixed, (s.agent n).repairDone = false →
      let kept := s.sk.remap.filter fun e => e.1 == n.val / 2 && !fixed.contains e.2.1
      answers (.stackRepair n fixed) s fun t =>
        t.sk.remap = s.sk.remap.filter (fun e => !(e.1 == n.val / 2 && fixed.contains e.2.1)) ∧
        (∀ m ∈ stackAgents (n.val / 2), (t.agent m).remap = kept.map (·.2)) ∧ (t.agent n).repairDone = true)) ∧
  (∀ (n : AgentId) (i : Nat) (h : Held) (s : State), s.agentOn n = true → s.skOn = true → (s.agent n).hold[i]? = some h →
    let u := stackOff h.msg.addr % 2 ^ 37 / 4096 * 4096
    let old := (s.agent n).errors u
    let said (r : Msg) : Prop := answers (.holdTimeout n i) s fun t => (t.agent n).hold = (s.agent n).hold.eraseIdx i ∧
      (t.dir n .inb).queue = (s.dir n .inb).queue ++ [⟨r, .none⟩] ∧ s.reports t 5 n ∧
      bitOf (t.noticeBits (Reg.maNotice n)) 3 = true ∧
      (t.sk.reports.getLast?).map Report.detail0 = some h.msg.addr ∧ (t.agent n).errors u = (old.1, max 1 old.2) ∧
      ∀ y, y ∈ (t.agent n).lost ↔ y = h.msg.addr ∨ y ∈ (s.agent n).lost
    let es := packEntries h.msg.body
    let answer (ty flags : Nat) : Msg := { mtype := ty, vc := h.msg.vc, cls := h.msg.cls, flags := flags, len := 0
                                           tag := h.msg.tag, addr := h.msg.addr, body := [] }
    (h.msg.mtype = 1 → said (answer 0x11 2)) ∧
    (h.msg.mtype = 2 → es ≠ [] → (∀ e ∈ es, bitOf e.2.1 15 = false) → s.cfg.observe.mirrorBase = 0 → answers (.holdTimeout n i) s fun t =>
      ∃ bad : List Nat, (∃ y ∈ bad, (t.sk.reports.getLast?).map Report.detail0 = some y) ∧ (∀ y ∈ bad, y ∈ es.map (·.1)) ∧
        (∀ y, y ∈ (t.agent n).lost ↔ y ∈ bad ∨ y ∈ (s.agent n).lost) ∧ s.reports t 5 n ∧ t.mem = s.mem ∧
        ∃ r : Msg, (t.dir n .inb).queue = (s.dir n .inb).queue ++ [⟨r, .none⟩] ∧ r.mtype = 0x12 ∧ r.vc = 1 ∧
          r.tag = h.msg.tag ∧ r.body = es.flatMap fun e =>
            if (t.agent n).lostIn e.1 (e.2.1 % 2 ^ 15) = true then leBytes 4 e.2.2 ++ leBytes 2 0 ++ leBytes 1 2 ++ zeros 9
            else leBytes 4 e.2.2 ++ leBytes 2 (e.2.1 % 2 ^ 15) ++ zeros 10 ++ padTo 16 (s.load e.1 (e.2.1 % 2 ^ 15))) ∧
    (h.msg.mtype ≠ 1 → h.msg.mtype ≠ 2 → said (answer 0x13 0)))

/-- From s to t nothing is stored, and the copy of a row by a firmware channel is queued: its data, then its header
(R222; which of channels 29 and 30 is the model's choice, log entry 53). -/
def Sys2Proof.Machine.State.copies (s t : State) (n : Nat) (g : Migration) (td : TableDesc) : Prop :=
  let ch := 29 + n % 2
  let head (src dst len : Nat) : Head := ⟨0, some (copyDescr src dst len), none⟩
  let h := if td.hdr then 16 else 0
  t.mem = s.mem ∧ ((s.chan ch).st ≠ .idle → (t.chan ch).heads = (s.chan ch).heads ++
    head (g.addr + h) (larderAddr g.pos (256 * g.block)) td.dataBytes ::
      (if td.hdr then [head g.addr (sideAddr g.pos g.block) 16] else []))

/-- ROW_RECOVERY, MIGRATION_START, MIGRATION_COPY_ACK, MIGRATION_REMOVE and their messages' arrival (R222 to R225,
R422). That a migration which finds the copy directory full is abandoned is the model's choice (log entry 20), and so are the
bytes of the messages and the channel of a copy (log entry 53). -/
def Obligations.RowsMoved : Prop :=
  (∀ (n : AgentId) (x : DevAddr) (s : State), s.managed n = true → x.toNat ∈ (s.agent n).lost →
    let u := stackOff x.toNat % 2 ^ 37 / 4096 * 4096
    (∀ row b f, s.goodCopy n x.toNat = some (row, b) →
      (((s.remaps (n.val / 2)).find? fun e => e.1 == u) = some (u, f) ∨
        ((∀ e ∈ s.remaps (n.val / 2), e.1 ≠ u) ∧ s.freeFrame n = some f)) →
      answers (.rowRecovery n x) s fun t =>
        s.tells t n .out 18 [leBytes 8 u ++ leBytes 8 f ++ leBytes 8 x.toNat] ∧
        (∀ m ∈ stackAgents (n.val / 2), m ≠ n.val → s.managed m = true → s.tells t m .out 16 [leBytes 8 u ++ leBytes 8 f]) ∧
        s.changes t [.net]) ∧
    (s.goodCopy n x.toNat = none → answers (.rowRecovery n x) s fun t =>
      (t.agent n).lost = (s.agent n).lost ∧ x.toNat ∈ (t.agent n).told ∧
      (x.toNat ∈ (s.agent n).told → t.sk.reports = s.sk.reports) ∧
      (x.toNat ∉ (s.agent n).told → s.reports t 0x0B n))) ∧
  (∀ (n : AgentId) (err : Bytes) (u f : Nat) (x : DevAddr) (row : Nat) (b : Bytes) (s : State), u < 2 ^ 64 → f < 2 ^ 64 →
    s.brings n .out err 18 (leBytes 8 u ++ leBytes 8 f ++ leBytes 8 x.toNat) → s.goodCopy n x.toNat = some (row, b) →
    x.toNat ∈ (s.agent n).lost → ((∃ e ∈ (s.agent n).remap, e.1 = u) ∨ ∀ e ∈ s.remaps (n.val / 2), e.1 = u ↔ e.2 = f) →
    answers (.controlFlit n .out err) s fun t =>
      (∀ y, y ∈ (t.agent n).lost ↔ y ∈ (s.agent n).lost ∧ ¬ (row ≤ y ∧ y < row + b.length)) ∧
      (∃ e ∈ (t.agent n).remap, e.1 = u) ∧
      ((∃ e ∈ (s.agent n).remap, e.1 = u) → t.mem = (s.store row b).mem)) ∧
  (∀ (n : AgentId) (table : BitVec 12) (row : BitVec 40) (pos : PosId) (block : Nat) (td : TableDesc) (s : State),
    s.managed n = true → s.quiescing = false → (s.agent n).mig = none → (s.agent n).noContents = false →
    (s.agent n).repairDone = true → s.cfg.table table.toNat = some td → td.migrateEn = true → td.hashMode ≠ 2 →
    row.toNat < td.rowCount →
    let a := td.place row.toNat
    spaceOf a = 0 → s.ownerAgent a = n → (s.agent n).lostIn a td.rowBytes = false → s.levelAt (1 + n.val / 2) < 2 →
    (s.engine pos).lost = false → (s.engine pos).moving = false → (∀ e ∈ (s.engine pos).placed, e.addr ≠ a) →
    s.blocksFree pos block td.blocks = true →
    answers (.migrationStart n table row pos block) s fun t =>
      t.engine pos = { s.engine pos with placed := (s.engine pos).placed ++ [⟨a, table.toNat, block, false, false⟩] } ∧
      s.tells t n .out 17 [leBytes 4 ((s.tileOf pos).getD pos) ++ leBytes 8 a] ∧
      t.agent n = { s.agent n with mig := some ⟨table.toNat, row.toNat, a, pos, block, 0, 0, false, false, false⟩ } ∧
      s.changes t [.eng, .net]) ∧
  (∀ (n : AgentId) (err : Bytes) (g : Migration) (td : TableDesc) (tile : Bytes) (s : State), tile.length = 4 →
    g.addr < 2 ^ 64 → s.brings n .out err 17 (tile ++ leBytes 8 g.addr) → (s.agent n).mig = some g → g.noted = false →
    s.cfg.table g.table = some td → answers (.controlFlit n .out err) s fun t =>
      (t.agent n).mig = some { g with noted := true, v0 := s.version td g.addr } ∧ s.copies t n g td) ∧
  (∀ (n : AgentId) (late : Bool) (g : Migration) (td : TableDesc) (s : State), s.managed n = true →
    (s.agent n).mig = some g → g.enabled = false → s.cfg.table g.table = some td →
    let pending := ∃ p ∈ (s.engine g.pos).placed, p.addr = g.addr ∧ p.valid = false
    let v := s.version td g.addr
    let same := late = false ∧ v = g.v0
    let goes := pending ∧ s.levelAt (1 + n.val / 2) < 3
    let acked := g.noted = true ∧ s.copyDone g.pos g.block td.blocks = true
    let room := ((s.agent n).dir.map (·.1)).eraseDups.length < 131072 ∨ ∃ d ∈ (s.agent n).dir, d.1 = g.addr
    (goes → ¬ acked → answers (.migrationCopyAck n late) s fun t => t = s) ∧
    (goes → acked → same → room → answers (.migrationCopyAck n late) s fun t =>
      (t.agent n).mig = some { g with enabled := true } ∧ (g.addr, g.pos) ∈ (t.agent n).dir ∧
      (t.dir n .inb).queue = (s.dir n .inb).queue ++ [⟨{ mtype := 0x19, vc := 2, cls := 2, flags := 0, len := 0
                                                         tag := (s.tileOf g.pos).getD g.pos, addr := g.addr, body := [] },
        .none⟩] ∧ t.mem = s.mem) ∧
    (goes → acked → ¬ same → g.attempt < 3 → answers (.migrationCopyAck n late) s fun t =>
      (t.agent n).mig = some { g with attempt := g.attempt + 1, noted := true, v0 := v } ∧ s.copies t n g td ∧
      (t.engine g.pos).placed = (s.engine g.pos).placed ∧
      t.counterAt (agentCounter n 10) = s.counterAt (agentCounter n 10) + 1) ∧
    ((¬ goes ∨ (acked ∧ ((¬ same ∧ 3 ≤ g.attempt) ∨ (same ∧ ¬ room)))) → g.pinned = false →
      (∀ x ∈ s.sk.repin, s.ownerAgent x.addr ≠ n) → answers (.migrationCopyAck n late) s fun t =>
      (t.agent n).mig = none ∧ t.mem = s.mem ∧
      (t.engine g.pos).placed = (s.engine g.pos).placed.filter (fun p => p.valid || p.addr != g.addr))) ∧
  (∀ (pos : PosId) (x : DevAddr) (s : State), let a := x.toNat
    s.managed (s.ownerAgent a) = true → (∃ p ∈ (s.engine pos).placed, p.addr = a ∧ p.valid = true ∧ p.pinned = false) →
    answers (.migrationRemove pos x) s fun t =>
      t.engine pos = { s.engine pos with placed := (s.engine pos).placed.filter fun p => p.addr != a || p.pinned } ∧
      s.tells t (s.ownerAgent a) .out 19 [leBytes 4 ((s.tileOf pos).getD pos) ++ leBytes 8 a] ∧ s.changes t [.eng, .net]) ∧
  (∀ (n : AgentId) (err : Bytes) (tile a : Nat) (s : State), tile < 2 ^ 32 → a < 2 ^ 64 →
    s.brings n .out err 19 (leBytes 4 tile ++ leBytes 8 a) →
    let p := s.posOfTile tile
    let held := (∃ e ∈ (s.engine p).placed, e.addr = a) ∨ ∃ e ∈ (s.engine p).cache, e.addr = a
    answers (.controlFlit n .out err) s fun t =>
      (held → (t.agent n).dir = (s.agent n).dir) ∧
      (¬ held → ∀ d, d ∈ (t.agent n).dir ↔ d ∈ (s.agent n).dir ∧ d ≠ (a, p)) ∧ t.mem = s.mem)

/-- The thermal, supply and clock events. That a loss of lclk takes the link DOWN, and one of mclk its agent, is the
model's reading of R424 (log entry 45). -/
def Obligations.PowerAndClocks : Prop :=
  (∀ (temps : List (BitVec 16)) (s : State), s.skOn = true →
    let reach (l : Nat) : Int := 4 * (s.cfg.thermal.getD (l - 1) 0 : Int)
    let old := s.eng.block
    answers (.thermalSample temps) s fun t =>
      (∀ i < 64, t.sk.temps.getD i 0 = ((temps[i]?).map BitVec.toNat).getD (s.sk.temps.getD i 0)) ∧
      (∀ i < 64, reading (t.sk.temps.getD i 0) ≤ reading t.sk.hottest) ∧
      t.sk.hottest = t.sk.temps.getD t.sk.sensor 0 ∧
      (s.pwr.engineUp = false → t.eng = s.eng) ∧
      (s.pwr.engineUp = true →
        (∀ l ∈ [1, 2, 3], old < l → reach l ≤ reading t.sk.hottest →
          (∀ k ∈ [1, 2, 3], l < k → reading t.sk.hottest < reach k) → t.eng.block = l) ∧
        ((∀ l ∈ [1, 2, 3], old < l → reading t.sk.hottest < reach l) →
          t.eng.block = if old ≠ 0 ∧ reading t.sk.hottest ≤ reach old - 20 then old - 1 else old))) ∧
  (∀ (p : PosId) (s : State), s.targetOn = true → answers (.rampStep p) s fun t =>
    (∀ k < 25, let r := s.eng.ramps.get Ramp.idle (p.val + 64 * k)
      t.eng.ramps.get Ramp.idle (p.val + 64 * k) = if r.step < 7 then { r with step := r.step + 1 } else Ramp.idle) ∧
    (∀ q, q ≠ p.val → q < 64 → ∀ k, t.eng.ramps.get Ramp.idle (q + 64 * k) = s.eng.ramps.get Ramp.idle (q + 64 * k)) ∧
    s.changes t [.eng]) ∧
  (∀ (dom : SupplyDom) (third : Bool) (s : State), s.pwr.aonUp = true →
    answers (.supplyExcursion dom third) s fun t =>
      t.pwr.supply = dom :: s.pwr.supply.filter (· != dom) ∧ t.counterAt 0x063 = s.counterAt 0x063 + 1 ∧
      (third = false → dom ≠ .engineFails → t.sk.reports = s.sk.reports) ∧
      (third = true → dom ≠ .engineFails → s.skOn = true → s.reports t 0x0E (supplyUnit dom)) ∧
      (dom = .engineFails → s.targetOn = true → t.pwr.stopped = true ∧ (∀ n : AgentId, (t.link n).st = .down) ∧
        (third = false → s.skOn = true → s.reports t 0x0D 3)) ∧
      (dom = .engine → s.targetOn = true → ∀ w k, s.work w = some k → k.ended = false → s.scatterSlot w = none →
        ∃ k', t.work w = some k' ∧ ∀ b, ((k.bags.get default b).committed = true →
          k'.bags.get default b = k.bags.get default b) ∧
          ((k.bags.get default b).committed = false → (k'.bags.get default b).taken = []))) ∧
  (∀ (dom : SupplyDom) (s : State), dom ∈ s.pwr.supply → answers (.supplyRecovered dom) s fun t =>
    t.pwr.supply = s.pwr.supply.filter (· != dom) ∧
    (dom = .engine → s.targetOn = true → ∀ p < 48, t.eng.ramps.get Ramp.idle p =
      ⟨0, (issueRate s.eng.block).1, 0, (issueRate s.eng.block).2, 0⟩) ∧ s.changes t [.pwr, .eng]) ∧
  (∀ (clk : Clk) (s : State), s.pwr.aonUp = true → clk ∉ s.pwr.lost →
    answers (.clockLoss clk) s fun t =>
      t.pwr.lost = clk :: s.pwr.lost ∧ t.counterAt 0x064 = s.counterAt 0x064 + 1 ∧
      (∀ unit, (clk, unit) ∈ [(Clk.eclk, 0), (.hclk, 1), (.pclk, 2)] → s.targetOn = true →
        t.pwr.stopped = true ∧ (∀ n : AgentId, (t.link n).st = .down) ∧ (∀ w, t.work w = s.work w) ∧
        (s.skOn = true → s.reports t 0x0D unit)) ∧
      (clk = .sclk → t.sk.skLost = true ∧ (s.targetOn = true → bitOf (t.noticeBits Reg.fnHealthNotice) 2 = true)) ∧
      (∀ n, clk = .mclk n → (t.agent n).up = false ∧ ((s.agent n).up = true → (t.link n).st = .down ∧
        ∀ c ∈ (t.agent n).crates, c = Crate.empty)) ∧
      (∀ n, clk = .lclk n → s.targetOn = true → (t.link n).st = .down)) ∧
  (∀ (clk : Clk) (s : State), clk ∈ s.pwr.lost → answers (.clockReturn clk) s fun t =>
    t.pwr = { s.pwr with lost := s.pwr.lost.filter (· != clk) } ∧
    (clk = .sclk → t.sk.skLost = false ∧ (s.sk.up = true → (∀ p < 2, ∀ k ∈ (s.port p).held, rxMgmt k = false) →
      t.sk.waiting = [] ∧ t.sk.reports = s.sk.reports ++ s.sk.waiting)) ∧
    (∀ n, clk = .mclk n → (t.agent n).up = ((s.agent n).released && !(s.agent n).failed) ∧ s.changes t [.pwr, .net]) ∧
    (clk ∈ [.eclk, .hclk, .pclk] ∨ (∃ n, clk = .lclk n) → s.changes t [.pwr])) ∧
  (∀ (again : Bool) (copy : Nat) (s : State), s.skOn = true →
    let want := if again then 1 - s.sk.active else s.sk.active
    s.sk.copyOk copy = true → (copy = want ∨ copy = 1 - want ∧ s.sk.copyOk want = false) →
    answers (.lockstepMismatch again) s fun t =>
      t.sk.active = copy ∧ t.counterAt 0x065 = s.counterAt 0x065 + 1 ∧ s.reports t 0x0F copy ∧
      t.sk.hmac = s.sk.hmac.zipIdx.map fun e => e.1.map fun x => (x.1, s.sk.ceilings.getD e.2 0))

/-- From s to t a unit has left service (R409, R413 to R415, R419, R423). -/
def Sys2Proof.Machine.State.faulted (s t : State) (u : Nat) : Prop :=
  match UnitId.ofId u with
  | .engine n => t.eng.tiles.getD n .isolated = .isolated ∧ ∀ p : PosId, s.eng.tiles.getD n .isolated = .active p →
      (match s.freeSpare with
        | some k => t.eng.tiles.getD k .isolated = .active p ∧
            t.engine p = { Engine.init with
              epoch := ((s.engine p).epoch + 1) % 256
              moving := true
              was := some n
              placed := (s.cfg.pinsOf p).map fun q => ⟨q.1.place q.2.1, q.1.id, q.2.2, false, true⟩ }
        | none => t.engine p = { Engine.init with epoch := ((s.engine p).epoch + 1) % 256, lost := true, was := some n }) ∧
      ∀ w k, s.work w = some k → k.ended = false → s.scatterSlot w = none → ∃ k', t.work w = some k' ∧
        ∀ b, (k.bags.get default b).committed = false → (k.bags.get default b).uses p = true →
          (k'.bags.get default b).taken = []
  | .porter m => (t.porter m).retired = true
  | .array a => (t.array a).retired = true
  | .agent n => (t.agent n).up = false ∧ (t.link n).st = .down
  | .dispatch | .steer | .mover | .host => t.pwr.stopped = true
  | _ => True

/-- KNOWN_ANSWER_CHECK, PORTER_KNOWN_ANSWER and WATCHDOG_FIRE. -/
def Obligations.UnitFaults : Prop :=
  (∀ (unit : ObsId) (s : State), s.targetOn = true → s.checked unit = true →
    let u := unit.val
    let fail := (UnitId.ofId u).failCounter
    let warned (t : State) : Prop := bitOf (t.noticeBits Reg.fnHealthNotice) 3 = true ∧ (s.skOn = true →
      ∃ r rest, t.sk.reports = s.sk.reports ++ r :: rest ∧ r.cause = 2 ∧ r.unit = u ∧
        r.rings = (s.unit u).rings ∧ r.streams = (s.unit u).streams ∧ r.detail0 = (s.unit u).lastPass)
    (∀ b, answers (.knownAnswerCheck unit true b) s fun t =>
      (t.unit u).failed = false ∧ (t.unit u).rings = 0 ∧ (t.unit u).streams = 0 ∧ (t.unit u).faults = (s.unit u).faults ∧
      s.changes t [.fresh, .obs]) ∧
    ((s.unit u).faults + 1 < 3 → answers (.knownAnswerCheck unit false true) s fun t =>
      warned t ∧ (t.unit u).faults = (s.unit u).faults + 1 ∧ (t.unit u).rings = 0 ∧ t.eng = s.eng ∧ t.arr = s.arr ∧
      t.counterAt 0x061 = s.counterAt 0x061 + 1 ∧ t.counterAt fail = s.counterAt fail + 1) ∧
    answers (.knownAnswerCheck unit false false) s (fun t => warned t ∧ s.faulted t u ∧
      t.counterAt 0x061 = s.counterAt 0x061 + 2 ∧ t.counterAt fail = s.counterAt fail + 2)) ∧
  (∀ (m : PorterId) (s : State), s.targetOn = true → (s.porter m).retired = false →
    let u := 64 + m.val
    answers (.porterKnownAnswer m true) s (fun t => t.unit u = { s.unit u with failed := false } ∧ s.changes t [.obs]) ∧
    ((s.unit u).failed = true → answers (.porterKnownAnswer m false) s fun t =>
      s.faulted t u ∧ t.counterAt 0x061 = s.counterAt 0x061 + 1) ∧
    ((s.unit u).failed = false → (s.unit u).faults + 1 < 3 → answers (.porterKnownAnswer m false) s fun t =>
      t.unit u = { s.unit u with failed := true, faults := (s.unit u).faults + 1 } ∧ (t.porter m).retired = false ∧
      t.counterAt 0x061 = s.counterAt 0x061 + 1 ∧
      ∀ e k, (s.porter m).cur = some e → s.work e.work = some k → k.ended = false → (t.porter m).cur = none)) ∧
  (∀ (unit : ObsId) (s : State), s.targetOn = true → s.stuck unit = true → answers (.watchdogFire unit) s fun t =>
    s.faulted t unit ∧ t.counterAt 0x062 = s.counterAt 0x062 + 1)

/-- The structure number of a storage with a block error counter (R442). -/
def Sys2Proof.Machine.structureOf (st : ScrubStore) : Option Nat :=
  match st with
  | .larder .. => some 0
  | .sideArray .. => some 1
  | .reuse .. => some 2
  | .merge .. => some 3
  | .resultQueue .. => some 4
  | .tc .. => some 6
  | .faultTable .. => some 7
  | .porterMem .. => some 8
  | .porterCache .. => some 9
  | .dualQueue => some 5
  | .selector _ => some 10
  | .dispatchQueue => some 11
  | .skSram => some 12
  | .tallyFifo _ => some 13
  | _ => none

/-- SCRUB_READ, SPARE_RELEASE, AGENT_FAILOVER, STACK_LOST and PARKED_RELEASE. -/
def Obligations.ScrubAndReturn : Prop :=
  (∀ (st : ScrubStore) (s : State), s.scrubOn st = true →
    answers (.scrubRead st .good) s (fun t => s.changes t [.fresh, .obs]) ∧
    answers (.scrubRead st .corrected) s (fun t => s.changes t [.fresh, .obs] ∧
      ∀ x, structureOf st = some x → t.counterAt (0x040 + x) = s.counterAt (0x040 + x) + 1) ∧
    answers (.scrubRead st .uncorrectable) s (fun t =>
      (∀ x, structureOf st = some x → t.counterAt (0x050 + x) = s.counterAt (0x050 + x) + 1) ∧
      (∀ p b x, st = .larder p b → (s.engine p).placed = [x] → x.pinned = false → x.block ≤ b →
        b < x.block + max 1 ((s.cfg.table x.table).getD default).blocks → (t.engine p).placed = []) ∧
      (∀ p i, st = .reuse p i → (t.engine p).reuse = (s.engine p).reuse.eraseIdx i) ∧
      (∀ e, st = .tc e → t.tcEnt e = none) ∧
      (∀ m, st = .porterAlu m → (s.porter m).cur.isSome = true → t.counterAt 0x060 = s.counterAt 0x060 + 1) ∧
      (∀ n a, st = .copyDir n a → ∀ d, d ∈ (t.agent n).dir ↔ d ∈ (s.agent n).dir ∧ d.1 ≠ a.toNat))) ∧
  (∀ (p : PosId) (s : State), s.targetOn = true → (s.engine p).moving = true → 
    (s.copyDone p 0 (1024 * s.cfg.placedUnits) = true → answers (.spareRelease p) s fun t =>
      t.engine p = { s.engine p with
        moving := false, placed := (s.engine p).placed.map fun x => { x with valid := true } } ∧
      (∀ q : PosId, q ≠ p → t.engine q = s.engine q) ∧ s.changes t [.eng]) ∧
    (s.copyDone p 0 (1024 * s.cfg.placedUnits) = false → exec (.spareRelease p) s = .next s)) ∧
  (∀ (n : AgentId) (s : State), let p := n.val ^^^ 1
    s.skOn = true → s.targetOn = true → (s.link n).st = .down → s.inService p = true →
    (s.agent n).out = false → (s.agent p).out = false → answers (.agentFailover n) s fun t =>
      (t.agent n).out = true ∧ t.ownerOf n = p ∧ (t.agent n).dir = [] ∧ (∀ c ∈ (t.agent n).crates, c = Crate.empty) ∧
      (∀ q : PosId, ∀ x ∈ (t.engine q).placed, ¬ (spaceOf x.addr = 0 ∧ homeAgent x.addr = n)) ∧
      (∀ q : PosId, ∀ x ∈ (t.engine q).cache, ¬ (spaceOf x.addr = 0 ∧ homeAgent x.addr = n)) ∧
      (t.dir n .out).queue = [] ∧
      ((∀ m ∈ (s.dir n .out).queue, ∀ i < 2, m.msg.fromEpoch i 0 = false) →
        (t.dir p .out).queue = (s.dir p .out).queue ++
          (s.dir n .out).queue.filter (fun m => m.msg.mtype == 3 || m.msg.mtype == 4) ∧
        (∀ w k, s.work w = some k → ParkCause.link n ∈ k.parked → ∃ k', t.work w = some k' ∧
          k'.parked = k.parked.filter (· != .link n))) ∧
      s.reports t 6 n) ∧
  (∀ (st : StackId) (s : State), s.skOn = true → s.targetOn = true → s.stackPresent st = true →
    (∀ n ∈ stackAgents st, (s.link n).st = .down) → answers (.stackLost st) s fun t =>
      s.reports t 9 st ∧ s.changes t [.fresh, .notices, .mem, .sk, .obs]) ∧
  (∀ (w : WorkId) (k : Work) (s : State), s.work w = some k →
    (∀ c, s.targetOn = true → k.parked.find? s.cleared = some c → answers (.parkedRelease w) s fun t =>
      t.work w = some { k with parked := k.parked.filter (· != c) } ∧
      (∀ j ∈ s.kids w, ∀ v, j ≠ w → s.work j = some v → ∃ v', t.work j = some v' ∧ c ∉ v'.parked) ∧ s.changes t [.disp]) ∧
    (s.targetOn = false ∨ (∀ c ∈ k.parked, s.cleared c = false) → exec (.parkedRelease w) s = .next s))

/-- The engine and PHY domains hold their reset values; the Store Room's bytes stay, but for the log of a Crate that was
REFRESHING, which is marked done (R197); a slot that was LOADING is EMPTY (R387, R388, R423). -/
def Sys2Proof.Machine.State.engineCleared (s t : State) : Prop :=
  t.pwr.engineUp = false ∧ t.pwr.stopped = false ∧ t.pwr.credits = false ∧ t.host.epoch = 0 ∧ t.regs = [] ∧
  t.notices = [] ∧ t.disp = Disp.init ∧ t.eng = Eng.init ∧ t.arr = Arr.init ∧ t.cfg = Cfg.empty ∧ t.hi = [] ∧
  t.porters = [] ∧ t.obs = Obs.init ∧ t.peer = ⟨[], []⟩ ∧ (∀ n, (t.link n).st = .down) ∧ t.net.sent = [] ∧
  t.mov = { Mover.init with stackBase := s.mov.stackBase } ∧ t.mem = s.endRefreshes.mem.filter (fun e => spaceOf e.1 != 1) ∧
  t.slots.current = s.slots.current ∧ t.slots.attic = s.slots.attic ∧ t.slots.generation = s.slots.generation ∧
  t.slots.cmd = none ∧ t.slots.activating = false ∧
  (s.slots.stagedSt = .loading → t.slots.stagedSt = .empty ∧ t.slots.staged = []) ∧
  (s.slots.stagedSt ≠ .loading → t.slots.stagedSt = s.slots.stagedSt ∧ t.slots.staged = s.slots.staged) ∧
  t.sk.reports = s.sk.reports ∧ t.sk.log = s.sk.log ∧ t.sk.remap = s.sk.remap ∧ t.sk.hmac = s.sk.hmac

/-- What the Storekeeper keeps in its persistent store (R343, R400, R436, R470). -/
def Sys2Proof.Machine.Keeper.persists (k l : Keeper) : Prop :=
  l.remap = k.remap ∧ l.active = k.active ∧ l.svnA = k.svnA ∧ l.svnB = k.svnB ∧ l.minSvn = k.minSvn ∧
  l.signing = k.signing ∧ l.hmac = k.hmac ∧ l.ceilings = k.ceilings ∧ l.reports = k.reports ∧ l.waiting = k.waiting ∧
  l.record = k.record

/-- The resets and their ends. That Larder bytes read zero after an engine reset and what else returns to its reset value is
the model's choice (log entry 30); so is the log ring, empty after an always-on reset (log entry 31). That an agent's reset
empties its remap table and hold queue and asks for repair again is its reading (log entry 32), and so is that a STAGE which
waited through the reset ends BUSY (log entries 27 and 36). -/
def Obligations.ResetCommands : Prop :=
  (∀ s : State, exec .coreResetRelease s = .next { s with pwr := { s.pwr with coreRstN := true } }) ∧
  (∀ s : State, (s.pwr.engineUp = true → answers .coreResetAssert s fun t =>
      t.pwr.coreRstN = false ∧ s.engineCleared t ∧ (s.pwr.stopped = false → ∀ n : AgentId,
        (t.agent n).up = (s.agent n).up ∧ (t.agent n).remap = (s.agent n).remap ∧ (t.agent n).dir = [] ∧
        ∀ c ∈ (t.agent n).crates, c.st ≠ .open_ ∧ c.st ≠ .sealing ∧ c.st ≠ .sealed)) ∧
    (s.pwr.engineUp = false → exec .coreResetAssert s = .next { s with pwr := { s.pwr with coreRstN := false } })) ∧
  (∀ (bad : BitVec 50) (s : State), s.pwr.engineUp = false → s.mayLeave = true →
    answers (.engineDomainResetExit bad) s fun t =>
      t.pwr.engineUp = true ∧ t.pwr.stopped = false ∧ t.mem = s.mem.filter (fun e => spaceOf e.1 != 1) ∧
      (∀ i < 48, bad.getLsbD i = false → t.eng.tiles.getD i .isolated = .active i) ∧
      (∀ i < 50, bad.getLsbD i = true → t.eng.tiles.getD i .isolated = .isolated) ∧
      (∀ i < 48, bad.getLsbD i = true → (∀ j < i, bad.getLsbD j = false) →
        (bad.getLsbD 48 = false → t.eng.tiles.getD 48 .isolated = .active i) ∧
        (bad.getLsbD 48 = true → bad.getLsbD 49 = false → t.eng.tiles.getD 49 .isolated = .active i) ∧
        (bad.getLsbD 48 = true → bad.getLsbD 49 = true → (t.engine i).lost = true)) ∧
      (s.slots.current.isSome = true → t.slots.activating = true ∧ t.slots.current = s.slots.current ∧ t.regs = [] ∧
        t.cfg = Cfg.empty ∧ t.disp = Disp.init) ∧
      (s.slots.current = none → s.slots.later = 0 → t.slots.activating = false ∧ t.slots.cmd = none) ∧
      (s.slots.current = none → s.slots.later ≠ 0 → t.slots.cmd = none ∧ t.slots.later = 0 ∧ t.slots.lastStatus = 1 ∧
        .response 0x06 1 [] ∈ t.sk.out)) ∧
  (∀ (n : AgentId) (s : State), s.targetOn = true → (s.link n).resetDone = false →
    answers (.trainingAtResetEnd n) s fun t => t.link n = { s.link n with resetDone := true } ∧
      (∀ m, m ≠ n.val → t.link m = s.link m) ∧
      ((∀ m : AgentId, m ≠ n → (s.link m).resetDone = true) → s.slots.current.isSome = true →
        s.slots.activating = false → t.ready = true ∧ bitOf (t.noticeBits Reg.fnNotice) 0 = true) ∧
      s.changes t [.notices, .net]) ∧
  (∀ (n : AgentId) (s : State), answers (.agentResetRelease n) s fun t =>
    (t.agent n).released = true ∧
    (t.agent n).up = (!(s.agent n).failed && !s.pwr.lost.contains (.mclk n)) ∧ s.changes t [.net]) ∧
  (∀ (n : AgentId) (s : State), ((s.agent n).released = true → answers (.agentResetAssert n) s fun t =>
      (t.agent n).released = false ∧ (t.agent n).up = false ∧ (t.agent n).remap = [] ∧ (t.agent n).repairDone = false ∧
      (t.agent n).hold = [] ∧ (∀ c ∈ (t.agent n).crates, c = Crate.empty) ∧ (t.link n).st = .down ∧
      (∀ j < 128, t.counterAt (agentCounter n j) = 0)) ∧
    ((s.agent n).released = false → exec (.agentResetAssert n) s = .next s)) ∧
  (∀ s : State, s.pwr.aonUp = true → answers .aonResetAssert s fun t =>
    t.pwr.aonUp = false ∧ t.pwr.engineUp = false ∧ t.slots = Slots.init ∧ s.sk.persists t.sk ∧ t.sk.up = false ∧
    t.sk.log = [] ∧ (∀ n : AgentId, (t.agent n).marker = none) ∧
    (s.pwr.engineUp = true → t.regs = [] ∧ t.cfg = Cfg.empty ∧ t.eng = Eng.init ∧ t.obs = Obs.init)) ∧
  (∀ (a b : Bool) (rec : Option IntegrationRecord) (s : State), s.pwr.aonUp = false → Clk.sclk ∉ s.pwr.lost →
    (∀ p < 2, ∀ k ∈ (s.port p).held, rxMgmt k = false) →
    let good (copy : Nat) : Prop := (if copy = 0 then a else b) = true ∧ s.sk.minSvn ≤ s.sk.svn copy ∧
      s.sk.signing.any Option.isSome = true
    let old := s.sk.active
    let starts (copy : Nat) : Prop := answers (.aonResetRelease a b rec) s fun t =>
      t.pwr.aonUp = true ∧ t.sk.up = true ∧ t.sk.active = copy ∧ t.sk.record = rec ∧ t.sk.waiting = [] ∧
      t.sk.reports = s.sk.reports ++ s.sk.waiting ∧
      ∀ r, rec = some r → ∀ i < 24, t.mov.stackBase.get 0#64 i = ((r.stackBase[i]?).map fun x => BitVec.ofNat 64 x.toNat).getD 0#64
    (good old → starts old) ∧ (¬ good old → good (1 - old) → starts (1 - old)) ∧
    (¬ good old → ¬ good (1 - old) → answers (.aonResetRelease a b rec) s fun t =>
      t.pwr.aonUp = true ∧ t.sk = { s.sk with fwOk := [a, b] } ∧ s.changes t [.pwr, .sk]))
end

