-- ==== Sys2Proof/Laws/Tab.lean ====
section
/-! SUPPORT. Reading a table after a write, and the canonical form of tables and of memory. -/

namespace Sys2Proof.Machine

variable {α : Type}

theorem Tab.get_erase (d : α) (t : Tab α) (k j : Nat) :
    Tab.get d (t.erase k) j = if j = k then d else t.get d j := by
  induction t with
  | nil => simp [Tab.erase, Tab.get]
  | cons e t ih =>
    obtain ⟨a, b⟩ := e
    simp only [Tab.erase] at ih ⊢
    by_cases h : a = k
    · simp only [List.filter, h, bne_self_eq_false, ih, Tab.get]
      split <;> rfl
    · have : (a != k) = true := by simpa using h
      simp only [List.filter, this, Tab.get, ih]
      split
      · subst_vars; simp [h]
      · rfl

theorem Tab.get_insert (d : α) (t : Tab α) (k j : Nat) (v : α) (h : ∀ e ∈ t, e.1 ≠ k) :
    Tab.get d (t.insert k v) j = if j = k then v else t.get d j := by
  induction t with
  | nil => rfl
  | cons e t ih =>
    obtain ⟨a, b⟩ := e
    have ha : a ≠ k := h (a, b) (by simp)
    have ih := ih fun e he => h e (by simp [he])
    simp only [Tab.insert]
    split
    · simp [Tab.get]
    · simp only [Tab.get, ih]
      split
      · subst_vars; simp [ha]
      · rfl

theorem Tab.erase_keys (t : Tab α) (k : Nat) : ∀ e ∈ t.erase k, e.1 ≠ k := by simp [Tab.erase]

/-- A write reads back, and leaves every other key alone. -/
@[simp] theorem Tab.get_set [DecidableEq α] (d : α) (t : Tab α) (k j : Nat) (v : α) :
    Tab.get d (t.set d k v) j = if j = k then v else t.get d j := by
  unfold Tab.set
  split
  · subst_vars; exact Tab.get_erase v t k j
  · rw [Tab.get_insert d _ k j v (t.erase_keys k), Tab.get_erase]
    split <;> rfl

theorem Tab.above_erase (b : Nat) (t : Tab α) (k : Nat) (h : Tab.above b t = true) : Tab.above b (t.erase k) = true := by
  simp only [Tab.above, Tab.erase, List.all_eq_true, List.mem_filter] at *
  exact fun e he => h e he.1

theorem Tab.wf_filter [DecidableEq α] (d : α) (t : Tab α) (p : Nat × α → Bool) (h : t.wf d = true) :
    Tab.wf d (t.filter p) = true := by
  induction t with
  | nil => rfl
  | cons e t ih =>
    obtain ⟨a, b⟩ := e
    simp only [Tab.wf, Bool.and_eq_true, decide_eq_true_eq] at h
    simp only [List.filter]
    split
    · simp only [Tab.wf, Bool.and_eq_true, decide_eq_true_eq]
      refine ⟨⟨h.1.1, ?_⟩, ih h.2⟩
      have := h.1.2
      simp only [Tab.above, List.all_eq_true, List.mem_filter] at this ⊢
      exact fun e he => this e he.1
    · exact ih h.2

theorem Tab.wf_insert [DecidableEq α] (d : α) (t : Tab α) (k : Nat) (v : α) (h : t.wf d = true) (hv : v ≠ d)
    (hk : ∀ e ∈ t, e.1 ≠ k) : Tab.wf d (t.insert k v) = true ∧ ∀ b, b < k → Tab.above b t = true →
      Tab.above b (t.insert k v) = true := by
  induction t with
  | nil => simp [Tab.insert, Tab.wf, Tab.above, hv]
  | cons e t ih =>
    obtain ⟨a, c⟩ := e
    have ha : a ≠ k := hk (a, c) (by simp)
    simp only [Tab.wf, Bool.and_eq_true, decide_eq_true_eq] at h
    have ih := ih h.2 fun e he => hk e (by simp [he])
    simp only [Tab.insert]
    split
    case isTrue hl =>
      refine ⟨?_, fun b hb hab => ?_⟩
      · simp only [Tab.wf, Bool.and_eq_true, decide_eq_true_eq, h, hv, ne_eq, not_false_eq_true, and_true, true_and]
        have := h.1.2
        simp only [Tab.above, List.all_eq_true, List.mem_cons, decide_eq_true_eq] at this ⊢
        rintro e (rfl | he)
        · exact hl
        · exact Nat.lt_trans hl (this e he)
      · simp only [Tab.above, List.all_cons, Bool.and_eq_true, decide_eq_true_eq] at hab ⊢
        exact ⟨hb, hab⟩
    case isFalse hl =>
      refine ⟨?_, fun b hb hab => ?_⟩
      · simp only [Tab.wf, Bool.and_eq_true, decide_eq_true_eq]
        exact ⟨⟨h.1.1, ih.2 a (by omega) h.1.2⟩, ih.1⟩
      · have hab' : b < a ∧ Tab.above b t = true := by simpa [Tab.above] using hab
        have := ih.2 b hb hab'.2
        simp only [Tab.above, List.all_cons, Bool.and_eq_true, decide_eq_true_eq] at this ⊢
        exact ⟨hab'.1, this⟩

/-- A write keeps the canonical form. -/
theorem Tab.wf_set [DecidableEq α] (d : α) (t : Tab α) (k : Nat) (v : α) (h : t.wf d = true) :
    Tab.wf d (t.set d k v) = true := by
  unfold Tab.set
  split
  · exact t.wf_filter d _ h
  · exact (Tab.wf_insert d _ k v (t.wf_filter d _ h) ‹_› (t.erase_keys k)).1

theorem Tab.wf_modify [DecidableEq α] (d : α) (t : Tab α) (k : Nat) (f : α → α) (h : t.wf d = true) :
    Tab.wf d (t.modify d k f) = true := t.wf_set d k _ h

@[simp] theorem Tab.get_modify [DecidableEq α] (d : α) (t : Tab α) (k j : Nat) (f : α → α) :
    Tab.get d (t.modify d k f) j = if j = k then f (t.get d k) else t.get d j := t.get_set d k j _

/-! ### Memory -/

/-- One byte read after a write of one byte. -/
@[simp] theorem Memory.byte_put (m : Tab Byte) (a x : Nat) (b : Byte) :
    Memory.byte (Memory.put m a b) x = if x = a then b else Memory.byte m x := m.get_set memDefault a x b

theorem Memory.wf_put (m : Tab Byte) (a : Nat) (b : Byte) (h : Memory.wf m = true) :
    Memory.wf (Memory.put m a b) = true := m.wf_set memDefault a b h

/-- Every write keeps the canonical form of memory. -/
theorem Memory.wf_write (m : Tab Byte) (a : Nat) (bs : Bytes) (h : Memory.wf m = true) :
    Memory.wf (Memory.write m a bs) = true := by
  induction bs generalizing m a with
  | nil => exact h
  | cons b bs ih => exact ih _ _ (Memory.wf_put m a b h)

/-- One byte read after a write of some bytes. -/
theorem Memory.byte_write (m : Tab Byte) (a x : Nat) (bs : Bytes) :
    Memory.byte (Memory.write m a bs) x =
      if a ≤ x ∧ x < a + bs.length then bs.getD (x - a) 0#8 else Memory.byte m x := by
  induction bs generalizing m a with
  | nil => simp only [Memory.write, List.length_nil, Nat.add_zero]; split; omega; rfl
  | cons b bs ih =>
    simp only [Memory.write, ih, Memory.byte_put, List.length_cons]
    by_cases h1 : a + 1 ≤ x ∧ x < a + 1 + bs.length
    · obtain ⟨j, rfl⟩ : ∃ j, x = a + 1 + j := ⟨x - (a + 1), by omega⟩
      rw [if_pos h1, if_pos (by omega)]
      have e1 : a + 1 + j - (a + 1) = j := by omega
      have e2 : a + 1 + j - a = j + 1 := by omega
      rw [e1, e2, List.getD_cons_succ]
    · rw [if_neg h1]
      by_cases h2 : x = a
      · subst h2; simp
      · rw [if_neg h2, if_neg (by omega)]

theorem Memory.wf_reset : Memory.wf State.reset.mem = true := rfl

end Sys2Proof.Machine
end

