-- ==== Sys2Proof/Laws/Keeps.lean ====
section
/-! SUPPORT. What every shared operation keeps: the predicate, and its rules for outcomes, pairs and folds. -/

namespace Sys2Proof.Machine

open Sys2Proof

variable {F : Part → Bool} {I : Prop} {o : State} {T : List TileSt} {s : State}

/-- The state s is what an operation made of the state o: the queue is as it was, every part p with F p false is as it
was, and under I the tables keep their canonical forms and the counts their widths. T is what the tiles are now. -/
structure State.Keeps (s : State) (F : Part → Bool) (I : Prop) (o : State) (T : List TileSt) : Prop where
  pending : s.pending = o.pending
  same : ∀ p, F p = false → s.same o p
  tiles : s.eng.tiles = T
  mem : I → Memory.wf s.mem = true
  regs : I → s.regs.wf 0#64 = true
  notices : I → s.notices.wf 0#64 = true
  counters : I → s.obs.counters.wf 0#64 = true
  drops : I → s.obs.drops.wf 0#64 = true
  epoch : I → s.host.epoch < 2 ^ 16
  generation : I → s.slots.generation < 2 ^ 32
  prod : I → s.obs.prod < 2 ^ 32
  log : I → s.sk.log.length ≤ 1024


/-- A next state of an outcome is kept. -/
def OutK (F : Part → Bool) (I : Prop) (o : State) (T : List TileSt)
      (r : Out) : Prop := ∀ t, r = .next t → t.Keeps F I o T
/-- The state that an answer carries is kept. -/
def OptK (F : Part → Bool) (I : Prop) (o : State) (T : List TileSt) {α : Type} (g : α → State)
      (a : Option α) : Prop :=
  ∀ r, a = some r → (g r).Keeps F I o T

theorem OutK.next (h : s.Keeps F I o T) : OutK F I o T (.next s) := by rintro t ⟨⟩; exact h
theorem OutK.fault (e) : OutK F I o T (.fault e) := by rintro t ⟨⟩
theorem OutK.refused (e) : OutK F I o T (.refused e) := by rintro t ⟨⟩
theorem OptK.some {α : Type} {g : α → State} {r : α} (h : (g r).Keeps F I o T) : OptK F I o T g (.some r) := by
  rintro t ⟨⟩; exact h
theorem OptK.none {α : Type} {g : α → State} : OptK F I o T g .none := by rintro t ⟨⟩
theorem OptK.of {a : Option State} {t : State} (e : a = .some t) (h : OptK F I o T
    (fun r => r) a) : t.Keeps F I o T := h t e
theorem OptK.of1 {α : Type} {a : Option (α × State)} {x} {t : State} (e : a = .some (x, t))
    (h : OptK F I o T (fun r => r.2) a) : t.Keeps F I o T := h _ e
theorem OptK.of3 {α β γ : Type} {a : Option (α × β × γ × State)} {x y z} {t : State} (e : a = .some (x, y, z, t))
    (h : OptK F I o T (fun r => r.2.2.2) a) : t.Keeps F I o T := h _ e
theorem State.Keeps.snd {α : Type} {p : α × State} {x} {t : State} (e : p = (x, t)) (h : p.2.Keeps F I o T) :
    t.Keeps F I o T := by subst e; exact h
theorem State.Keeps.fst {α : Type} {p : State × α} {x} {t : State} (e : p = (t, x)) (h : p.1.Keeps F I o T) :
    t.Keeps F I o T := by subst e; exact h
theorem State.Keeps.snd2 {α β : Type} {p : α × β × State} {x y} {t : State} (e : p = (x, y, t))
    (h : p.2.2.Keeps F I o T) : t.Keeps F I o T := by subst e; exact h
theorem State.Keeps.snd3 {α β γ : Type} {p : α × β × γ × State} {x y z} {t : State} (e : p = (x, y, z, t))
    (h : p.2.2.2.Keeps F I o T) : t.Keeps F I o T := by subst e; exact h

theorem foldl_keeps {α β : Type} (P : β → Prop) (f : β → α → β) (l : List α) (b : β) (hb : P b)
    (hf : ∀ b a, P b → P (f b a)) : P (l.foldl f b) := by
  induction l generalizing b with
  | nil => exact hb
  | cons a l ih => exact ih _ (hf _ _ hb)

theorem State.each_keeps {α : Type} {l : List α} {f : State → α → State} (h : s.Keeps F I o T)
    (hf : ∀ s a, s.Keeps F I o T → (f s a).Keeps F I o T) : (s.each l f).Keeps F I o T :=
  foldl_keeps (fun s : State => s.Keeps F I o T) _ _ _ h hf

theorem Part.other {p r : Part} {F : Part → Bool} (hr : F r = true) (hp : F p = false) : p ≠ r := by
  rintro rfl; simp [hr] at hp

theorem State.with_fresh {v : Nat} (h : s.Keeps F I o T) (f_fresh : F .fresh = true) :
    State.Keeps { s with fresh := v } F I o T := by
  exact ⟨h.pending, fun p hp => by
    have := h.same p hp
    have := Part.other f_fresh hp
    cases p <;> first | assumption | contradiction, h.tiles, h.mem, h.regs, h.notices, h.counters, h.drops, h.epoch,
        h.generation, h.prod, h.log⟩

theorem State.with_pwr {v : Power} (h : s.Keeps F I o T) (f_pwr : F .pwr = true) :
    State.Keeps { s with pwr := v } F I o T := by
  exact ⟨h.pending, fun p hp => by
    have := h.same p hp
    have := Part.other f_pwr hp
    cases p <;> first | assumption | contradiction, h.tiles, h.mem, h.regs, h.notices, h.counters, h.drops, h.epoch,
        h.generation, h.prod, h.log⟩

theorem State.with_host {v : HostSide} (h : s.Keeps F I o T) (f_host : F .host = true)
    (h_epoch : I → v.epoch < 2 ^ 16) :
    State.Keeps { s with host := v } F I o T := by
  exact ⟨h.pending, fun p hp => by
    have := h.same p hp
    have := Part.other f_host hp
    cases p <;> first | assumption | contradiction, h.tiles, h.mem, h.regs, h.notices, h.counters, h.drops, h_epoch,
        h.generation, h.prod, h.log⟩

theorem State.with_regs {v : Tab Word} (h : s.Keeps F I o T) (f_regs : F .regs = true)
    (h_regs : I → v.wf 0#64 = true) :
    State.Keeps { s with regs := v } F I o T := by
  exact ⟨h.pending, fun p hp => by
    have := h.same p hp
    have := Part.other f_regs hp
    cases p <;> first | assumption | contradiction, h.tiles, h.mem, h_regs, h.notices, h.counters, h.drops, h.epoch,
        h.generation, h.prod, h.log⟩

theorem State.with_notices {v : Tab Word} (h : s.Keeps F I o T) (f_notices : F .notices = true)
    (h_notices : I → v.wf 0#64 = true) :
    State.Keeps { s with notices := v } F I o T := by
  exact ⟨h.pending, fun p hp => by
    have := h.same p hp
    have := Part.other f_notices hp
    cases p <;> first | assumption | contradiction, h.tiles, h.mem, h.regs, h_notices, h.counters, h.drops, h.epoch,
        h.generation, h.prod, h.log⟩

theorem State.with_mem {v : Tab Byte} (h : s.Keeps F I o T) (f_mem : F .mem = true) (h_mem : I → Memory.wf v = true) :
    State.Keeps { s with mem := v } F I o T := by
  exact ⟨h.pending, fun p hp => by
    have := h.same p hp
    have := Part.other f_mem hp
    cases p <;> first | assumption | contradiction, h.tiles, h_mem, h.regs, h.notices, h.counters, h.drops, h.epoch,
        h.generation, h.prod, h.log⟩

theorem State.with_wild {v : List OpenRun} (h : s.Keeps F I o T) (f_wild : F .wild = true) :
    State.Keeps { s with wild := v } F I o T := by
  exact ⟨h.pending, fun p hp => by
    have := h.same p hp
    have := Part.other f_wild hp
    cases p <;> first | assumption | contradiction, h.tiles, h.mem, h.regs, h.notices, h.counters, h.drops, h.epoch,
        h.generation, h.prod, h.log⟩

theorem State.with_slots {v : Slots} (h : s.Keeps F I o T) (f_slots : F .slots = true)
    (h_generation : I → v.generation < 2 ^ 32) :
    State.Keeps { s with slots := v } F I o T := by
  exact ⟨h.pending, fun p hp => by
    have := h.same p hp
    have := Part.other f_slots hp
    cases p <;> first | assumption | contradiction, h.tiles, h.mem, h.regs, h.notices, h.counters, h.drops, h.epoch,
        h_generation, h.prod, h.log⟩

theorem State.with_cfg {v : Cfg} (h : s.Keeps F I o T) (f_cfg : F .cfg = true) :
    State.Keeps { s with cfg := v } F I o T := by
  exact ⟨h.pending, fun p hp => by
    have := h.same p hp
    have := Part.other f_cfg hp
    cases p <;> first | assumption | contradiction, h.tiles, h.mem, h.regs, h.notices, h.counters, h.drops, h.epoch,
        h.generation, h.prod, h.log⟩

theorem State.with_disp {v : Disp} (h : s.Keeps F I o T) (f_disp : F .disp = true) :
    State.Keeps { s with disp := v } F I o T := by
  exact ⟨h.pending, fun p hp => by
    have := h.same p hp
    have := Part.other f_disp hp
    cases p <;> first | assumption | contradiction, h.tiles, h.mem, h.regs, h.notices, h.counters, h.drops, h.epoch,
        h.generation, h.prod, h.log⟩

theorem State.with_eng {v : Eng} (h : s.Keeps F I o T) (f_eng : F .eng = true) (h_tiles : v.tiles = s.eng.tiles) :
    State.Keeps { s with eng := v } F I o T := by
  exact ⟨h.pending, fun p hp => by
    have := h.same p hp
    have := Part.other f_eng hp
    cases p <;> first | assumption | contradiction, h_tiles.trans h.tiles, h.mem, h.regs, h.notices, h.counters,
        h.drops, h.epoch, h.generation, h.prod, h.log⟩

theorem State.with_arr {v : Arr} (h : s.Keeps F I o T) (f_arr : F .arr = true) :
    State.Keeps { s with arr := v } F I o T := by
  exact ⟨h.pending, fun p hp => by
    have := h.same p hp
    have := Part.other f_arr hp
    cases p <;> first | assumption | contradiction, h.tiles, h.mem, h.regs, h.notices, h.counters, h.drops, h.epoch,
        h.generation, h.prod, h.log⟩

theorem State.with_net {v : Net} (h : s.Keeps F I o T) (f_net : F .net = true) :
    State.Keeps { s with net := v } F I o T := by
  exact ⟨h.pending, fun p hp => by
    have := h.same p hp
    have := Part.other f_net hp
    cases p <;> first | assumption | contradiction, h.tiles, h.mem, h.regs, h.notices, h.counters, h.drops, h.epoch,
        h.generation, h.prod, h.log⟩

theorem State.with_mov {v : Mover} (h : s.Keeps F I o T) (f_mov : F .mov = true) :
    State.Keeps { s with mov := v } F I o T := by
  exact ⟨h.pending, fun p hp => by
    have := h.same p hp
    have := Part.other f_mov hp
    cases p <;> first | assumption | contradiction, h.tiles, h.mem, h.regs, h.notices, h.counters, h.drops, h.epoch,
        h.generation, h.prod, h.log⟩

theorem State.with_hi {v : Tab HiChan} (h : s.Keeps F I o T) (f_hi : F .hi = true) :
    State.Keeps { s with hi := v } F I o T := by
  exact ⟨h.pending, fun p hp => by
    have := h.same p hp
    have := Part.other f_hi hp
    cases p <;> first | assumption | contradiction, h.tiles, h.mem, h.regs, h.notices, h.counters, h.drops, h.epoch,
        h.generation, h.prod, h.log⟩

theorem State.with_peer {v : Peer} (h : s.Keeps F I o T) (f_peer : F .peer = true) :
    State.Keeps { s with peer := v } F I o T := by
  exact ⟨h.pending, fun p hp => by
    have := h.same p hp
    have := Part.other f_peer hp
    cases p <;> first | assumption | contradiction, h.tiles, h.mem, h.regs, h.notices, h.counters, h.drops, h.epoch,
        h.generation, h.prod, h.log⟩

theorem State.with_porters {v : Tab Porter} (h : s.Keeps F I o T) (f_porters : F .porters = true) :
    State.Keeps { s with porters := v } F I o T := by
  exact ⟨h.pending, fun p hp => by
    have := h.same p hp
    have := Part.other f_porters hp
    cases p <;> first | assumption | contradiction, h.tiles, h.mem, h.regs, h.notices, h.counters, h.drops, h.epoch,
        h.generation, h.prod, h.log⟩

theorem State.with_sk {v : Keeper} (h : s.Keeps F I o T) (f_sk : F .sk = true) (h_log : I → v.log.length ≤ 1024) :
    State.Keeps { s with sk := v } F I o T := by
  exact ⟨h.pending, fun p hp => by
    have := h.same p hp
    have := Part.other f_sk hp
    cases p <;> first | assumption | contradiction, h.tiles, h.mem, h.regs, h.notices, h.counters, h.drops, h.epoch,
        h.generation, h.prod, h_log⟩

theorem State.with_obs {v : Obs} (h : s.Keeps F I o T) (f_obs : F .obs = true)
    (h_counters : I → v.counters.wf 0#64 = true) (h_drops : I → v.drops.wf 0#64 = true)
        (h_prod : I → v.prod < 2 ^ 32) :
    State.Keeps { s with obs := v } F I o T := by
  exact ⟨h.pending, fun p hp => by
    have := h.same p hp
    have := Part.other f_obs hp
    cases p <;> first | assumption | contradiction, h.tiles, h.mem, h.regs, h.notices, h_counters, h_drops, h.epoch,
        h.generation, h_prod, h.log⟩

end Sys2Proof.Machine
end

