-- ==== Sys2Proof/Laws/KeepsOps.lean ====
section
/-! SUPPORT. What each operation over memory, notices, counters, the Store Room, the Larder and works may change,
      and what it keeps. -/

namespace Sys2Proof.Machine

open Sys2Proof

variable {F : Part → Bool} {I : Prop} {o : State} {T : List TileSt}

theorem State.setRing_keeps {s : State} {r : Nat} {v : Ring} (h_s : s.Keeps F I o T) (f_disp : F .disp = true) :
    (State.setRing s r v).Keeps F I o T := by
  unfold State.setRing
  repeat' first
    | with_reducible assumption
    | with_reducible apply State.with_disp
    | split

theorem State.setWork_keeps {s : State} {w : Nat} {v : Work} (h_s : s.Keeps F I o T) (f_disp : F .disp = true) :
    (State.setWork s w v).Keeps F I o T := by
  unfold State.setWork
  repeat' first
    | with_reducible assumption
    | with_reducible apply State.with_disp
    | split

theorem State.dropWork_keeps {s : State} {w : Nat} (h_s : s.Keeps F I o T) (f_disp : F .disp = true) :
    (State.dropWork s w).Keeps F I o T := by
  unfold State.dropWork
  repeat' first
    | with_reducible assumption
    | with_reducible apply State.with_disp
    | split

theorem State.modWork_keeps {s : State} {w : Nat} {f : Work → Work} (h_s : s.Keeps F I o T)
    (f_disp : F .disp = true) :
    (State.modWork s w f).Keeps F I o T := by
  unfold State.modWork
  repeat' first
    | with_reducible assumption
    | with_reducible apply State.setWork_keeps
    | split

theorem State.newWork_keeps {s : State} {v : Work} (h_s : s.Keeps F I o T) (f_disp : F .disp = true) :
    (State.newWork s v).2.Keeps F I o T := by
  unfold State.newWork
  repeat' first
    | with_reducible assumption
    | with_reducible apply State.with_disp
    | split

theorem State.setScatter_keeps {s : State} {i : Nat} {v : Option Scatter} (h_s : s.Keeps F I o T)
    (f_disp : F .disp = true) :
    (State.setScatter s i v).Keeps F I o T := by
  unfold State.setScatter
  repeat' first
    | with_reducible assumption
    | with_reducible apply State.with_disp
    | split

theorem State.setEngine_keeps {s : State} {p : Nat} {v : Engine} (h_s : s.Keeps F I o T) (f_eng : F .eng = true) :
    (State.setEngine s p v).Keeps F I o T := by
  unfold State.setEngine
  repeat' first
    | with_reducible assumption
    | with_reducible apply State.with_eng
    | refine State.Keeps.fst (by with_reducible assumption) ?_
    | refine State.Keeps.snd (by with_reducible assumption) ?_
    | refine State.Keeps.snd2 (by with_reducible assumption) ?_
    | refine State.Keeps.snd3 (by with_reducible assumption) ?_
    | split
    | dsimp only

theorem State.modEngine_keeps {s : State} {p : Nat} {f : Engine → Engine} (h_s : s.Keeps F I o T)
    (f_eng : F .eng = true) :
    (State.modEngine s p f).Keeps F I o T := by
  unfold State.modEngine
  repeat' first
    | with_reducible assumption
    | with_reducible apply State.setEngine_keeps
    | split

theorem State.setArray_keeps {s : State} {a : Nat} {v : ArraySt} (h_s : s.Keeps F I o T) (f_arr : F .arr = true) :
    (State.setArray s a v).Keeps F I o T := by
  unfold State.setArray
  repeat' first
    | with_reducible assumption
    | with_reducible apply State.with_arr
    | split

theorem State.setSem_keeps {s : State} {p : Nat} {v : Sem} (h_s : s.Keeps F I o T) (f_arr : F .arr = true) :
    (State.setSem s p v).Keeps F I o T := by
  unfold State.setSem
  repeat' first
    | with_reducible assumption
    | with_reducible apply State.with_arr
    | split

theorem State.modMcast_keeps {s : State} {f : List McPkt → List McPkt} (h_s : s.Keeps F I o T)
    (f_arr : F .arr = true) :
    (State.modMcast s f).Keeps F I o T := by
  unfold State.modMcast
  repeat' first
    | with_reducible assumption
    | with_reducible apply State.with_arr
    | split

theorem State.modBatches_keeps {s : State} {f : List Batch → List Batch} (h_s : s.Keeps F I o T)
    (f_arr : F .arr = true) :
    (State.modBatches s f).Keeps F I o T := by
  unfold State.modBatches
  repeat' first
    | with_reducible assumption
    | with_reducible apply State.with_arr
    | split

theorem State.setAgent_keeps {s : State} {n : Nat} {v : Agent} (h_s : s.Keeps F I o T) (f_net : F .net = true) :
    (State.setAgent s n v).Keeps F I o T := by
  unfold State.setAgent
  repeat' first
    | with_reducible assumption
    | with_reducible apply State.with_net
    | split

theorem State.modAgent_keeps {s : State} {n : Nat} {f : Agent → Agent} (h_s : s.Keeps F I o T)
    (f_net : F .net = true) :
    (State.modAgent s n f).Keeps F I o T := by
  unfold State.modAgent
  repeat' first
    | with_reducible assumption
    | with_reducible apply State.setAgent_keeps
    | split

theorem State.setLink_keeps {s : State} {n : Nat} {v : Link} (h_s : s.Keeps F I o T) (f_net : F .net = true) :
    (State.setLink s n v).Keeps F I o T := by
  unfold State.setLink
  repeat' first
    | with_reducible assumption
    | with_reducible apply State.with_net
    | split

theorem State.modLink_keeps {s : State} {n : Nat} {f : Link → Link} (h_s : s.Keeps F I o T) (f_net : F .net = true) :
    (State.modLink s n f).Keeps F I o T := by
  unfold State.modLink
  repeat' first
    | with_reducible assumption
    | with_reducible apply State.setLink_keeps
    | split

theorem State.setChan_keeps {s : State} {c : Nat} {v : Chan} (h_s : s.Keeps F I o T) (f_mov : F .mov = true) :
    (State.setChan s c v).Keeps F I o T := by
  unfold State.setChan
  repeat' first
    | with_reducible assumption
    | with_reducible apply State.with_mov
    | split

theorem State.modChan_keeps {s : State} {c : Nat} {f : Chan → Chan} (h_s : s.Keeps F I o T) (f_mov : F .mov = true) :
    (State.modChan s c f).Keeps F I o T := by
  unfold State.modChan
  repeat' first
    | with_reducible assumption
    | with_reducible apply State.setChan_keeps
    | split

theorem State.setHiChan_keeps {s : State} {c : Nat} {v : HiChan} (h_s : s.Keeps F I o T) (f_hi : F .hi = true) :
    (State.setHiChan s c v).Keeps F I o T := by
  unfold State.setHiChan
  repeat' first
    | with_reducible assumption
    | with_reducible apply State.with_hi
    | split

theorem State.setConn_keeps {s : State} {c : Nat} {v : Conn} (h_s : s.Keeps F I o T) (f_peer : F .peer = true) :
    (State.setConn s c v).Keeps F I o T := by
  unfold State.setConn
  repeat' first
    | with_reducible assumption
    | with_reducible apply State.with_peer
    | split

theorem State.setPort_keeps {s : State} {p : Nat} {v : PeerPort} (h_s : s.Keeps F I o T) (f_peer : F .peer = true) :
    (State.setPort s p v).Keeps F I o T := by
  unfold State.setPort
  repeat' first
    | with_reducible assumption
    | with_reducible apply State.with_peer
    | split

theorem State.setPorter_keeps {s : State} {m : Nat} {v : Porter} (h_s : s.Keeps F I o T)
    (f_porters : F .porters = true) :
    (State.setPorter s m v).Keeps F I o T := by
  unfold State.setPorter
  repeat' first
    | with_reducible assumption
    | with_reducible apply State.with_porters
    | split

theorem State.modPorter_keeps {s : State} {m : Nat} {f : Porter → Porter} (h_s : s.Keeps F I o T)
    (f_porters : F .porters = true) :
    (State.modPorter s m f).Keeps F I o T := by
  unfold State.modPorter
  repeat' first
    | with_reducible assumption
    | with_reducible apply State.setPorter_keeps
    | split

theorem State.setFifo_keeps {s : State} {u : Nat} {v : Fifo} (h_s : s.Keeps F I o T) (f_obs : F .obs = true) :
    (State.setFifo s u v).Keeps F I o T := by
  unfold State.setFifo
  try dsimp only
  repeat' first
    | with_reducible assumption
    | with_reducible apply State.with_obs
    | refine State.Keeps.fst (by with_reducible assumption) ?_
    | refine State.Keeps.snd (by with_reducible assumption) ?_
    | refine State.Keeps.snd2 (by with_reducible assumption) ?_
    | refine State.Keeps.snd3 (by with_reducible assumption) ?_
    | split
    | with_reducible intro a_
    | dsimp only
    | with_reducible refine ⟨?_, ?_, ?_⟩
    | with_reducible rfl
    | apply Tab.wf_set
    | apply Tab.wf_filter
    | apply Tab.wf_modify
    | apply Memory.wf_put
    | apply Memory.wf_write
    | with_reducible refine State.Keeps.mem (F := F) (o := o) (T := T) ?_ (by assumption)
    | with_reducible refine State.Keeps.regs (F := F) (o := o) (T := T) ?_ (by assumption)
    | with_reducible refine State.Keeps.notices (F := F) (o := o) (T := T) ?_ (by assumption)
    | with_reducible refine State.Keeps.counters (F := F) (o := o) (T := T) ?_ (by assumption)
    | with_reducible refine State.Keeps.drops (F := F) (o := o) (T := T) ?_ (by assumption)
    | with_reducible refine State.Keeps.epoch (F := F) (o := o) (T := T) ?_ (by assumption)
    | with_reducible refine State.Keeps.generation (F := F) (o := o) (T := T) ?_ (by assumption)
    | with_reducible refine State.Keeps.prod (F := F) (o := o) (T := T) ?_ (by assumption)
    | with_reducible refine State.Keeps.log (F := F) (o := o) (T := T) ?_ (by assumption)
    | with_reducible refine State.Keeps.tiles (F := F) (I := I) (o := o) ?_
    | exact Nat.mod_lt _ (by decide)
    | (simp_all; done)
    | (simp_all; omega)

theorem State.setUnit_keeps {s : State} {u : Nat} {v : UnitHealth} (h_s : s.Keeps F I o T) (f_obs : F .obs = true) :
    (State.setUnit s u v).Keeps F I o T := by
  unfold State.setUnit
  try dsimp only
  repeat' first
    | with_reducible assumption
    | with_reducible apply State.with_obs
    | refine State.Keeps.fst (by with_reducible assumption) ?_
    | refine State.Keeps.snd (by with_reducible assumption) ?_
    | refine State.Keeps.snd2 (by with_reducible assumption) ?_
    | refine State.Keeps.snd3 (by with_reducible assumption) ?_
    | split
    | with_reducible intro a_
    | dsimp only
    | with_reducible refine ⟨?_, ?_, ?_⟩
    | with_reducible rfl
    | apply Tab.wf_set
    | apply Tab.wf_filter
    | apply Tab.wf_modify
    | apply Memory.wf_put
    | apply Memory.wf_write
    | with_reducible refine State.Keeps.mem (F := F) (o := o) (T := T) ?_ (by assumption)
    | with_reducible refine State.Keeps.regs (F := F) (o := o) (T := T) ?_ (by assumption)
    | with_reducible refine State.Keeps.notices (F := F) (o := o) (T := T) ?_ (by assumption)
    | with_reducible refine State.Keeps.counters (F := F) (o := o) (T := T) ?_ (by assumption)
    | with_reducible refine State.Keeps.drops (F := F) (o := o) (T := T) ?_ (by assumption)
    | with_reducible refine State.Keeps.epoch (F := F) (o := o) (T := T) ?_ (by assumption)
    | with_reducible refine State.Keeps.generation (F := F) (o := o) (T := T) ?_ (by assumption)
    | with_reducible refine State.Keeps.prod (F := F) (o := o) (T := T) ?_ (by assumption)
    | with_reducible refine State.Keeps.log (F := F) (o := o) (T := T) ?_ (by assumption)
    | with_reducible refine State.Keeps.tiles (F := F) (I := I) (o := o) ?_
    | exact Nat.mod_lt _ (by decide)
    | (simp_all; done)
    | (simp_all; omega)

theorem State.setTc_keeps {s : State} {e : Nat} {v : Option TcEnt} (h_s : s.Keeps F I o T) (f_mov : F .mov = true) :
    (State.setTc s e v).Keeps F I o T := by
  unfold State.setTc
  repeat' first
    | with_reducible assumption
    | with_reducible apply State.with_mov
    | split

theorem State.setFault_keeps {s : State} {e : Nat} {v : Option FaultEnt} (h_s : s.Keeps F I o T)
    (f_mov : F .mov = true) :
    (State.setFault s e v).Keeps F I o T := by
  unfold State.setFault
  repeat' first
    | with_reducible assumption
    | with_reducible apply State.with_mov
    | split

theorem State.setFrame_keeps {s : State} {f : Nat} {v : FrameSt} (h_s : s.Keeps F I o T) (f_mov : F .mov = true) :
    (State.setFrame s f v).Keeps F I o T := by
  unfold State.setFrame
  repeat' first
    | with_reducible assumption
    | with_reducible apply State.with_mov
    | split

theorem State.modSk_keeps {s : State} {f : Keeper → Keeper} (h_s : s.Keeps F I o T)
    (h_f : ∀ a : Keeper, a.log.length ≤ 1024 → (f a).log.length ≤ 1024) (f_sk : F .sk = true) :
        (s.modSk f).Keeps F I o T :=
  State.with_sk h_s f_sk fun i => h_f _ (h_s.log i)

theorem State.modSlots_keeps {s : State} {f : Slots → Slots} (h_s : s.Keeps F I o T)
    (h_f : ∀ a : Slots, a.generation < 2 ^ 32 → (f a).generation < 2 ^ 32) (f_slots : F .slots = true) :
        (s.modSlots f).Keeps F I o T :=
  State.with_slots h_s f_slots fun i => h_f _ (h_s.generation i)

theorem State.modMov_keeps {s : State} {f : Mover → Mover} (h_s : s.Keeps F I o T) (f_mov : F .mov = true) :
    (State.modMov s f).Keeps F I o T := by
  unfold State.modMov
  repeat' first
    | with_reducible assumption
    | with_reducible apply State.with_mov
    | split

theorem State.modEng_keeps {s : State} {f : Eng → Eng} (h_s : s.Keeps F I o T)
    (h_f : ∀ a : Eng, (f a).tiles = a.tiles) (f_eng : F .eng = true) : (s.modEng f).Keeps F I o T :=
  State.with_eng h_s f_eng (h_f _)

theorem State.modDisp_keeps {s : State} {f : Disp → Disp} (h_s : s.Keeps F I o T) (f_disp : F .disp = true) :
    (State.modDisp s f).Keeps F I o T := by
  unfold State.modDisp
  repeat' first
    | with_reducible assumption
    | with_reducible apply State.with_disp
    | split

theorem State.modObs_keeps {s : State} {f : Obs → Obs} (h_s : s.Keeps F I o T)
    (h_f : ∀ a : Obs, a.counters.wf 0#64 = true → a.drops.wf 0#64 = true → a.prod < 2 ^ 32 →
      (f a).counters.wf 0#64 = true ∧ (f a).drops.wf 0#64 = true ∧ (f a).prod < 2 ^ 32) (f_obs : F .obs = true) :
          (s.modObs f).Keeps F I o T := by
  have h := fun i => h_f s.obs (h_s.counters i) (h_s.drops i) (h_s.prod i)
  exact State.with_obs h_s f_obs (fun i => (h i).1) (fun i => (h i).2.1) fun i => (h i).2.2

theorem State.modSnap_keeps {s : State} {f : Snap → Snap} (h_s : s.Keeps F I o T) (f_obs : F .obs = true) :
    (State.modSnap s f).Keeps F I o T := by
  unfold State.modSnap
  try dsimp only
  repeat' first
    | with_reducible assumption
    | with_reducible apply State.with_obs
    | refine State.Keeps.fst (by with_reducible assumption) ?_
    | refine State.Keeps.snd (by with_reducible assumption) ?_
    | refine State.Keeps.snd2 (by with_reducible assumption) ?_
    | refine State.Keeps.snd3 (by with_reducible assumption) ?_
    | split
    | with_reducible intro a_
    | dsimp only
    | with_reducible refine ⟨?_, ?_, ?_⟩
    | with_reducible rfl
    | apply Tab.wf_set
    | apply Tab.wf_filter
    | apply Tab.wf_modify
    | apply Memory.wf_put
    | apply Memory.wf_write
    | with_reducible refine State.Keeps.mem (F := F) (o := o) (T := T) ?_ (by assumption)
    | with_reducible refine State.Keeps.regs (F := F) (o := o) (T := T) ?_ (by assumption)
    | with_reducible refine State.Keeps.notices (F := F) (o := o) (T := T) ?_ (by assumption)
    | with_reducible refine State.Keeps.counters (F := F) (o := o) (T := T) ?_ (by assumption)
    | with_reducible refine State.Keeps.drops (F := F) (o := o) (T := T) ?_ (by assumption)
    | with_reducible refine State.Keeps.epoch (F := F) (o := o) (T := T) ?_ (by assumption)
    | with_reducible refine State.Keeps.generation (F := F) (o := o) (T := T) ?_ (by assumption)
    | with_reducible refine State.Keeps.prod (F := F) (o := o) (T := T) ?_ (by assumption)
    | with_reducible refine State.Keeps.log (F := F) (o := o) (T := T) ?_ (by assumption)
    | with_reducible refine State.Keeps.tiles (F := F) (I := I) (o := o) ?_
    | exact Nat.mod_lt _ (by decide)
    | (simp_all; done)
    | (simp_all; omega)

theorem State.draw_keeps {s : State} (h_s : s.Keeps F I o T) (f_fresh : F .fresh = true) :
    (State.draw s).2.Keeps F I o T := by
  unfold State.draw
  repeat' first
    | with_reducible assumption
    | with_reducible apply State.with_fresh
    | split

theorem State.raise_keeps {s : State} {off : Nat} {bits : Nat} (h_s : s.Keeps F I o T)
    (f_notices : F .notices = true) :
    (State.raise s off bits).Keeps F I o T := by
  unfold State.raise
  try dsimp only
  repeat' first
    | with_reducible assumption
    | with_reducible apply State.with_notices
    | refine State.Keeps.fst (by with_reducible assumption) ?_
    | refine State.Keeps.snd (by with_reducible assumption) ?_
    | refine State.Keeps.snd2 (by with_reducible assumption) ?_
    | refine State.Keeps.snd3 (by with_reducible assumption) ?_
    | split
    | with_reducible intro a_
    | dsimp only
    | with_reducible refine ⟨?_, ?_, ?_⟩
    | with_reducible rfl
    | apply Tab.wf_set
    | apply Tab.wf_filter
    | apply Tab.wf_modify
    | apply Memory.wf_put
    | apply Memory.wf_write
    | with_reducible refine State.Keeps.mem (F := F) (o := o) (T := T) ?_ (by assumption)
    | with_reducible refine State.Keeps.regs (F := F) (o := o) (T := T) ?_ (by assumption)
    | with_reducible refine State.Keeps.notices (F := F) (o := o) (T := T) ?_ (by assumption)
    | with_reducible refine State.Keeps.counters (F := F) (o := o) (T := T) ?_ (by assumption)
    | with_reducible refine State.Keeps.drops (F := F) (o := o) (T := T) ?_ (by assumption)
    | with_reducible refine State.Keeps.epoch (F := F) (o := o) (T := T) ?_ (by assumption)
    | with_reducible refine State.Keeps.generation (F := F) (o := o) (T := T) ?_ (by assumption)
    | with_reducible refine State.Keeps.prod (F := F) (o := o) (T := T) ?_ (by assumption)
    | with_reducible refine State.Keeps.log (F := F) (o := o) (T := T) ?_ (by assumption)
    | with_reducible refine State.Keeps.tiles (F := F) (I := I) (o := o) ?_
    | exact Nat.mod_lt _ (by decide)
    | (simp_all; done)
    | (simp_all; omega)

theorem State.lower_keeps {s : State} {off : Nat} {bits : Nat} (h_s : s.Keeps F I o T)
    (f_notices : F .notices = true) :
    (State.lower s off bits).Keeps F I o T := by
  unfold State.lower
  try dsimp only
  repeat' first
    | with_reducible assumption
    | with_reducible apply State.with_notices
    | refine State.Keeps.fst (by with_reducible assumption) ?_
    | refine State.Keeps.snd (by with_reducible assumption) ?_
    | refine State.Keeps.snd2 (by with_reducible assumption) ?_
    | refine State.Keeps.snd3 (by with_reducible assumption) ?_
    | split
    | with_reducible intro a_
    | dsimp only
    | with_reducible refine ⟨?_, ?_, ?_⟩
    | with_reducible rfl
    | apply Tab.wf_set
    | apply Tab.wf_filter
    | apply Tab.wf_modify
    | apply Memory.wf_put
    | apply Memory.wf_write
    | with_reducible refine State.Keeps.mem (F := F) (o := o) (T := T) ?_ (by assumption)
    | with_reducible refine State.Keeps.regs (F := F) (o := o) (T := T) ?_ (by assumption)
    | with_reducible refine State.Keeps.notices (F := F) (o := o) (T := T) ?_ (by assumption)
    | with_reducible refine State.Keeps.counters (F := F) (o := o) (T := T) ?_ (by assumption)
    | with_reducible refine State.Keeps.drops (F := F) (o := o) (T := T) ?_ (by assumption)
    | with_reducible refine State.Keeps.epoch (F := F) (o := o) (T := T) ?_ (by assumption)
    | with_reducible refine State.Keeps.generation (F := F) (o := o) (T := T) ?_ (by assumption)
    | with_reducible refine State.Keeps.prod (F := F) (o := o) (T := T) ?_ (by assumption)
    | with_reducible refine State.Keeps.log (F := F) (o := o) (T := T) ?_ (by assumption)
    | with_reducible refine State.Keeps.tiles (F := F) (I := I) (o := o) ?_
    | exact Nat.mod_lt _ (by decide)
    | (simp_all; done)
    | (simp_all; omega)

theorem State.countN_keeps {s : State} {i : Nat} {n : Nat} (h_s : s.Keeps F I o T) (f_obs : F .obs = true) :
    (State.countN s i n).Keeps F I o T := by
  unfold State.countN
  try dsimp only
  repeat' first
    | with_reducible assumption
    | with_reducible apply State.with_obs
    | refine State.Keeps.fst (by with_reducible assumption) ?_
    | refine State.Keeps.snd (by with_reducible assumption) ?_
    | refine State.Keeps.snd2 (by with_reducible assumption) ?_
    | refine State.Keeps.snd3 (by with_reducible assumption) ?_
    | split
    | with_reducible intro a_
    | dsimp only
    | with_reducible refine ⟨?_, ?_, ?_⟩
    | with_reducible rfl
    | apply Tab.wf_set
    | apply Tab.wf_filter
    | apply Tab.wf_modify
    | apply Memory.wf_put
    | apply Memory.wf_write
    | with_reducible refine State.Keeps.mem (F := F) (o := o) (T := T) ?_ (by assumption)
    | with_reducible refine State.Keeps.regs (F := F) (o := o) (T := T) ?_ (by assumption)
    | with_reducible refine State.Keeps.notices (F := F) (o := o) (T := T) ?_ (by assumption)
    | with_reducible refine State.Keeps.counters (F := F) (o := o) (T := T) ?_ (by assumption)
    | with_reducible refine State.Keeps.drops (F := F) (o := o) (T := T) ?_ (by assumption)
    | with_reducible refine State.Keeps.epoch (F := F) (o := o) (T := T) ?_ (by assumption)
    | with_reducible refine State.Keeps.generation (F := F) (o := o) (T := T) ?_ (by assumption)
    | with_reducible refine State.Keeps.prod (F := F) (o := o) (T := T) ?_ (by assumption)
    | with_reducible refine State.Keeps.log (F := F) (o := o) (T := T) ?_ (by assumption)
    | with_reducible refine State.Keeps.tiles (F := F) (I := I) (o := o) ?_
    | exact Nat.mod_lt _ (by decide)
    | (simp_all; done)
    | (simp_all; omega)

theorem State.count_keeps {s : State} {i : Nat} (h_s : s.Keeps F I o T) (f_obs : F .obs = true) :
    (State.count s i).Keeps F I o T := by
  unfold State.count
  repeat' first
    | with_reducible assumption
    | with_reducible apply State.countN_keeps
    | split

theorem State.drop_keeps {s : State} {table : Nat} {k : Nat} {n : Nat} (h_s : s.Keeps F I o T)
    (f_obs : F .obs = true) :
    (State.drop s table k n).Keeps F I o T := by
  unfold State.drop
  try dsimp only
  repeat' first
    | with_reducible assumption
    | with_reducible apply State.with_obs
    | refine State.Keeps.fst (by with_reducible assumption) ?_
    | refine State.Keeps.snd (by with_reducible assumption) ?_
    | refine State.Keeps.snd2 (by with_reducible assumption) ?_
    | refine State.Keeps.snd3 (by with_reducible assumption) ?_
    | split
    | with_reducible intro a_
    | dsimp only
    | with_reducible refine ⟨?_, ?_, ?_⟩
    | with_reducible rfl
    | apply Tab.wf_set
    | apply Tab.wf_filter
    | apply Tab.wf_modify
    | apply Memory.wf_put
    | apply Memory.wf_write
    | with_reducible refine State.Keeps.mem (F := F) (o := o) (T := T) ?_ (by assumption)
    | with_reducible refine State.Keeps.regs (F := F) (o := o) (T := T) ?_ (by assumption)
    | with_reducible refine State.Keeps.notices (F := F) (o := o) (T := T) ?_ (by assumption)
    | with_reducible refine State.Keeps.counters (F := F) (o := o) (T := T) ?_ (by assumption)
    | with_reducible refine State.Keeps.drops (F := F) (o := o) (T := T) ?_ (by assumption)
    | with_reducible refine State.Keeps.epoch (F := F) (o := o) (T := T) ?_ (by assumption)
    | with_reducible refine State.Keeps.generation (F := F) (o := o) (T := T) ?_ (by assumption)
    | with_reducible refine State.Keeps.prod (F := F) (o := o) (T := T) ?_ (by assumption)
    | with_reducible refine State.Keeps.log (F := F) (o := o) (T := T) ?_ (by assumption)
    | with_reducible refine State.Keeps.tiles (F := F) (I := I) (o := o) ?_
    | exact Nat.mod_lt _ (by decide)
    | (simp_all; done)
    | (simp_all; omega)

theorem State.countTile_keeps {s : State} {p : Nat} {j : Nat} {n : Nat} (h_s : s.Keeps F I o T)
    (f_obs : F .obs = true) :
    (State.countTile s p j n).Keeps F I o T := by
  unfold State.countTile
  repeat' first
    | with_reducible assumption
    | with_reducible apply State.countN_keeps
    | split

theorem State.setReg_keeps {s : State} {off : Nat} {v : Nat} (h_s : s.Keeps F I o T) (f_regs : F .regs = true) :
    (State.setReg s off v).Keeps F I o T := by
  unfold State.setReg
  try dsimp only
  repeat' first
    | with_reducible assumption
    | with_reducible apply State.with_regs
    | refine State.Keeps.fst (by with_reducible assumption) ?_
    | refine State.Keeps.snd (by with_reducible assumption) ?_
    | refine State.Keeps.snd2 (by with_reducible assumption) ?_
    | refine State.Keeps.snd3 (by with_reducible assumption) ?_
    | split
    | with_reducible intro a_
    | dsimp only
    | with_reducible refine ⟨?_, ?_, ?_⟩
    | with_reducible rfl
    | apply Tab.wf_set
    | apply Tab.wf_filter
    | apply Tab.wf_modify
    | apply Memory.wf_put
    | apply Memory.wf_write
    | with_reducible refine State.Keeps.mem (F := F) (o := o) (T := T) ?_ (by assumption)
    | with_reducible refine State.Keeps.regs (F := F) (o := o) (T := T) ?_ (by assumption)
    | with_reducible refine State.Keeps.notices (F := F) (o := o) (T := T) ?_ (by assumption)
    | with_reducible refine State.Keeps.counters (F := F) (o := o) (T := T) ?_ (by assumption)
    | with_reducible refine State.Keeps.drops (F := F) (o := o) (T := T) ?_ (by assumption)
    | with_reducible refine State.Keeps.epoch (F := F) (o := o) (T := T) ?_ (by assumption)
    | with_reducible refine State.Keeps.generation (F := F) (o := o) (T := T) ?_ (by assumption)
    | with_reducible refine State.Keeps.prod (F := F) (o := o) (T := T) ?_ (by assumption)
    | with_reducible refine State.Keeps.log (F := F) (o := o) (T := T) ?_ (by assumption)
    | with_reducible refine State.Keeps.tiles (F := F) (I := I) (o := o) ?_
    | exact Nat.mod_lt _ (by decide)
    | (simp_all; done)
    | (simp_all; omega)

theorem State.setBits_keeps {s : State} {off : Nat} {mask : Nat} {v : Nat} (h_s : s.Keeps F I o T)
    (f_regs : F .regs = true) :
    (State.setBits s off mask v).Keeps F I o T := by
  unfold State.setBits
  repeat' first
    | with_reducible assumption
    | with_reducible apply State.setReg_keeps
    | split

theorem State.scramble_keeps {s : State} {off : Nat} (h_s : s.Keeps F I o T) (f_fresh : F .fresh = true)
    (f_regs : F .regs = true) :
    (State.scramble s off).Keeps F I o T := by
  unfold State.scramble
  repeat' first
    | with_reducible assumption
    | with_reducible apply State.draw_keeps
    | with_reducible apply State.setBits_keeps
    | split

theorem State.setRingEn_keeps {s : State} {r : Nat} {b : Bool} (h_s : s.Keeps F I o T) (f_regs : F .regs = true) :
    (State.setRingEn s r b).Keeps F I o T := by
  unfold State.setRingEn
  repeat' first
    | with_reducible assumption
    | with_reducible apply State.setBits_keeps
    | split

theorem State.noteReady_keeps {new : State} {old : State} (h_new : new.Keeps F I o T)
    (f_notices : F .notices = true) :
    (State.noteReady new old).Keeps F I o T := by
  unfold State.noteReady
  split
  · exact State.raise_keeps h_new f_notices
  · split
    · exact State.raise_keeps h_new f_notices
    · exact h_new

theorem State.keepBank_keeps {s : State} {n : Nat} (h_s : s.Keeps F I o T) (f_obs : F .obs = true) :
    (s.keepBank n).Keeps F I o T := by
  unfold State.keepBank
  split
  · exact State.with_obs h_s f_obs h_s.counters h_s.drops h_s.prod
  · exact h_s

theorem State.tallyLost_keeps {s : State} {u : Nat} {n : Nat} (h_s : s.Keeps F I o T) (f_obs : F .obs = true) :
    (State.tallyLost s u n).Keeps F I o T := by
  unfold State.tallyLost
  repeat' first
    | with_reducible assumption
    | with_reducible apply State.countN_keeps
    | with_reducible apply State.setFifo_keeps
    | split

theorem State.tally_keeps {s : State} {u : Nat} {event : Nat} {arg0 : Nat} {arg1 : Nat} (h_s : s.Keeps F I o T)
    (f_fresh : F .fresh = true) (f_obs : F .obs = true) :
    (State.tally s u event arg0 arg1).Keeps F I o T := by
  unfold State.tally
  repeat' first
    | with_reducible assumption
    | with_reducible apply State.draw_keeps
    | with_reducible apply State.drop_keeps
    | with_reducible apply State.setFifo_keeps
    | with_reducible apply State.tallyLost_keeps
    | split

theorem State.tallyNotice_keeps {s : State} {u : Nat} (h_s : s.Keeps F I o T) (f_fresh : F .fresh = true)
    (f_obs : F .obs = true) :
    (State.tallyNotice s u).Keeps F I o T := by
  unfold State.tallyNotice
  repeat' first
    | with_reducible assumption
    | with_reducible apply State.draw_keeps
    | with_reducible apply State.tally_keeps
    | split

theorem State.tallyCorrected_keeps {s : State} {u : Nat} (h_s : s.Keeps F I o T) (f_obs : F .obs = true) :
    (State.tallyCorrected s u).Keeps F I o T := by
  unfold State.tallyCorrected
  repeat' first
    | with_reducible assumption
    | with_reducible apply State.count_keeps
    | with_reducible apply State.setFifo_keeps
    | split

theorem State.tallyDiscard_keeps {s : State} {u : Nat} (h_s : s.Keeps F I o T) (f_fresh : F .fresh = true)
    (f_obs : F .obs = true) :
    (State.tallyDiscard s u).Keeps F I o T := by
  unfold State.tallyDiscard
  repeat' first
    | with_reducible assumption
    | with_reducible apply State.draw_keeps
    | with_reducible apply State.setFifo_keeps
    | with_reducible apply State.tallyLost_keeps
    | refine State.Keeps.fst (by with_reducible assumption) ?_
    | refine State.Keeps.snd (by with_reducible assumption) ?_
    | refine State.Keeps.snd2 (by with_reducible assumption) ?_
    | refine State.Keeps.snd3 (by with_reducible assumption) ?_
    | split
    | dsimp only

theorem State.sense_keeps {s : State} (h_s : s.Keeps F I o T) (f_fresh : F .fresh = true)
    (f_sk : F .sk = true) : s.sense.Keeps F I o T := by
  have h := State.with_fresh (v := s.fresh + 51) h_s f_fresh
  exact State.with_sk h f_sk h.log

theorem State.latch_keeps {s : State} {i : Nat} {late : Bool} (h_s : s.Keeps F I o T) (f_fresh : F .fresh = true)
    (f_sk : F .sk = true) :
    (State.latch s i late).2.Keeps F I o T := by
  unfold State.latch
  repeat' first
    | with_reducible assumption
    | with_reducible apply State.draw_keeps
    | with_reducible apply State.sense_keeps
    | split

theorem State.latchUnit_keeps {s : State} {i : Nat} {late : Bool} (h_s : s.Keeps F I o T)
    (f_fresh : F .fresh = true) (f_sk : F .sk = true) (f_obs : F .obs = true) :
    (State.latchUnit s i late).Keeps F I o T := by
  unfold State.latchUnit
  repeat' first
    | with_reducible assumption
    | with_reducible apply State.latch_keeps
    | with_reducible apply State.modSnap_keeps
    | split

theorem State.latchAgent_keeps {s : State} {n : Nat} {late : Bool} (h_s : s.Keeps F I o T)
    (f_fresh : F .fresh = true) (f_sk : F .sk = true) (f_obs : F .obs = true) :
    (State.latchAgent s n late).Keeps F I o T := by
  unfold State.latchAgent
  repeat' first
    | with_reducible assumption
    | with_reducible apply State.latchUnit_keeps
    | with_reducible apply State.modSnap_keeps
    | split

theorem State.dropPart_keeps {s : State} {n : Nat} (h_s : s.Keeps F I o T) (f_fresh : F .fresh = true)
    (f_sk : F .sk = true) (f_obs : F .obs = true) :
    (State.dropPart s n).Keeps F I o T := by
  unfold State.dropPart
  repeat' first
    | with_reducible assumption
    | with_reducible apply State.latchAgent_keeps
    | with_reducible apply State.modSnap_keeps
    | split

theorem State.snapTrigger_keeps {s : State} {source : Nat} (h_s : s.Keeps F I o T) (f_fresh : F .fresh = true)
    (f_notices : F .notices = true) (f_sk : F .sk = true) (f_obs : F .obs = true) :
    (State.snapTrigger s source).1.Keeps F I o T := by
  unfold State.snapTrigger
  repeat' first
    | with_reducible assumption
    | (with_reducible refine State.each_keeps ?_ fun _ _ _ => ?_)
    | with_reducible apply State.count_keeps
    | with_reducible apply State.draw_keeps
    | with_reducible apply State.latchAgent_keeps
    | with_reducible apply State.latchUnit_keeps
    | with_reducible apply State.modSnap_keeps
    | with_reducible apply State.raise_keeps
    | refine State.Keeps.fst (by with_reducible assumption) ?_
    | refine State.Keeps.snd (by with_reducible assumption) ?_
    | refine State.Keeps.snd2 (by with_reducible assumption) ?_
    | refine State.Keeps.snd3 (by with_reducible assumption) ?_
    | split
    | dsimp only

theorem State.storeByte_keeps {s : State} {a : Nat} {b : Byte} (h_s : s.Keeps F I o T) (f_mem : F .mem = true) :
    (s.storeByte a b).Keeps F I o T :=
  State.with_mem h_s f_mem fun i => Memory.wf_put _ _ _ (h_s.mem i)

theorem State.store_keeps {s : State} {a : Nat} {b : Bytes} (h_s : s.Keeps F I o T) (f_mem : F .mem = true) :
    (s.store a b).Keeps F I o T := by
  induction b generalizing s a with
  | nil => exact h_s
  | cons x xs ih => exact ih (State.storeByte_keeps h_s f_mem)

theorem State.mirrorGo_keeps {s : State} (h_s : s.Keeps F I o T) (f_mem : F .mem = true) (f_obs : F .obs = true) :
    (State.mirrorGo s).Keeps F I o T := by
  unfold State.mirrorGo
  try dsimp only
  repeat' first
    | with_reducible assumption
    | (with_reducible refine State.each_keeps ?_ fun _ _ _ => ?_)
    | with_reducible apply State.drop_keeps
    | with_reducible apply State.store_keeps
    | with_reducible apply State.with_obs
    | refine State.Keeps.fst (by with_reducible assumption) ?_
    | refine State.Keeps.snd (by with_reducible assumption) ?_
    | refine State.Keeps.snd2 (by with_reducible assumption) ?_
    | refine State.Keeps.snd3 (by with_reducible assumption) ?_
    | split
    | with_reducible intro a_
    | dsimp only
    | with_reducible refine ⟨?_, ?_, ?_⟩
    | with_reducible rfl
    | apply Tab.wf_set
    | apply Tab.wf_filter
    | apply Tab.wf_modify
    | apply Memory.wf_put
    | apply Memory.wf_write
    | with_reducible refine State.Keeps.mem (F := F) (o := o) (T := T) ?_ (by assumption)
    | with_reducible refine State.Keeps.regs (F := F) (o := o) (T := T) ?_ (by assumption)
    | with_reducible refine State.Keeps.notices (F := F) (o := o) (T := T) ?_ (by assumption)
    | with_reducible refine State.Keeps.counters (F := F) (o := o) (T := T) ?_ (by assumption)
    | with_reducible refine State.Keeps.drops (F := F) (o := o) (T := T) ?_ (by assumption)
    | with_reducible refine State.Keeps.epoch (F := F) (o := o) (T := T) ?_ (by assumption)
    | with_reducible refine State.Keeps.generation (F := F) (o := o) (T := T) ?_ (by assumption)
    | with_reducible refine State.Keeps.prod (F := F) (o := o) (T := T) ?_ (by assumption)
    | with_reducible refine State.Keeps.log (F := F) (o := o) (T := T) ?_ (by assumption)
    | with_reducible refine State.Keeps.tiles (F := F) (I := I) (o := o) ?_
    | exact Nat.mod_lt _ (by decide)
    | (simp_all; done)
    | (simp_all; omega)

theorem State.log_keeps {s : State} {source severity code : Nat} {payload : Bytes} (h_s : s.Keeps F I o T)
    (f_fresh : F .fresh = true) (f_mem : F .mem = true) (f_sk : F .sk = true) (f_obs : F .obs = true) :
    (s.log source severity code payload).Keeps F I o T := by
  have h1 := State.draw_keeps h_s f_fresh
  generalize he : s.draw = p at h1
  obtain ⟨t, s1⟩ := p
  unfold State.log
  rw [he]
  dsimp only at h1 ⊢
  have h2 := State.count_keeps (i := 0x06B) h1 f_obs
  generalize s1.count 0x06B = s2 at h2 ⊢
  have h3 := State.modSk_keeps (f := fun k => { k with
    log := (if k.log.length < 1024 then k.log else k.log.drop 1) ++
      [⟨s1.sk.nextLog, t, source, severity, code, fit 48 payload⟩], nextLog := (k.nextLog + 1) % 2 ^ 32 }) h2
          (fun a h => by
    simp only [List.length_append, List.length_singleton]
    split
    · omega
    · rw [List.length_drop]; omega) f_sk
  generalize State.modSk s2 _ = s3 at h3 ⊢
  split
  · exact h3
  · exact State.mirrorGo_keeps (State.with_obs h3 f_obs h3.counters h3.drops h3.prod) f_mem f_obs

theorem State.trigger_keeps {s : State} {source : Nat} (h_s : s.Keeps F I o T) (f_fresh : F .fresh = true)
    (f_notices : F .notices = true) (f_mem : F .mem = true) (f_sk : F .sk = true) (f_obs : F .obs = true) :
    (State.trigger s source).1.Keeps F I o T := by
  unfold State.trigger
  repeat' first
    | with_reducible assumption
    | with_reducible apply State.log_keeps
    | with_reducible apply State.snapTrigger_keeps
    | refine State.Keeps.fst (by with_reducible assumption) ?_
    | refine State.Keeps.snd (by with_reducible assumption) ?_
    | refine State.Keeps.snd2 (by with_reducible assumption) ?_
    | refine State.Keeps.snd3 (by with_reducible assumption) ?_
    | split
    | dsimp only

theorem State.snapNotice_keeps {s : State} {k : Nat} (h_s : s.Keeps F I o T) (f_fresh : F .fresh = true)
    (f_notices : F .notices = true) (f_mem : F .mem = true) (f_sk : F .sk = true) (f_obs : F .obs = true) :
    (State.snapNotice s k).Keeps F I o T := by
  unfold State.snapNotice
  repeat' first
    | with_reducible assumption
    | with_reducible apply State.trigger_keeps
    | split

theorem State.notice_keeps {s : State} {off : Nat} {bits : Nat} {k : Nat} (h_s : s.Keeps F I o T)
    (f_fresh : F .fresh = true) (f_notices : F .notices = true) (f_mem : F .mem = true) (f_sk : F .sk = true)
        (f_obs : F .obs = true) :
    (State.notice s off bits k).Keeps F I o T := by
  unfold State.notice
  repeat' first
    | with_reducible assumption
    | with_reducible apply State.raise_keeps
    | with_reducible apply State.snapNotice_keeps
    | split

theorem State.sendReport_keeps {s : State} {r : Report} (h_s : s.Keeps F I o T) (f_fresh : F .fresh = true)
    (f_notices : F .notices = true) (f_mem : F .mem = true) (f_sk : F .sk = true) (f_obs : F .obs = true) :
    (State.sendReport s r).Keeps F I o T := by
  unfold State.sendReport
  try dsimp only
  repeat' first
    | with_reducible assumption
    | with_reducible apply State.count_keeps
    | with_reducible apply State.log_keeps
    | with_reducible apply State.modSk_keeps
    | with_reducible apply State.raise_keeps
    | with_reducible apply State.snapNotice_keeps
    | refine State.Keeps.fst (by with_reducible assumption) ?_
    | refine State.Keeps.snd (by with_reducible assumption) ?_
    | refine State.Keeps.snd2 (by with_reducible assumption) ?_
    | refine State.Keeps.snd3 (by with_reducible assumption) ?_
    | split
    | with_reducible intro a_
    | dsimp only
    | with_reducible rfl
    | (simp_all; done)

theorem State.report_keeps {s : State} {cause : Nat} {n : Note} (h_s : s.Keeps F I o T) (f_fresh : F .fresh = true)
    (f_notices : F .notices = true) (f_mem : F .mem = true) (f_sk : F .sk = true) (f_obs : F .obs = true) :
    (State.report s cause n).Keeps F I o T := by
  unfold State.report
  try dsimp only
  repeat' first
    | with_reducible assumption
    | with_reducible apply State.draw_keeps
    | with_reducible apply State.modSk_keeps
    | with_reducible apply State.sendReport_keeps
    | refine State.Keeps.fst (by with_reducible assumption) ?_
    | refine State.Keeps.snd (by with_reducible assumption) ?_
    | refine State.Keeps.snd2 (by with_reducible assumption) ?_
    | refine State.Keeps.snd3 (by with_reducible assumption) ?_
    | split
    | with_reducible intro a_
    | dsimp only
    | with_reducible rfl
    | (simp_all; done)

theorem State.sendWaiting_keeps {s : State} (h_s : s.Keeps F I o T) (f_fresh : F .fresh = true)
    (f_notices : F .notices = true) (f_mem : F .mem = true) (f_sk : F .sk = true) (f_obs : F .obs = true) :
    (State.sendWaiting s).Keeps F I o T := by
  unfold State.sendWaiting
  try dsimp only
  repeat' first
    | with_reducible assumption
    | (with_reducible refine State.each_keeps ?_ fun _ _ _ => ?_)
    | with_reducible apply State.modSk_keeps
    | with_reducible apply State.sendReport_keeps
    | refine State.Keeps.fst (by with_reducible assumption) ?_
    | refine State.Keeps.snd (by with_reducible assumption) ?_
    | refine State.Keeps.snd2 (by with_reducible assumption) ?_
    | refine State.Keeps.snd3 (by with_reducible assumption) ?_
    | split
    | with_reducible intro a_
    | dsimp only
    | with_reducible rfl
    | (simp_all; done)

theorem State.startRamp_keeps {s : State} {pos : Nat} {k : Nat} {from_ : Nat × Nat} (h_s : s.Keeps F I o T)
    (f_eng : F .eng = true) :
    (State.startRamp s pos k from_).Keeps F I o T := by
  unfold State.startRamp
  try dsimp only
  repeat' first
    | with_reducible assumption
    | with_reducible apply State.modEng_keeps
    | refine State.Keeps.fst (by with_reducible assumption) ?_
    | refine State.Keeps.snd (by with_reducible assumption) ?_
    | refine State.Keeps.snd2 (by with_reducible assumption) ?_
    | refine State.Keeps.snd3 (by with_reducible assumption) ?_
    | split
    | with_reducible intro a_
    | dsimp only
    | with_reducible rfl
    | (simp_all; done)

theorem State.rampFrom0_keeps {s : State} {p : Nat} (h_s : s.Keeps F I o T) (f_eng : F .eng = true) :
    (State.rampFrom0 s p).Keeps F I o T := by
  unfold State.rampFrom0
  repeat' first
    | with_reducible assumption
    | (with_reducible refine State.each_keeps ?_ fun _ _ _ => ?_)
    | with_reducible apply State.startRamp_keeps
    | split

theorem State.rampAll_keeps {s : State} (h_s : s.Keeps F I o T) (f_eng : F .eng = true) :
    (State.rampAll s).Keeps F I o T := by
  unfold State.rampAll
  repeat' first
    | with_reducible assumption
    | (with_reducible refine State.each_keeps ?_ fun _ _ _ => ?_)
    | with_reducible apply State.rampFrom0_keeps
    | split

theorem State.setLevel_keeps {s : State} {st : Option Nat} {level : Nat} (h_s : s.Keeps F I o T)
    (f_fresh : F .fresh = true) (f_notices : F .notices = true) (f_mem : F .mem = true) (f_eng : F .eng = true)
        (f_sk : F .sk = true) (f_obs : F .obs = true) :
    (State.setLevel s st level).Keeps F I o T := by
  unfold State.setLevel
  try dsimp only
  repeat' first
    | with_reducible assumption
    | (with_reducible refine State.each_keeps ?_ fun _ _ _ => ?_)
    | with_reducible apply State.log_keeps
    | with_reducible apply State.modEng_keeps
    | with_reducible apply State.raise_keeps
    | with_reducible apply State.startRamp_keeps
    | with_reducible apply State.tally_keeps
    | with_reducible refine foldl_keeps (fun acc => State.Keeps acc F I o T) _ _ _ ?_ fun _ _ _ => ?_
    | with_reducible refine foldl_keeps (fun acc => State.Keeps acc.1 F I o T) _ _ _ ?_ fun _ _ _ => ?_
    | with_reducible refine foldl_keeps (fun acc => State.Keeps acc.2 F I o T) _ _ _ ?_ fun _ _ _ => ?_
    | with_reducible refine foldl_keeps (fun acc => State.Keeps acc.2.2 F I o T) _ _ _ ?_ fun _ _ _ => ?_
    | refine State.Keeps.fst (by with_reducible assumption) ?_
    | refine State.Keeps.snd (by with_reducible assumption) ?_
    | refine State.Keeps.snd2 (by with_reducible assumption) ?_
    | refine State.Keeps.snd3 (by with_reducible assumption) ?_
    | split
    | with_reducible intro a_
    | dsimp only
    | with_reducible rfl
    | (simp_all; done)

theorem State.served_keeps {s : State} {units : List Nat} {w : Nat} (h_s : s.Keeps F I o T) (f_obs : F .obs = true) :
    (State.served s units w).Keeps F I o T := by
  unfold State.served
  repeat' first
    | with_reducible assumption
    | (with_reducible refine State.each_keeps ?_ fun _ _ _ => ?_)
    | with_reducible apply State.setUnit_keeps
    | split

theorem State.park_keeps {s : State} {w : Nat} {c : ParkCause} (h_s : s.Keeps F I o T) (f_fresh : F .fresh = true)
    (f_notices : F .notices = true) (f_mem : F .mem = true) (f_disp : F .disp = true) (f_sk : F .sk = true)
        (f_obs : F .obs = true) :
    (State.park s w c).Keeps F I o T := by
  unfold State.park
  repeat' first
    | with_reducible assumption
    | with_reducible apply State.count_keeps
    | with_reducible apply State.raise_keeps
    | with_reducible apply State.setWork_keeps
    | with_reducible apply State.snapNotice_keeps
    | split

theorem State.queuePeer_keeps {s : State} {c : Nat} {kind : Nat} {payload : Bytes} (h_s : s.Keeps F I o T)
    (f_peer : F .peer = true) :
    (State.queuePeer s c kind payload).Keeps F I o T := by
  unfold State.queuePeer
  repeat' first
    | with_reducible assumption
    | with_reducible apply State.setPort_keeps
    | split

theorem State.sendMgmtPacket_keeps {s : State} {c : Nat} {key : Nat} {msg : Bytes} (h_s : s.Keeps F I o T)
    (f_fresh : F .fresh = true) (f_peer : F .peer = true) (f_sk : F .sk = true) :
    (State.sendMgmtPacket s c key msg).Keeps F I o T := by
  unfold State.sendMgmtPacket
  try dsimp only
  repeat' first
    | with_reducible assumption
    | with_reducible apply State.draw_keeps
    | with_reducible apply State.modSk_keeps
    | with_reducible apply State.queuePeer_keeps
    | refine State.Keeps.fst (by with_reducible assumption) ?_
    | refine State.Keeps.snd (by with_reducible assumption) ?_
    | refine State.Keeps.snd2 (by with_reducible assumption) ?_
    | refine State.Keeps.snd3 (by with_reducible assumption) ?_
    | split
    | with_reducible intro a_
    | dsimp only
    | with_reducible rfl
    | (simp_all; done)

theorem State.respond_keeps {s : State} {code : Nat} {status : Nat} {body : Bytes} (h_s : s.Keeps F I o T)
    (f_fresh : F .fresh = true) (f_peer : F .peer = true) (f_sk : F .sk = true) :
    (State.respond s code status body).Keeps F I o T := by
  unfold State.respond
  try dsimp only
  repeat' first
    | with_reducible assumption
    | (with_reducible refine State.each_keeps ?_ fun _ _ _ => ?_)
    | with_reducible apply State.draw_keeps
    | with_reducible apply State.drop_keeps
    | with_reducible apply State.modSk_keeps
    | with_reducible apply State.sendMgmtPacket_keeps
    | with_reducible apply State.setPort_keeps
    | refine State.Keeps.fst (by with_reducible assumption) ?_
    | refine State.Keeps.snd (by with_reducible assumption) ?_
    | refine State.Keeps.snd2 (by with_reducible assumption) ?_
    | refine State.Keeps.snd3 (by with_reducible assumption) ?_
    | split
    | with_reducible intro a_
    | dsimp only
    | with_reducible rfl
    | (simp_all; done)

theorem State.endCmd_keeps {s : State} {op : Nat} {status : Nat} {mgmt : Bool} (h_s : s.Keeps F I o T)
    (f_fresh : F .fresh = true) (f_notices : F .notices = true) (f_slots : F .slots = true)
        (f_peer : F .peer = true) (f_sk : F .sk = true) :
    (State.endCmd s op status mgmt).Keeps F I o T := by
  unfold State.endCmd
  try dsimp only
  repeat' first
    | with_reducible assumption
    | with_reducible apply State.modSlots_keeps
    | with_reducible apply State.raise_keeps
    | with_reducible apply State.respond_keeps
    | refine State.Keeps.fst (by with_reducible assumption) ?_
    | refine State.Keeps.snd (by with_reducible assumption) ?_
    | refine State.Keeps.snd2 (by with_reducible assumption) ?_
    | refine State.Keeps.snd3 (by with_reducible assumption) ?_
    | split
    | with_reducible intro a_
    | dsimp only
    | with_reducible rfl
    | (simp_all; done)

theorem State.logImage_keeps {s : State} {img : Bytes} {status : Nat} (h_s : s.Keeps F I o T)
    (f_fresh : F .fresh = true) (f_mem : F .mem = true) (f_sk : F .sk = true) (f_obs : F .obs = true) :
    (State.logImage s img status).Keeps F I o T := by
  unfold State.logImage
  repeat' first
    | with_reducible assumption
    | with_reducible apply State.log_keeps
    | split

theorem State.stageFails_keeps {s : State} {status : Nat} (h_s : s.Keeps F I o T) (f_fresh : F .fresh = true)
    (f_notices : F .notices = true) (f_mem : F .mem = true) (f_slots : F .slots = true) (f_peer : F .peer = true)
        (f_sk : F .sk = true) (f_obs : F .obs = true) :
    (State.stageFails s status).Keeps F I o T := by
  unfold State.stageFails
  try dsimp only
  repeat' first
    | with_reducible assumption
    | with_reducible apply State.endCmd_keeps
    | with_reducible apply State.logImage_keeps
    | with_reducible apply State.modSlots_keeps
    | refine State.Keeps.fst (by with_reducible assumption) ?_
    | refine State.Keeps.snd (by with_reducible assumption) ?_
    | refine State.Keeps.snd2 (by with_reducible assumption) ?_
    | refine State.Keeps.snd3 (by with_reducible assumption) ?_
    | split
    | with_reducible intro a_
    | dsimp only
    | with_reducible rfl
    | (simp_all; done)

theorem State.drawBytes_keeps {s : State} {n : Nat} (h_s : s.Keeps F I o T) (f_fresh : F .fresh = true) :
    (s.drawBytes n).2.Keeps F I o T := by
  induction n generalizing s with
  | zero => exact h_s
  | succ n ih => exact ih (State.draw_keeps h_s f_fresh)

theorem State.mbEnd_keeps {s : State} {result : Nat} {data : Bytes} (h_s : s.Keeps F I o T)
    (f_notices : F .notices = true) (f_sk : F .sk = true) :
    (State.mbEnd s result data).Keeps F I o T := by
  unfold State.mbEnd
  try dsimp only
  repeat' first
    | with_reducible assumption
    | with_reducible apply State.modSk_keeps
    | with_reducible apply State.raise_keeps
    | refine State.Keeps.fst (by with_reducible assumption) ?_
    | refine State.Keeps.snd (by with_reducible assumption) ?_
    | refine State.Keeps.snd2 (by with_reducible assumption) ?_
    | refine State.Keeps.snd3 (by with_reducible assumption) ?_
    | split
    | with_reducible intro a_
    | dsimp only
    | with_reducible rfl
    | (simp_all; done)

theorem State.mbLogRead_keeps {s : State} {first count : Nat} (h_s : s.Keeps F I o T) (f_fresh : F .fresh = true)
    (f_notices : F .notices = true) (f_sk : F .sk = true) : (s.mbLogRead first count).Keeps F I o T := by
  have tD : ∀ {s1 : State} {r n : Nat}, s1.Keeps F I o T →
      State.Keeps (match s1.drawBytes n with | (bs, s) => s.mbEnd (r % 4) bs) F I o T := by
    intro s1 r n h
    rcases h3 : s1.drawBytes n with ⟨bs, s3⟩
    have k3 := State.Keeps.snd h3 (State.drawBytes_keeps h f_fresh)
    exact State.mbEnd_keeps k3 f_notices f_sk
  unfold State.mbLogRead
  split
  · exact tD (State.draw_keeps (State.draw_keeps h_s f_fresh) f_fresh)
  · split
    exact State.mbEnd_keeps h_s f_notices f_sk

theorem State.mbRun_keeps {s : State} {op : Nat} {arg : Nat} (h_s : s.Keeps F I o T) (f_fresh : F .fresh = true)
    (f_notices : F .notices = true) (f_sk : F .sk = true) :
    (State.mbRun s op arg).Keeps F I o T := by
  unfold State.mbRun
  repeat' first
    | with_reducible assumption
    | with_reducible apply State.mbEnd_keeps
    | with_reducible apply State.mbLogRead_keeps
    | with_reducible apply State.sense_keeps
    | split

theorem State.mbCommand_keeps {s : State} {op : Nat} (h_s : s.Keeps F I o T) (f_fresh : F .fresh = true)
    (f_notices : F .notices = true) (f_sk : F .sk = true) :
    (State.mbCommand s op).Keeps F I o T := by
  unfold State.mbCommand
  try dsimp only
  repeat' first
    | with_reducible assumption
    | with_reducible apply State.mbRun_keeps
    | with_reducible apply State.modSk_keeps
    | refine State.Keeps.fst (by with_reducible assumption) ?_
    | refine State.Keeps.snd (by with_reducible assumption) ?_
    | refine State.Keeps.snd2 (by with_reducible assumption) ?_
    | refine State.Keeps.snd3 (by with_reducible assumption) ?_
    | split
    | with_reducible intro a_
    | dsimp only
    | with_reducible rfl
    | (simp_all; done)

theorem State.mbResume_keeps {s : State} (h_s : s.Keeps F I o T) (f_fresh : F .fresh = true)
    (f_notices : F .notices = true) (f_sk : F .sk = true) :
    (State.mbResume s).Keeps F I o T := by
  unfold State.mbResume
  repeat' first
    | with_reducible assumption
    | with_reducible apply State.mbRun_keeps
    | split

theorem State.clearRange_keeps {s : State} {a n : Nat} (h_s : s.Keeps F I o T) (f_mem : F .mem = true) :
    (s.clearRange a n).Keeps F I o T :=
  State.with_mem h_s f_mem fun i => Tab.wf_filter _ _ _ (h_s.mem i)

theorem State.openBytes_keeps {s : State} {dom : Nat} {rs : List Wild} (h_s : s.Keeps F I o T)
    (f_wild : F .wild = true) :
    (State.openBytes s dom rs).Keeps F I o T := by
  unfold State.openBytes
  repeat' first
    | with_reducible assumption
    | with_reducible apply State.with_wild
    | split

theorem State.modDir_keeps {s : State} {n : Nat} {d : Dir} {f : LinkDir → LinkDir} (h_s : s.Keeps F I o T)
    (f_net : F .net = true) :
    (State.modDir s n d f).Keeps F I o T := by
  unfold State.modDir
  repeat' first
    | with_reducible assumption
    | with_reducible apply State.modLink_keeps
    | split

theorem State.queueMsg_keeps {s : State} {n : Nat} {d : Dir} {m : Msg} {own : Owner} (h_s : s.Keeps F I o T)
    (f_net : F .net = true) :
    (State.queueMsg s n d m own).Keeps F I o T := by
  unfold State.queueMsg
  repeat' first
    | with_reducible assumption
    | with_reducible apply State.modDir_keeps
    | split

theorem State.sendWr_keeps {s : State} {own : Owner} {cls : Nat} {a : Nat} {data : Bytes} {fence : Bool}
    (h_s : s.Keeps F I o T) (f_net : F .net = true) :
    (State.sendWr s own cls a data fence).Keeps F I o T := by
  unfold State.sendWr
  repeat' first
    | with_reducible assumption
    | with_reducible apply State.queueMsg_keeps
    | with_reducible apply State.with_net
    | split

theorem State.sendFlush_keeps {s : State} {own : Owner} {n : Nat} (h_s : s.Keeps F I o T) (f_net : F .net = true) :
    (State.sendFlush s own n).Keeps F I o T := by
  unfold State.sendFlush
  repeat' first
    | with_reducible assumption
    | with_reducible apply State.queueMsg_keeps
    | with_reducible apply State.with_net
    | split

theorem State.sendCtl_keeps {s : State} {n : Nat} {mtype : Nat} {cls : Nat} {addr : Nat} {body : Bytes} {tag : Nat}
    (h_s : s.Keeps F I o T) (f_net : F .net = true) :
    (State.sendCtl s n mtype cls addr body tag).Keeps F I o T := by
  unfold State.sendCtl
  repeat' first
    | with_reducible assumption
    | with_reducible apply State.queueMsg_keeps
    | split

theorem State.openDests_keeps {s : State} {w : Nat} (h_s : s.Keeps F I o T) (f_wild : F .wild = true) :
    (State.openDests s w).Keeps F I o T := by
  unfold State.openDests
  repeat' first
    | with_reducible assumption
    | with_reducible apply State.openBytes_keeps
    | split

theorem State.struckCellar_keeps {s : State} {dom : Nat} {a : Nat} {n : Nat} (h_s : s.Keeps F I o T)
    (f_wild : F .wild = true) (f_eng : F .eng = true) :
    (State.struckCellar s dom a n).Keeps F I o T := by
  unfold State.struckCellar
  repeat' first
    | with_reducible assumption
    | (with_reducible refine State.each_keeps ?_ fun _ _ _ => ?_)
    | with_reducible apply State.modEngine_keeps
    | with_reducible apply State.openBytes_keeps
    | with_reducible apply State.openDests_keeps
    | refine State.Keeps.fst (by with_reducible assumption) ?_
    | refine State.Keeps.snd (by with_reducible assumption) ?_
    | refine State.Keeps.snd2 (by with_reducible assumption) ?_
    | refine State.Keeps.snd3 (by with_reducible assumption) ?_
    | split
    | dsimp only

theorem State.struck_keeps {s : State} {dom : Nat} {a : Nat} {n : Nat} (h_s : s.Keeps F I o T)
    (f_wild : F .wild = true) (f_eng : F .eng = true) :
    (State.struck s dom a n).Keeps F I o T := by
  unfold State.struck
  repeat' first
    | with_reducible assumption
    | with_reducible apply State.modEngine_keeps
    | with_reducible apply State.openBytes_keeps
    | with_reducible apply State.struckCellar_keeps
    | split

theorem State.checkStore_keeps {s : State} {w : Nat} {dom : Nat} {a : Nat} {n : Nat} (h_s : s.Keeps F I o T)
    (f_wild : F .wild = true) (f_mov : F .mov = true) :
    (State.checkStore s w dom a n).Keeps F I o T := by
  unfold State.checkStore
  repeat' first
    | with_reducible assumption
    | (with_reducible refine State.each_keeps ?_ fun _ _ _ => ?_)
    | with_reducible apply State.openBytes_keeps
    | with_reducible apply State.openDests_keeps
    | with_reducible apply State.setChan_keeps
    | with_reducible refine foldl_keeps (fun acc => State.Keeps acc F I o T) _ _ _ ?_ fun _ _ _ => ?_
    | with_reducible refine foldl_keeps (fun acc => State.Keeps acc.1 F I o T) _ _ _ ?_ fun _ _ _ => ?_
    | with_reducible refine foldl_keeps (fun acc => State.Keeps acc.2 F I o T) _ _ _ ?_ fun _ _ _ => ?_
    | with_reducible refine foldl_keeps (fun acc => State.Keeps acc.2.2 F I o T) _ _ _ ?_ fun _ _ _ => ?_
    | refine State.Keeps.fst (by with_reducible assumption) ?_
    | refine State.Keeps.snd (by with_reducible assumption) ?_
    | refine State.Keeps.snd2 (by with_reducible assumption) ?_
    | refine State.Keeps.snd3 (by with_reducible assumption) ?_
    | split
    | dsimp only

theorem State.eachEngine_keeps {s : State} {f : Engine → Engine} (h_s : s.Keeps F I o T) (f_eng : F .eng = true) :
    (State.eachEngine s f).Keeps F I o T := by
  unfold State.eachEngine
  repeat' first
    | with_reducible assumption
    | (with_reducible refine State.each_keeps ?_ fun _ _ _ => ?_)
    | with_reducible apply State.modEngine_keeps
    | split

theorem State.killSlots_keeps {s : State} {f : FSlot → Bool} (h_s : s.Keeps F I o T) (f_eng : F .eng = true) :
    (State.killSlots s f).Keeps F I o T := by
  unfold State.killSlots
  repeat' first
    | with_reducible assumption
    | with_reducible apply State.eachEngine_keeps
    | split

theorem State.resetPair_keeps {s : State} {p : Nat} (h_s : s.Keeps F I o T) (f_arr : F .arr = true) :
    (State.resetPair s p).Keeps F I o T := by
  unfold State.resetPair
  repeat' first
    | with_reducible assumption
    | with_reducible apply State.setSem_keeps
    | split

theorem State.syncLinks_keeps {s : State} (h_s : s.Keeps F I o T) (f_arr : F .arr = true) :
    (State.syncLinks s).Keeps F I o T := by
  unfold State.syncLinks
  repeat' first
    | with_reducible assumption
    | (with_reducible refine State.each_keeps ?_ fun _ _ _ => ?_)
    | with_reducible apply State.setSem_keeps
    | refine State.Keeps.fst (by with_reducible assumption) ?_
    | refine State.Keeps.snd (by with_reducible assumption) ?_
    | refine State.Keeps.snd2 (by with_reducible assumption) ?_
    | refine State.Keeps.snd3 (by with_reducible assumption) ?_
    | split
    | dsimp only

theorem State.sendAck_keeps {s : State} {c : Nat} (h_s : s.Keeps F I o T) (f_peer : F .peer = true) :
    (State.sendAck s c).Keeps F I o T := by
  unfold State.sendAck
  repeat' first
    | with_reducible assumption
    | with_reducible apply State.queuePeer_keeps
    | with_reducible apply State.setConn_keeps
    | split

theorem State.dueAck_keeps {s : State} {c : Nat} (h_s : s.Keeps F I o T) (f_peer : F .peer = true) :
    (State.dueAck s c).Keeps F I o T := by
  unfold State.dueAck
  repeat' first
    | with_reducible assumption
    | with_reducible apply State.sendAck_keeps
    | refine State.Keeps.fst (by with_reducible assumption) ?_
    | refine State.Keeps.snd (by with_reducible assumption) ?_
    | refine State.Keeps.snd2 (by with_reducible assumption) ?_
    | refine State.Keeps.snd3 (by with_reducible assumption) ?_
    | split
    | dsimp only

theorem State.sendNak_keeps {s : State} {c : Nat} {psn : Nat} {code : Nat} (h_s : s.Keeps F I o T)
    (f_peer : F .peer = true) :
    (State.sendNak s c psn code).Keeps F I o T := by
  unfold State.sendNak
  repeat' first
    | with_reducible assumption
    | with_reducible apply State.queuePeer_keeps
    | with_reducible apply State.setConn_keeps
    | split

theorem State.refuse_keeps {s : State} {c : Nat} {psn : Nat} {code : Nat} (h_s : s.Keeps F I o T)
    (f_peer : F .peer = true) :
    (State.refuse s c psn code).Keeps F I o T := by
  unfold State.refuse
  repeat' first
    | with_reducible assumption
    | with_reducible apply State.sendNak_keeps
    | split

theorem State.disown_keeps {s : State} {f : Owner → Bool} (h_s : s.Keeps F I o T) (f_mov : F .mov = true)
    (f_hi : F .hi = true) :
    (State.disown s f).Keeps F I o T := by
  unfold State.disown
  repeat' first
    | with_reducible assumption
    | (with_reducible refine State.each_keeps ?_ fun _ _ _ => ?_)
    | with_reducible apply State.modMov_keeps
    | with_reducible apply State.setHiChan_keeps
    | split

theorem State.dropFetched_keeps {s : State} {r : Nat} (h_s : s.Keeps F I o T) (f_disp : F .disp = true)
    (f_mov : F .mov = true) (f_hi : F .hi = true) :
    (State.dropFetched s r).Keeps F I o T := by
  unfold State.dropFetched
  repeat' first
    | with_reducible assumption
    | with_reducible apply State.disown_keeps
    | with_reducible apply State.setRing_keeps
    | split

theorem State.workQueued_keeps {s : State} {w : Option Nat} {n : Nat} {host : Bool} (h_s : s.Keeps F I o T)
    (f_disp : F .disp = true) :
    (State.workQueued s w n host).Keeps F I o T := by
  unfold State.workQueued
  repeat' first
    | with_reducible assumption
    | with_reducible apply State.modWork_keeps
    | split

theorem State.workIssued_keeps {s : State} {w : Option Nat} (h_s : s.Keeps F I o T) (f_disp : F .disp = true) :
    (State.workIssued s w).Keeps F I o T := by
  unfold State.workIssued
  repeat' first
    | with_reducible assumption
    | with_reducible apply State.modWork_keeps
    | split

theorem State.workAcked_keeps {s : State} {w : Option Nat} {host : Bool} (h_s : s.Keeps F I o T)
    (f_disp : F .disp = true) :
    (State.workAcked s w host).Keeps F I o T := by
  unfold State.workAcked
  repeat' first
    | with_reducible assumption
    | with_reducible apply State.modWork_keeps
    | split

theorem State.ownQueued_keeps {s : State} {own : Owner} {n : Nat} {host : Bool} (h_s : s.Keeps F I o T)
    (f_disp : F .disp = true) (f_mov : F .mov = true) (f_peer : F .peer = true) (f_porters : F .porters = true)
        (f_obs : F .obs = true) :
    (State.ownQueued s own n host).Keeps F I o T := by
  unfold State.ownQueued
  repeat' first
    | with_reducible assumption
    | with_reducible apply State.modChan_keeps
    | with_reducible apply State.modPorter_keeps
    | with_reducible apply State.modSnap_keeps
    | with_reducible apply State.modWork_keeps
    | with_reducible apply State.setConn_keeps
    | with_reducible apply State.workQueued_keeps
    | split

theorem State.ownIssued_keeps {s : State} {own : Owner} (h_s : s.Keeps F I o T) (f_disp : F .disp = true) :
    (State.ownIssued s own).Keeps F I o T := by
  unfold State.ownIssued
  repeat' first
    | with_reducible assumption
    | with_reducible apply State.workIssued_keeps
    | split

theorem State.ownAcked_keeps {s : State} {own : Owner} {host : Bool} (h_s : s.Keeps F I o T)
    (f_disp : F .disp = true) (f_mov : F .mov = true) (f_peer : F .peer = true) (f_porters : F .porters = true)
        (f_obs : F .obs = true) :
    (State.ownAcked s own host).Keeps F I o T := by
  unfold State.ownAcked
  repeat' first
    | with_reducible assumption
    | with_reducible apply State.dueAck_keeps
    | with_reducible apply State.modChan_keeps
    | with_reducible apply State.modPorter_keeps
    | with_reducible apply State.modSnap_keeps
    | with_reducible apply State.modWork_keeps
    | with_reducible apply State.setConn_keeps
    | with_reducible apply State.workAcked_keeps
    | split

theorem State.unqueue_keeps {s : State} {a : Access} (h_s : s.Keeps F I o T) (f_disp : F .disp = true)
    (f_mov : F .mov = true) (f_peer : F .peer = true) (f_porters : F .porters = true) (f_obs : F .obs = true) :
    (State.unqueue s a).Keeps F I o T := by
  unfold State.unqueue
  repeat' first
    | with_reducible assumption
    | with_reducible apply State.ownAcked_keeps
    | with_reducible apply State.ownIssued_keeps
    | split

theorem State.leaveFaults_keeps {s : State} {f : Access → Bool} (h_s : s.Keeps F I o T) (f_disp : F .disp = true)
    (f_mov : F .mov = true) (f_peer : F .peer = true) (f_porters : F .porters = true) (f_obs : F .obs = true) :
    (State.leaveFaults s f).Keeps F I o T := by
  unfold State.leaveFaults
  repeat' first
    | with_reducible assumption
    | (with_reducible refine State.each_keeps ?_ fun _ _ _ => ?_)
    | with_reducible apply State.modMov_keeps
    | with_reducible apply State.unqueue_keeps
    | split

theorem State.abortCrates_keeps {s : State} {i : Nat} {e : Nat} {last : Nat} (h_s : s.Keeps F I o T)
    (f_eng : F .eng = true) (f_net : F .net = true) :
    (State.abortCrates s i e last).Keeps F I o T := by
  unfold State.abortCrates
  repeat' first
    | with_reducible assumption
    | (with_reducible refine State.each_keeps ?_ fun _ _ _ => ?_)
    | with_reducible apply State.eachEngine_keeps
    | with_reducible apply State.modDir_keeps
    | with_reducible apply State.sendCtl_keeps
    | split

theorem State.replayFrom_keeps {s : State} {w : Nat} {e : Nat} (h_s : s.Keeps F I o T) (f_disp : F .disp = true)
    (f_eng : F .eng = true) (f_net : F .net = true) :
    (State.replayFrom s w e).Keeps F I o T := by
  unfold State.replayFrom
  repeat' first
    | with_reducible assumption
    | with_reducible apply State.abortCrates_keeps
    | with_reducible apply State.killSlots_keeps
    | with_reducible apply State.setScatter_keeps
    | with_reducible apply State.setWork_keeps
    | split

theorem State.replayScatter_keeps {s : State} {w : Nat} (h_s : s.Keeps F I o T) (f_disp : F .disp = true)
    (f_eng : F .eng = true) (f_net : F .net = true) :
    (State.replayScatter s w).Keeps F I o T := by
  unfold State.replayScatter
  repeat' first
    | with_reducible assumption
    | with_reducible apply State.replayFrom_keeps
    | split

theorem State.endScatter_keeps {s : State} {w : Nat} (h_s : s.Keeps F I o T) (f_disp : F .disp = true)
    (f_eng : F .eng = true) (f_net : F .net = true) :
    (State.endScatter s w).Keeps F I o T := by
  unfold State.endScatter
  repeat' first
    | with_reducible assumption
    | with_reducible apply State.abortCrates_keeps
    | with_reducible apply State.setScatter_keeps
    | split

theorem State.unitStarts_keeps {s : State} {w : Nat} {u : Nat} (h_s : s.Keeps F I o T) (f_fresh : F .fresh = true)
    (f_disp : F .disp = true) (f_obs : F .obs = true) :
    (State.unitStarts s w u).Keeps F I o T := by
  unfold State.unitStarts
  repeat' first
    | with_reducible assumption
    | with_reducible apply State.modWork_keeps
    | with_reducible apply State.tally_keeps
    | refine State.Keeps.fst (by with_reducible assumption) ?_
    | refine State.Keeps.snd (by with_reducible assumption) ?_
    | refine State.Keeps.snd2 (by with_reducible assumption) ?_
    | refine State.Keeps.snd3 (by with_reducible assumption) ?_
    | split
    | dsimp only

theorem State.unitsEnd_keeps {s : State} {k : Work} (h_s : s.Keeps F I o T) (f_fresh : F .fresh = true)
    (f_obs : F .obs = true) :
    (State.unitsEnd s k).Keeps F I o T := by
  unfold State.unitsEnd
  repeat' first
    | with_reducible assumption
    | (with_reducible refine State.each_keeps ?_ fun _ _ _ => ?_)
    | with_reducible apply State.tally_keeps
    | split

theorem State.rewindBag_keeps {s : State} {w : Nat} {b : Nat} {cause : Nat} (h_s : s.Keeps F I o T)
    (f_fresh : F .fresh = true) (f_disp : F .disp = true) (f_eng : F .eng = true) (f_arr : F .arr = true)
        (f_obs : F .obs = true) :
    (State.rewindBag s w b cause).Keeps F I o T := by
  unfold State.rewindBag
  repeat' first
    | with_reducible assumption
    | (with_reducible refine State.each_keeps ?_ fun _ _ _ => ?_)
    | with_reducible apply State.count_keeps
    | with_reducible apply State.countTile_keeps
    | with_reducible apply State.killSlots_keeps
    | with_reducible apply State.modBatches_keeps
    | with_reducible apply State.modMcast_keeps
    | with_reducible apply State.setArray_keeps
    | with_reducible apply State.setSem_keeps
    | with_reducible apply State.setWork_keeps
    | with_reducible apply State.syncLinks_keeps
    | with_reducible apply State.tally_keeps
    | refine State.Keeps.fst (by with_reducible assumption) ?_
    | refine State.Keeps.snd (by with_reducible assumption) ?_
    | refine State.Keeps.snd2 (by with_reducible assumption) ?_
    | refine State.Keeps.snd3 (by with_reducible assumption) ?_
    | split
    | dsimp only

theorem State.rewindWork_keeps {s : State} {w : Nat} {cause : Nat} {f : Bag → Bool} (h_s : s.Keeps F I o T)
    (f_fresh : F .fresh = true) (f_disp : F .disp = true) (f_eng : F .eng = true) (f_arr : F .arr = true)
        (f_net : F .net = true) (f_obs : F .obs = true) :
    (State.rewindWork s w cause f).Keeps F I o T := by
  unfold State.rewindWork
  repeat' first
    | with_reducible assumption
    | (with_reducible refine State.each_keeps ?_ fun _ _ _ => ?_)
    | with_reducible apply State.count_keeps
    | with_reducible apply State.replayScatter_keeps
    | with_reducible apply State.rewindBag_keeps
    | refine State.Keeps.fst (by with_reducible assumption) ?_
    | refine State.Keeps.snd (by with_reducible assumption) ?_
    | refine State.Keeps.snd2 (by with_reducible assumption) ?_
    | refine State.Keeps.snd3 (by with_reducible assumption) ?_
    | split
    | dsimp only

theorem State.writeBack_keeps {s : State} {m : Nat} {w : Nat} {own : Owner} {l : DLine} (h_s : s.Keeps F I o T)
    (f_wild : F .wild = true) (f_disp : F .disp = true) (f_eng : F .eng = true) (f_net : F .net = true)
        (f_mov : F .mov = true) (f_peer : F .peer = true) (f_porters : F .porters = true) (f_obs : F .obs = true) :
    (State.writeBack s m w own l).Keeps F I o T := by
  unfold State.writeBack
  repeat' first
    | with_reducible assumption
    | with_reducible apply State.count_keeps
    | with_reducible apply State.ownQueued_keeps
    | with_reducible apply State.sendWr_keeps
    | with_reducible apply State.struck_keeps
    | split

theorem State.leaveCache_keeps {s : State} {m : Nat} (h_s : s.Keeps F I o T) (f_wild : F .wild = true)
    (f_disp : F .disp = true) (f_eng : F .eng = true) (f_net : F .net = true) (f_mov : F .mov = true)
        (f_peer : F .peer = true) (f_porters : F .porters = true) (f_obs : F .obs = true) :
    (State.leaveCache s m).Keeps F I o T := by
  unfold State.leaveCache
  repeat' first
    | with_reducible assumption
    | (with_reducible refine State.each_keeps ?_ fun _ _ _ => ?_)
    | with_reducible apply State.modPorter_keeps
    | with_reducible apply State.writeBack_keeps
    | split

theorem State.stopPorter_keeps {s : State} {m : Nat} (h_s : s.Keeps F I o T) (f_porters : F .porters = true) :
    (State.stopPorter s m).Keeps F I o T := by
  unfold State.stopPorter
  repeat' first
    | with_reducible assumption
    | with_reducible apply State.modPorter_keeps
    | split

theorem State.copyFails_keeps {s : State} {ch : Nat} (h_s : s.Keeps F I o T) (f_mov : F .mov = true) :
    (State.copyFails s ch).Keeps F I o T := by
  unfold State.copyFails
  repeat' first
    | with_reducible assumption
    | with_reducible apply State.modMov_keeps
    | split

theorem State.stopChan_keeps {s : State} {ch : Nat} {code : Nat} {fault : Option (Nat × Nat)}
    (h_s : s.Keeps F I o T) (f_disp : F .disp = true) (f_mov : F .mov = true) (f_peer : F .peer = true)
        (f_porters : F .porters = true) (f_obs : F .obs = true) :
    (State.stopChan s ch code fault).Keeps F I o T := by
  unfold State.stopChan
  repeat' first
    | with_reducible assumption
    | with_reducible apply State.copyFails_keeps
    | with_reducible apply State.leaveFaults_keeps
    | with_reducible apply State.modChan_keeps
    | split

theorem State.dropLists_keeps {s : State} {mine : Nat × Nat × Nat → Bool} (h_s : s.Keeps F I o T)
    (f_disp : F .disp = true) (f_mov : F .mov = true) (f_peer : F .peer = true) (f_porters : F .porters = true)
        (f_obs : F .obs = true) :
    (State.dropLists s mine).Keeps F I o T := by
  unfold State.dropLists
  repeat' first
    | with_reducible assumption
    | (with_reducible refine State.each_keeps ?_ fun _ _ _ => ?_)
    | with_reducible apply State.modChan_keeps
    | with_reducible apply State.stopChan_keeps
    | split

theorem State.endOne_keeps {s : State} {w : Nat} {st : Nat} (h_s : s.Keeps F I o T) (f_disp : F .disp = true)
    (f_eng : F .eng = true) (f_arr : F .arr = true) (f_net : F .net = true) (f_mov : F .mov = true)
        (f_peer : F .peer = true) (f_porters : F .porters = true) (f_obs : F .obs = true) :
    (State.endOne s w st).Keeps F I o T := by
  unfold State.endOne
  repeat' first
    | with_reducible assumption
    | (with_reducible refine State.each_keeps ?_ fun _ _ _ => ?_)
    | with_reducible apply State.dropLists_keeps
    | with_reducible apply State.endScatter_keeps
    | with_reducible apply State.killSlots_keeps
    | with_reducible apply State.leaveFaults_keeps
    | with_reducible apply State.modBatches_keeps
    | with_reducible apply State.modDisp_keeps
    | with_reducible apply State.modMcast_keeps
    | with_reducible apply State.modPorter_keeps
    | with_reducible apply State.modWork_keeps
    | with_reducible apply State.setArray_keeps
    | with_reducible apply State.stopPorter_keeps
    | with_reducible apply State.syncLinks_keeps
    | split

theorem State.endWork_keeps {s : State} {w : Nat} {st : Nat} (h_s : s.Keeps F I o T) (f_wild : F .wild = true)
    (f_disp : F .disp = true) (f_eng : F .eng = true) (f_arr : F .arr = true) (f_net : F .net = true)
        (f_mov : F .mov = true) (f_peer : F .peer = true) (f_porters : F .porters = true) (f_obs : F .obs = true) :
    (State.endWork s w st).Keeps F I o T := by
  unfold State.endWork
  repeat' first
    | with_reducible assumption
    | (with_reducible refine State.each_keeps ?_ fun _ _ _ => ?_)
    | with_reducible apply State.endOne_keeps
    | with_reducible apply State.leaveCache_keeps
    | with_reducible apply State.resetPair_keeps
    | split

theorem State.abortTask_keeps {s : State} {w : Nat} (h_s : s.Keeps F I o T) (f_wild : F .wild = true)
    (f_disp : F .disp = true) (f_eng : F .eng = true) (f_arr : F .arr = true) (f_net : F .net = true)
        (f_mov : F .mov = true) (f_peer : F .peer = true) (f_porters : F .porters = true) (f_obs : F .obs = true) :
    (State.abortTask s w).Keeps F I o T := by
  unfold State.abortTask
  repeat' first
    | with_reducible assumption
    | with_reducible apply State.endWork_keeps
    | split

theorem State.failChan_keeps {s : State} {ch : Nat} {addr : Nat} {need : Nat} (h_s : s.Keeps F I o T)
    (f_fresh : F .fresh = true) (f_notices : F .notices = true) (f_disp : F .disp = true) (f_mov : F .mov = true)
        (f_peer : F .peer = true) (f_porters : F .porters = true) (f_obs : F .obs = true) :
    (State.failChan s ch addr need).Keeps F I o T := by
  unfold State.failChan
  repeat' first
    | with_reducible assumption
    | with_reducible apply State.raise_keeps
    | with_reducible apply State.setChan_keeps
    | with_reducible apply State.stopChan_keeps
    | with_reducible apply State.tallyNotice_keeps
    | refine State.Keeps.fst (by with_reducible assumption) ?_
    | refine State.Keeps.snd (by with_reducible assumption) ?_
    | refine State.Keeps.snd2 (by with_reducible assumption) ?_
    | refine State.Keeps.snd3 (by with_reducible assumption) ?_
    | split
    | dsimp only

theorem State.failWrite_keeps {s : State} {ch : Nat} {w : Option Nat} {addr : Nat} {need : Nat}
    (h_s : s.Keeps F I o T) (f_fresh : F .fresh = true) (f_notices : F .notices = true) (f_wild : F .wild = true)
        (f_disp : F .disp = true) (f_eng : F .eng = true) (f_arr : F .arr = true) (f_net : F .net = true)
            (f_mov : F .mov = true) (f_peer : F .peer = true) (f_porters : F .porters = true)
                (f_obs : F .obs = true) :
    (State.failWrite s ch w addr need).Keeps F I o T := by
  unfold State.failWrite
  repeat' first
    | with_reducible assumption
    | with_reducible apply State.endWork_keeps
    | with_reducible apply State.failChan_keeps
    | split

theorem State.denied_keeps {s : State} {own : Owner} {addr : Nat} {need : Nat} (h_s : s.Keeps F I o T)
    (f_fresh : F .fresh = true) (f_notices : F .notices = true) (f_wild : F .wild = true) (f_disp : F .disp = true)
        (f_eng : F .eng = true) (f_arr : F .arr = true) (f_net : F .net = true) (f_mov : F .mov = true)
            (f_peer : F .peer = true) (f_porters : F .porters = true) (f_obs : F .obs = true) :
    (State.denied s own addr need).Keeps F I o T := by
  unfold State.denied
  repeat' first
    | with_reducible assumption
    | with_reducible apply State.endWork_keeps
    | with_reducible apply State.failChan_keeps
    | with_reducible apply State.failWrite_keeps
    | with_reducible apply State.modChan_keeps
    | with_reducible apply State.modMov_keeps
    | with_reducible apply State.modWork_keeps
    | with_reducible apply State.refuse_keeps
    | with_reducible apply State.setRing_keeps
    | with_reducible apply State.setWork_keeps
    | refine State.Keeps.fst (by with_reducible assumption) ?_
    | refine State.Keeps.snd (by with_reducible assumption) ?_
    | refine State.Keeps.snd2 (by with_reducible assumption) ?_
    | refine State.Keeps.snd3 (by with_reducible assumption) ?_
    | split
    | dsimp only

theorem State.touchTc_keeps {s : State} {i : Nat} (h_s : s.Keeps F I o T) (f_mov : F .mov = true) :
    (State.touchTc s i).Keeps F I o T := by
  unfold State.touchTc
  repeat' first
    | with_reducible assumption
    | with_reducible apply State.modMov_keeps
    | split

theorem State.tcFill_keeps {s : State} {e : TcEnt} (h_s : s.Keeps F I o T) (f_mov : F .mov = true) :
    (State.tcFill s e).Keeps F I o T := by
  unfold State.tcFill
  repeat' first
    | with_reducible assumption
    | with_reducible apply State.setTc_keeps
    | with_reducible apply State.touchTc_keeps
    | split

theorem State.requestAt_keeps {s : State} {a : Access} {pa : Nat} {serial : Nat} (h_s : s.Keeps F I o T)
    (f_hi : F .hi = true) :
    (State.requestAt s a pa serial).Keeps F I o T := by
  unfold State.requestAt
  repeat' first
    | with_reducible assumption
    | with_reducible apply State.setHiChan_keeps
    | split

theorem State.request_keeps {s : State} {a : Access} {pa : Nat} (h_s : s.Keeps F I o T) (f_mov : F .mov = true)
    (f_hi : F .hi = true) :
    (State.request s a pa).Keeps F I o T := by
  unfold State.request
  repeat' first
    | with_reducible assumption
    | with_reducible apply State.modMov_keeps
    | with_reducible apply State.requestAt_keeps
    | split

theorem State.waitEntry_keeps {s : State} {a : Access} (h_s : s.Keeps F I o T) (f_fresh : F .fresh = true)
    (f_notices : F .notices = true) (f_mov : F .mov = true) (f_obs : F .obs = true) :
    (State.waitEntry s a).Keeps F I o T := by
  unfold State.waitEntry
  repeat' first
    | with_reducible assumption
    | with_reducible apply State.count_keeps
    | with_reducible apply State.modMov_keeps
    | with_reducible apply State.raise_keeps
    | with_reducible apply State.setFault_keeps
    | with_reducible apply State.tallyNotice_keeps
    | refine State.Keeps.fst (by with_reducible assumption) ?_
    | refine State.Keeps.snd (by with_reducible assumption) ?_
    | refine State.Keeps.snd2 (by with_reducible assumption) ?_
    | refine State.Keeps.snd3 (by with_reducible assumption) ?_
    | split
    | dsimp only

theorem State.miss_keeps {s : State} {a : Access} (h_s : s.Keeps F I o T) (f_fresh : F .fresh = true)
    (f_notices : F .notices = true) (f_mov : F .mov = true) (f_obs : F .obs = true) :
    (State.miss s a).Keeps F I o T := by
  unfold State.miss
  repeat' first
    | with_reducible assumption
    | with_reducible apply State.count_keeps
    | with_reducible apply State.waitEntry_keeps
    | split

theorem State.countTouch_keeps {s : State} {a : Access} {i : Nat} {e : TcEnt} (h_s : s.Keeps F I o T)
    (f_mov : F .mov = true) :
    (State.countTouch s a i e).Keeps F I o T := by
  unfold State.countTouch
  repeat' first
    | with_reducible assumption
    | with_reducible apply State.setTc_keeps
    | split

theorem State.accessOr_keeps {s : State} {a : Access} {miss : State → Access → State} (h_s : s.Keeps F I o T)
    (h_miss : ∀ a0 a1, a0.Keeps F I o T → (miss a0 a1).Keeps F I o T) (f_fresh : F .fresh = true)
        (f_notices : F .notices = true) (f_wild : F .wild = true) (f_disp : F .disp = true) (f_eng : F .eng = true)
            (f_arr : F .arr = true) (f_net : F .net = true) (f_mov : F .mov = true) (f_hi : F .hi = true)
                (f_peer : F .peer = true) (f_porters : F .porters = true) (f_obs : F .obs = true) :
    (State.accessOr s a miss).Keeps F I o T := by
  unfold State.accessOr
  repeat' first
    | with_reducible assumption
    | with_reducible apply State.countTouch_keeps
    | with_reducible apply State.denied_keeps
    | with_reducible apply State.miss_keeps
    | with_reducible apply State.modChan_keeps
    | with_reducible apply State.request_keeps
    | with_reducible apply State.touchTc_keeps
    | with_reducible apply State.unqueue_keeps
    | with_reducible apply h_miss
    | refine State.Keeps.fst (by with_reducible assumption) ?_
    | refine State.Keeps.snd (by with_reducible assumption) ?_
    | refine State.Keeps.snd2 (by with_reducible assumption) ?_
    | refine State.Keeps.snd3 (by with_reducible assumption) ?_
    | split
    | dsimp only

theorem State.access_keeps {s : State} {a : Access} (h_s : s.Keeps F I o T) (f_fresh : F .fresh = true)
    (f_notices : F .notices = true) (f_wild : F .wild = true) (f_disp : F .disp = true) (f_eng : F .eng = true)
        (f_arr : F .arr = true) (f_net : F .net = true) (f_mov : F .mov = true) (f_hi : F .hi = true)
            (f_peer : F .peer = true) (f_porters : F .porters = true) (f_obs : F .obs = true) :
    (State.access s a).Keeps F I o T := by
  unfold State.access
  try dsimp only
  repeat' first
    | with_reducible assumption
    | with_reducible apply State.accessOr_keeps
    | with_reducible apply State.miss_keeps
    | refine State.Keeps.fst (by with_reducible assumption) ?_
    | refine State.Keeps.snd (by with_reducible assumption) ?_
    | refine State.Keeps.snd2 (by with_reducible assumption) ?_
    | refine State.Keeps.snd3 (by with_reducible assumption) ?_
    | split
    | with_reducible intro a_
    | dsimp only
    | with_reducible rfl
    | (simp_all; done)

theorem State.writeOut_keeps {s : State} {own : Owner} {cls : Nat} {dom : Nat} {a : Nat} {data : Bytes} {fence :
    Bool} {chan : Option Nat} (h_s : s.Keeps F I o T) (f_fresh : F .fresh = true) (f_notices : F .notices = true)
        (f_mem : F .mem = true) (f_wild : F .wild = true) (f_disp : F .disp = true) (f_eng : F .eng = true)
            (f_arr : F .arr = true) (f_net : F .net = true) (f_mov : F .mov = true) (f_hi : F .hi = true)
                (f_peer : F .peer = true) (f_porters : F .porters = true) (f_obs : F .obs = true) :
    (State.writeOut s own cls dom a data fence chan).1.Keeps F I o T := by
  unfold State.writeOut
  repeat' first
    | with_reducible assumption
    | (with_reducible refine State.each_keeps ?_ fun _ _ _ => ?_)
    | with_reducible apply State.access_keeps
    | with_reducible apply State.denied_keeps
    | with_reducible apply State.ownQueued_keeps
    | with_reducible apply State.sendWr_keeps
    | with_reducible apply State.store_keeps
    | with_reducible apply State.struck_keeps
    | split

theorem State.readOut_keeps {s : State} {own : Owner} {cls : Nat} {dom : Nat} {a : Nat} {n : Nat} {chan : Option
    Nat} (h_s : s.Keeps F I o T) (f_fresh : F .fresh = true) (f_notices : F .notices = true)
        (f_wild : F .wild = true) (f_disp : F .disp = true) (f_eng : F .eng = true) (f_arr : F .arr = true)
            (f_net : F .net = true) (f_mov : F .mov = true) (f_hi : F .hi = true) (f_peer : F .peer = true)
                (f_porters : F .porters = true) (f_obs : F .obs = true) :
    (State.readOut s own cls dom a n chan).Keeps F I o T := by
  unfold State.readOut
  repeat' first
    | with_reducible assumption
    | (with_reducible refine State.each_keeps ?_ fun _ _ _ => ?_)
    | with_reducible apply State.access_keeps
    | split

theorem State.workRead_keeps {s : State} {w : Nat} {a : Nat} {n : Nat} (h_s : s.Keeps F I o T)
    (f_fresh : F .fresh = true) (f_notices : F .notices = true) (f_mem : F .mem = true) (f_wild : F .wild = true)
        (f_disp : F .disp = true) (f_eng : F .eng = true) (f_arr : F .arr = true) (f_net : F .net = true)
            (f_mov : F .mov = true) (f_hi : F .hi = true) (f_peer : F .peer = true) (f_porters : F .porters = true)
                (f_sk : F .sk = true) (f_obs : F .obs = true) :
    (State.workRead s w a n).2.Keeps F I o T := by
  unfold State.workRead
  repeat' first
    | with_reducible assumption
    | with_reducible apply State.denied_keeps
    | with_reducible apply State.park_keeps
    | with_reducible apply State.readOut_keeps
    | refine State.Keeps.fst (by with_reducible assumption) ?_
    | refine State.Keeps.snd (by with_reducible assumption) ?_
    | refine State.Keeps.snd2 (by with_reducible assumption) ?_
    | refine State.Keeps.snd3 (by with_reducible assumption) ?_
    | split
    | dsimp only

theorem State.withBytes_keeps {s : State} {w : Nat} {a : Nat} {n : Nat} {f : Bytes → State → State}
    (h_s : s.Keeps F I o T) (h_f : ∀ a0 a1, a1.Keeps F I o T → (f a0 a1).Keeps F I o T) (f_fresh : F .fresh = true)
        (f_notices : F .notices = true) (f_mem : F .mem = true) (f_wild : F .wild = true) (f_disp : F .disp = true)
            (f_eng : F .eng = true) (f_arr : F .arr = true) (f_net : F .net = true) (f_mov : F .mov = true)
                (f_hi : F .hi = true) (f_peer : F .peer = true) (f_porters : F .porters = true)
                    (f_sk : F .sk = true) (f_obs : F .obs = true) :
    (State.withBytes s w a n f).Keeps F I o T := by
  unfold State.withBytes
  repeat' first
    | with_reducible assumption
    | with_reducible apply State.denied_keeps
    | with_reducible apply State.endWork_keeps
    | with_reducible apply State.workRead_keeps
    | with_reducible apply h_f
    | refine State.Keeps.fst (by with_reducible assumption) ?_
    | refine State.Keeps.snd (by with_reducible assumption) ?_
    | refine State.Keeps.snd2 (by with_reducible assumption) ?_
    | refine State.Keeps.snd3 (by with_reducible assumption) ?_
    | split
    | dsimp only

theorem State.resumeAll_keeps {s : State} {as : List Access} (h_s : s.Keeps F I o T) (f_fresh : F .fresh = true)
    (f_notices : F .notices = true) (f_wild : F .wild = true) (f_disp : F .disp = true) (f_eng : F .eng = true)
        (f_arr : F .arr = true) (f_net : F .net = true) (f_mov : F .mov = true) (f_hi : F .hi = true)
            (f_peer : F .peer = true) (f_porters : F .porters = true) (f_obs : F .obs = true) :
    (State.resumeAll s as).Keeps F I o T := by
  unfold State.resumeAll
  repeat' first
    | with_reducible assumption
    | (with_reducible refine State.each_keeps ?_ fun _ _ _ => ?_)
    | with_reducible apply State.access_keeps
    | split

theorem State.retryPort_keeps {s : State} (h_s : s.Keeps F I o T) (f_fresh : F .fresh = true)
    (f_notices : F .notices = true) (f_wild : F .wild = true) (f_disp : F .disp = true) (f_eng : F .eng = true)
        (f_arr : F .arr = true) (f_net : F .net = true) (f_mov : F .mov = true) (f_hi : F .hi = true)
            (f_peer : F .peer = true) (f_porters : F .porters = true) (f_obs : F .obs = true) :
    (State.retryPort s).Keeps F I o T := by
  unfold State.retryPort
  try dsimp only
  repeat' first
    | with_reducible assumption
    | (with_reducible refine State.each_keeps ?_ fun _ _ _ => ?_)
    | with_reducible apply State.accessOr_keeps
    | with_reducible apply State.modMov_keeps
    | with_reducible apply State.waitEntry_keeps
    | refine State.Keeps.fst (by with_reducible assumption) ?_
    | refine State.Keeps.snd (by with_reducible assumption) ?_
    | refine State.Keeps.snd2 (by with_reducible assumption) ?_
    | refine State.Keeps.snd3 (by with_reducible assumption) ?_
    | split
    | with_reducible intro a_
    | dsimp only
    | with_reducible rfl
    | (simp_all; done)

theorem State.waitPage_keeps {s : State} {ch : Nat} {dom : Nat} {cls : Nat} {a : Nat} {write : Bool}
    (h_s : s.Keeps F I o T) (f_fresh : F .fresh = true) (f_notices : F .notices = true) (f_mov : F .mov = true)
        (f_obs : F .obs = true) :
    (State.waitPage s ch dom cls a write).Keeps F I o T := by
  unfold State.waitPage
  repeat' first
    | with_reducible assumption
    | with_reducible apply State.miss_keeps
    | with_reducible apply State.modChan_keeps
    | split

theorem State.setShare_keeps {s : State} {w : Nat} {i : Nat} {sh : Share} (h_s : s.Keeps F I o T)
    (f_disp : F .disp = true) :
    (State.setShare s w i sh).Keeps F I o T := by
  unfold State.setShare
  repeat' first
    | with_reducible assumption
    | with_reducible apply State.modWork_keeps
    | split

theorem State.readRange_keeps {s : State} {w : Nat} {i : Nat} {sh : Share} (h_s : s.Keeps F I o T)
    (f_fresh : F .fresh = true) (f_notices : F .notices = true) (f_mem : F .mem = true) (f_wild : F .wild = true)
        (f_disp : F .disp = true) (f_eng : F .eng = true) (f_arr : F .arr = true) (f_net : F .net = true)
            (f_mov : F .mov = true) (f_hi : F .hi = true) (f_peer : F .peer = true) (f_porters : F .porters = true)
                (f_sk : F .sk = true) (f_obs : F .obs = true) :
    OptK F I o T (fun r => r) (State.readRange s w i sh) := by
  unfold State.readRange
  repeat' first
    | with_reducible assumption
    | with_reducible exact OptK.none
    | with_reducible apply OptK.some
    | with_reducible apply State.denied_keeps
    | with_reducible apply State.endWork_keeps
    | with_reducible apply State.setShare_keeps
    | with_reducible apply State.workRead_keeps
    | refine State.Keeps.fst (by with_reducible assumption) ?_
    | refine State.Keeps.snd (by with_reducible assumption) ?_
    | refine State.Keeps.snd2 (by with_reducible assumption) ?_
    | refine State.Keeps.snd3 (by with_reducible assumption) ?_
    | split
    | dsimp only

theorem State.readRangesGo_keeps {s : State} {w i lb n : Nat} (h_s : s.Keeps F I o T) (f_fresh : F .fresh = true)
    (f_notices : F .notices = true) (f_mem : F .mem = true) (f_wild : F .wild = true) (f_disp : F .disp = true)
        (f_eng : F .eng = true) (f_arr : F .arr = true) (f_net : F .net = true) (f_mov : F .mov = true)
            (f_hi : F .hi = true) (f_peer : F .peer = true) (f_porters : F .porters = true) (f_sk : F .sk = true)
                (f_obs : F .obs = true) :
    OptK F I o T (fun r => r) (s.readRangesGo w i lb n) := by
  induction n generalizing s with
  | zero => exact OptK.some h_s
  | succ n ih =>
    unfold State.readRangesGo
    repeat' first
      | with_reducible assumption
      | with_reducible exact OptK.none
      | with_reducible apply OptK.some
      | with_reducible apply ih
      | with_reducible apply State.readRange_keeps
      | refine OptK.of (by with_reducible assumption) ?_
      | split

theorem State.readRanges_keeps {s : State} {w : Nat} {i : Nat} {lb : Nat} (h_s : s.Keeps F I o T)
    (f_fresh : F .fresh = true) (f_notices : F .notices = true) (f_mem : F .mem = true) (f_wild : F .wild = true)
        (f_disp : F .disp = true) (f_eng : F .eng = true) (f_arr : F .arr = true) (f_net : F .net = true)
            (f_mov : F .mov = true) (f_hi : F .hi = true) (f_peer : F .peer = true) (f_porters : F .porters = true)
                (f_sk : F .sk = true) (f_obs : F .obs = true) :
    OptK F I o T (fun r => r) (State.readRanges s w i lb) := by
  unfold State.readRanges
  repeat' first
    | with_reducible assumption
    | with_reducible exact OptK.none
    | with_reducible apply OptK.some
    | with_reducible apply State.readRangesGo_keeps
    | split

theorem State.readIndex_keeps {s : State} {w : Nat} {sh : Share} {p : Nat} (h_s : s.Keeps F I o T)
    (f_fresh : F .fresh = true) (f_notices : F .notices = true) (f_mem : F .mem = true) (f_wild : F .wild = true)
        (f_disp : F .disp = true) (f_eng : F .eng = true) (f_arr : F .arr = true) (f_net : F .net = true)
            (f_mov : F .mov = true) (f_hi : F .hi = true) (f_peer : F .peer = true) (f_porters : F .porters = true)
                (f_sk : F .sk = true) (f_obs : F .obs = true) :
    (State.readIndex s w sh p).2.Keeps F I o T := by
  unfold State.readIndex
  repeat' first
    | with_reducible assumption
    | with_reducible apply State.workRead_keeps
    | refine State.Keeps.fst (by with_reducible assumption) ?_
    | refine State.Keeps.snd (by with_reducible assumption) ?_
    | refine State.Keeps.snd2 (by with_reducible assumption) ?_
    | refine State.Keeps.snd3 (by with_reducible assumption) ?_
    | split
    | dsimp only

theorem State.readWeight_keeps {s : State} {w : Nat} {sh : Share} {p : Nat} (h_s : s.Keeps F I o T)
    (f_fresh : F .fresh = true) (f_notices : F .notices = true) (f_mem : F .mem = true) (f_wild : F .wild = true)
        (f_disp : F .disp = true) (f_eng : F .eng = true) (f_arr : F .arr = true) (f_net : F .net = true)
            (f_mov : F .mov = true) (f_hi : F .hi = true) (f_peer : F .peer = true) (f_porters : F .porters = true)
                (f_sk : F .sk = true) (f_obs : F .obs = true) :
    (State.readWeight s w sh p).2.Keeps F I o T := by
  unfold State.readWeight
  repeat' first
    | with_reducible assumption
    | with_reducible apply State.workRead_keeps
    | split

theorem State.drawN_keeps {s : State} {n : Nat} (h_s : s.Keeps F I o T) (f_fresh : F .fresh = true) :
    (s.drawN n).2.Keeps F I o T := by
  induction n generalizing s with
  | zero => exact h_s
  | succ n ih => exact ih (State.draw_keeps h_s f_fresh)

theorem State.openWork_keeps {s : State} {w : Nat} (h_s : s.Keeps F I o T) (f_fresh : F .fresh = true)
    (f_wild : F .wild = true) (f_disp : F .disp = true) (f_eng : F .eng = true) (f_arr : F .arr = true)
        (f_net : F .net = true) (f_mov : F .mov = true) (f_peer : F .peer = true) (f_porters : F .porters = true)
            (f_obs : F .obs = true) :
    (State.openWork s w).Keeps F I o T := by
  unfold State.openWork
  repeat' first
    | with_reducible assumption
    | (with_reducible refine State.each_keeps ?_ fun _ _ _ => ?_)
    | with_reducible apply State.drawN_keeps
    | with_reducible apply State.endWork_keeps
    | with_reducible apply State.modWork_keeps
    | with_reducible apply State.openDests_keeps
    | with_reducible apply State.tally_keeps
    | split

theorem State.checkOverlap_keeps {s : State} {w : Nat} (h_s : s.Keeps F I o T) (f_wild : F .wild = true)
    (f_mov : F .mov = true) :
    (State.checkOverlap s w).Keeps F I o T := by
  unfold State.checkOverlap
  repeat' first
    | with_reducible assumption
    | (with_reducible refine State.each_keeps ?_ fun _ _ _ => ?_)
    | with_reducible apply State.drop_keeps
    | with_reducible apply State.openBytes_keeps
    | with_reducible apply State.openDests_keeps
    | with_reducible apply State.setChan_keeps
    | with_reducible refine foldl_keeps (fun acc => State.Keeps acc F I o T) _ _ _ ?_ fun _ _ _ => ?_
    | with_reducible refine foldl_keeps (fun acc => State.Keeps acc.1 F I o T) _ _ _ ?_ fun _ _ _ => ?_
    | with_reducible refine foldl_keeps (fun acc => State.Keeps acc.2 F I o T) _ _ _ ?_ fun _ _ _ => ?_
    | with_reducible refine foldl_keeps (fun acc => State.Keeps acc.2.2 F I o T) _ _ _ ?_ fun _ _ _ => ?_
    | refine State.Keeps.fst (by with_reducible assumption) ?_
    | refine State.Keeps.snd (by with_reducible assumption) ?_
    | refine State.Keeps.snd2 (by with_reducible assumption) ?_
    | refine State.Keeps.snd3 (by with_reducible assumption) ?_
    | split
    | dsimp only

theorem State.dbIgnored_keeps {s : State} (h_s : s.Keeps F I o T) (f_fresh : F .fresh = true)
    (f_notices : F .notices = true) (f_obs : F .obs = true) :
    (State.dbIgnored s).Keeps F I o T := by
  unfold State.dbIgnored
  repeat' first
    | with_reducible assumption
    | with_reducible apply State.count_keeps
    | with_reducible apply State.raise_keeps
    | with_reducible apply State.tallyNotice_keeps
    | split

theorem State.wildRing_keeps {s : State} {r : Nat} (h_s : s.Keeps F I o T) (f_fresh : F .fresh = true)
    (f_wild : F .wild = true) (f_disp : F .disp = true) :
    (State.wildRing s r).Keeps F I o T := by
  unfold State.wildRing
  repeat' first
    | with_reducible assumption
    | (with_reducible refine State.each_keeps ?_ fun _ _ _ => ?_)
    | with_reducible apply State.drawN_keeps
    | with_reducible apply State.openBytes_keeps
    | with_reducible apply State.openDests_keeps
    | with_reducible apply State.setRing_keeps
    | split

theorem State.onRing_keeps {s : State} {page : Nat} {size : Nat} {data : Word} {f : Nat → Nat → State}
    (h_s : s.Keeps F I o T) (h_f : ∀ a0 a1, (f a0 a1).Keeps F I o T) (f_fresh : F .fresh = true)
        (f_notices : F .notices = true) (f_wild : F .wild = true) (f_disp : F .disp = true) (f_obs : F .obs = true) :
    (State.onRing s page size data f).Keeps F I o T := by
  unfold State.onRing
  repeat' first
    | with_reducible assumption
    | with_reducible apply State.dbIgnored_keeps
    | with_reducible apply State.wildRing_keeps
    | with_reducible apply h_f
    | split

theorem State.sqProd_keeps {s : State} {page : Nat} {size : Nat} {data : Word} (h_s : s.Keeps F I o T)
    (f_fresh : F .fresh = true) (f_notices : F .notices = true) (f_wild : F .wild = true) (f_disp : F .disp = true)
        (f_obs : F .obs = true) :
    (State.sqProd s page size data).Keeps F I o T := by
  unfold State.sqProd
  try dsimp only
  repeat' first
    | with_reducible assumption
    | with_reducible apply State.onRing_keeps
    | with_reducible apply State.setRing_keeps
    | with_reducible apply State.wildRing_keeps
    | refine State.Keeps.fst (by with_reducible assumption) ?_
    | refine State.Keeps.snd (by with_reducible assumption) ?_
    | refine State.Keeps.snd2 (by with_reducible assumption) ?_
    | refine State.Keeps.snd3 (by with_reducible assumption) ?_
    | split
    | with_reducible intro a_
    | dsimp only
    | with_reducible rfl
    | (simp_all; done)

theorem State.cqCons_keeps {s : State} {page : Nat} {size : Nat} {data : Word} (h_s : s.Keeps F I o T)
    (f_fresh : F .fresh = true) (f_notices : F .notices = true) (f_wild : F .wild = true) (f_disp : F .disp = true)
        (f_obs : F .obs = true) :
    (State.cqCons s page size data).Keeps F I o T := by
  unfold State.cqCons
  try dsimp only
  repeat' first
    | with_reducible assumption
    | with_reducible apply State.onRing_keeps
    | with_reducible apply State.setRing_keeps
    | with_reducible apply State.wildRing_keeps
    | refine State.Keeps.fst (by with_reducible assumption) ?_
    | refine State.Keeps.snd (by with_reducible assumption) ?_
    | refine State.Keeps.snd2 (by with_reducible assumption) ?_
    | refine State.Keeps.snd3 (by with_reducible assumption) ?_
    | split
    | with_reducible intro a_
    | dsimp only
    | with_reducible rfl
    | (simp_all; done)

theorem State.ringOn_keeps {s : State} {r : Nat} (h_s : s.Keeps F I o T) (f_regs : F .regs = true)
    (f_disp : F .disp = true) :
    (State.ringOn s r).Keeps F I o T := by
  unfold State.ringOn
  repeat' first
    | with_reducible assumption
    | with_reducible apply State.setRing_keeps
    | with_reducible apply State.setRingEn_keeps
    | split

theorem State.ringOff_keeps {s : State} {r : Nat} (h_s : s.Keeps F I o T) (f_regs : F .regs = true)
    (f_disp : F .disp = true) (f_mov : F .mov = true) (f_hi : F .hi = true) :
    (State.ringOff s r).Keeps F I o T := by
  unfold State.ringOff
  repeat' first
    | with_reducible assumption
    | with_reducible apply State.dropFetched_keeps
    | with_reducible apply State.setRingEn_keeps
    | split

theorem State.abortRing_keeps {s : State} {r : Nat} {slot : Nat} {all : Bool} (h_s : s.Keeps F I o T)
    (f_wild : F .wild = true) (f_disp : F .disp = true) (f_eng : F .eng = true) (f_arr : F .arr = true)
        (f_net : F .net = true) (f_mov : F .mov = true) (f_peer : F .peer = true) (f_porters : F .porters = true)
            (f_obs : F .obs = true) :
    (State.abortRing s r slot all).Keeps F I o T := by
  unfold State.abortRing
  repeat' first
    | with_reducible assumption
    | (with_reducible refine State.each_keeps ?_ fun _ _ _ => ?_)
    | with_reducible apply State.abortTask_keeps
    | split

theorem State.abortEvery_keeps {s : State} (h_s : s.Keeps F I o T) (f_wild : F .wild = true)
    (f_disp : F .disp = true) (f_eng : F .eng = true) (f_arr : F .arr = true) (f_net : F .net = true)
        (f_mov : F .mov = true) (f_peer : F .peer = true) (f_porters : F .porters = true) (f_obs : F .obs = true) :
    (State.abortEvery s).Keeps F I o T := by
  unfold State.abortEvery
  repeat' first
    | with_reducible assumption
    | (with_reducible refine State.each_keeps ?_ fun _ _ _ => ?_)
    | with_reducible apply State.abortRing_keeps
    | split

theorem State.startConn_keeps {s : State} {c : Nat} (h_s : s.Keeps F I o T) (f_peer : F .peer = true) :
    (State.startConn s c).Keeps F I o T := by
  unfold State.startConn
  repeat' first
    | with_reducible assumption
    | with_reducible apply State.setConn_keeps
    | split

theorem State.drainGo_keeps {s : State} {c n : Nat} (h_s : s.Keeps F I o T) (f_peer : F .peer = true) :
    (s.drainGo c n).Keeps F I o T := by
  induction n generalizing s with
  | zero => exact h_s
  | succ n ih =>
    unfold State.drainGo
    repeat' first
      | with_reducible assumption
      | with_reducible exact OutK.refused _
      | with_reducible apply OutK.next
      | with_reducible exact OptK.none
      | with_reducible apply OptK.some
      | with_reducible apply ih
      | with_reducible apply State.setPort_keeps
      | with_reducible apply State.setConn_keeps
      | refine State.Keeps.fst (by with_reducible assumption) ?_
      | refine State.Keeps.snd (by with_reducible assumption) ?_
      | refine State.Keeps.snd2 (by with_reducible assumption) ?_
      | refine State.Keeps.snd3 (by with_reducible assumption) ?_
      | split
      | with_reducible intro a_
      | dsimp only

theorem State.drainSeq_keeps {s : State} {c : Nat} (h_s : s.Keeps F I o T) (f_peer : F .peer = true) :
    (State.drainSeq s c).Keeps F I o T := by
  unfold State.drainSeq
  repeat' first
    | with_reducible assumption
    | with_reducible apply State.drainGo_keeps
    | split

theorem State.sendSeq_keeps {s : State} {c : Nat} {p : Sent} (h_s : s.Keeps F I o T) (f_peer : F .peer = true) :
    (State.sendSeq s c p).Keeps F I o T := by
  unfold State.sendSeq
  repeat' first
    | with_reducible assumption
    | with_reducible apply State.drainSeq_keeps
    | with_reducible apply State.setConn_keeps
    | split

theorem State.sendMover_keeps {s : State} {c : Nat} {p : Sent} (h_s : s.Keeps F I o T) (f_peer : F .peer = true) :
    (State.sendMover s c p).Keeps F I o T := by
  unfold State.sendMover
  repeat' first
    | with_reducible assumption
    | with_reducible apply State.sendSeq_keeps
    | with_reducible apply State.setConn_keeps
    | refine State.Keeps.fst (by with_reducible assumption) ?_
    | refine State.Keeps.snd (by with_reducible assumption) ?_
    | refine State.Keeps.snd2 (by with_reducible assumption) ?_
    | refine State.Keeps.snd3 (by with_reducible assumption) ?_
    | split
    | dsimp only

theorem State.sendRead_keeps {s : State} {c : Nat} {ch : Nat} {burst : Nat} {a : Nat} {p : Sent}
    (h_s : s.Keeps F I o T) (f_peer : F .peer = true) :
    (State.sendRead s c ch burst a p).Keeps F I o T := by
  unfold State.sendRead
  repeat' first
    | with_reducible assumption
    | with_reducible apply State.sendMover_keeps
    | with_reducible apply State.setConn_keeps
    | split

theorem State.sendDesc_keeps {s : State} {c : Nat} {ch : Nat} {a : Nat} {addr : Nat} (h_s : s.Keeps F I o T)
    (f_peer : F .peer = true) :
    (State.sendDesc s c ch a addr).Keeps F I o T := by
  unfold State.sendDesc
  repeat' first
    | with_reducible assumption
    | with_reducible apply State.sendSeq_keeps
    | with_reducible apply State.setConn_keeps
    | split

theorem State.fetchSlot_keeps {s : State} {r : Nat} {pos : Nat} (h_s : s.Keeps F I o T) (f_fresh : F .fresh = true)
    (f_notices : F .notices = true) (f_wild : F .wild = true) (f_disp : F .disp = true) (f_eng : F .eng = true)
        (f_arr : F .arr = true) (f_net : F .net = true) (f_mov : F .mov = true) (f_hi : F .hi = true)
            (f_peer : F .peer = true) (f_porters : F .porters = true) (f_obs : F .obs = true) :
    (State.fetchSlot s r pos).Keeps F I o T := by
  unfold State.fetchSlot
  repeat' first
    | with_reducible assumption
    | with_reducible apply State.readOut_keeps
    | with_reducible apply State.setRing_keeps
    | refine State.Keeps.fst (by with_reducible assumption) ?_
    | refine State.Keeps.snd (by with_reducible assumption) ?_
    | refine State.Keeps.snd2 (by with_reducible assumption) ?_
    | refine State.Keeps.snd3 (by with_reducible assumption) ?_
    | split
    | dsimp only

theorem State.admitUnread_keeps {s : State} {r : Nat} {slot : Nat} (h_s : s.Keeps F I o T) (f_disp : F .disp = true) :
    (State.admitUnread s r slot).Keeps F I o T := by
  unfold State.admitUnread
  repeat' first
    | with_reducible assumption
    | with_reducible apply State.drop_keeps
    | with_reducible apply State.newWork_keeps
    | with_reducible apply State.setRing_keeps
    | split

theorem State.admitTask_keeps {s : State} {r : Nat} {kind : TaskDesc → Bool} {ready : TaskDesc → Bool} {bad :
    TaskDesc → Bool} {start : Nat → TaskDesc → State → State} (h_s : s.Keeps F I o T)
        (h_start : ∀ a0 a1 a2, a2.Keeps F I o T → (start a0 a1 a2).Keeps F I o T) (f_fresh : F .fresh = true)
            (f_wild : F .wild = true) (f_disp : F .disp = true) (f_eng : F .eng = true) (f_arr : F .arr = true)
                (f_net : F .net = true) (f_mov : F .mov = true) (f_peer : F .peer = true)
                    (f_porters : F .porters = true) (f_obs : F .obs = true) :
    OutK F I o T (State.admitTask s r kind ready bad start) := by
  unfold State.admitTask
  repeat' first
    | with_reducible assumption
    | with_reducible exact OutK.refused _
    | with_reducible apply OutK.next
    | with_reducible apply State.admitUnread_keeps
    | with_reducible apply State.checkOverlap_keeps
    | with_reducible apply State.count_keeps
    | with_reducible apply State.modDisp_keeps
    | with_reducible apply State.newWork_keeps
    | with_reducible apply State.openWork_keeps
    | with_reducible apply State.setRing_keeps
    | with_reducible apply State.tally_keeps
    | with_reducible apply h_start
    | refine State.Keeps.fst (by with_reducible assumption) ?_
    | refine State.Keeps.snd (by with_reducible assumption) ?_
    | refine State.Keeps.snd2 (by with_reducible assumption) ?_
    | refine State.Keeps.snd3 (by with_reducible assumption) ?_
    | split
    | dsimp only

end Sys2Proof.Machine
end

