-- ==== Sys2Proof/Laws/KeepsWork.lean ====
section
/-! SUPPORT. What each operation of the dispatcher, the engines, the arrays and the packets may change, and what it
      keeps. -/

namespace Sys2Proof.Machine

open Sys2Proof

variable {F : Part → Bool} {I : Prop} {o : State} {T : List TileSt}

theorem State.takeShares_keeps {s : State} {w : Nat} {d : TaskDesc} (h_s : s.Keeps F I o T)
    (f_disp : F .disp = true) :
    (State.takeShares s w d).Keeps F I o T := by
  unfold State.takeShares
  repeat' first
    | with_reducible assumption
    | with_reducible apply State.modWork_keeps
    | split

theorem State.startGather_keeps {w : Nat} {d : TaskDesc} {s : State} (h_s : s.Keeps F I o T)
    (f_disp : F .disp = true) :
    (State.startGather w d s).Keeps F I o T := by
  unfold State.startGather
  repeat' first
    | with_reducible assumption
    | with_reducible apply State.modWork_keeps
    | with_reducible apply State.takeShares_keeps
    | refine State.Keeps.fst (by with_reducible assumption) ?_
    | refine State.Keeps.snd (by with_reducible assumption) ?_
    | refine State.Keeps.snd2 (by with_reducible assumption) ?_
    | refine State.Keeps.snd3 (by with_reducible assumption) ?_
    | split
    | dsimp only

theorem State.startArray_keeps {w : Nat} {n : Nat} {d : TaskDesc} {s : State} (h_s : s.Keeps F I o T)
    (f_disp : F .disp = true) :
    (State.startArray w n d s).Keeps F I o T := by
  unfold State.startArray
  repeat' first
    | with_reducible assumption
    | with_reducible apply State.count_keeps
    | with_reducible apply State.modWork_keeps
    | split

theorem State.tryQload_keeps {s : State} {w : Nat} (h_s : s.Keeps F I o T) (f_fresh : F .fresh = true)
    (f_notices : F .notices = true) (f_mem : F .mem = true) (f_wild : F .wild = true) (f_disp : F .disp = true)
        (f_eng : F .eng = true) (f_arr : F .arr = true) (f_net : F .net = true) (f_mov : F .mov = true)
            (f_hi : F .hi = true) (f_peer : F .peer = true) (f_porters : F .porters = true) (f_sk : F .sk = true)
                (f_obs : F .obs = true) :
    (State.tryQload s w).Keeps F I o T := by
  unfold State.tryQload
  try dsimp only
  repeat' first
    | with_reducible assumption
    | with_reducible apply State.modDisp_keeps
    | with_reducible apply State.setWork_keeps
    | with_reducible apply State.withBytes_keeps
    | refine State.Keeps.fst (by with_reducible assumption) ?_
    | refine State.Keeps.snd (by with_reducible assumption) ?_
    | refine State.Keeps.snd2 (by with_reducible assumption) ?_
    | refine State.Keeps.snd3 (by with_reducible assumption) ?_
    | split
    | with_reducible intro a_
    | dsimp only
    | with_reducible rfl
    | (simp_all; done)

theorem State.hostFlush_keeps {s : State} {w : Nat} {c : Nat} (h_s : s.Keeps F I o T) (f_disp : F .disp = true)
    (f_mov : F .mov = true) (f_hi : F .hi = true) (f_peer : F .peer = true) (f_porters : F .porters = true)
        (f_obs : F .obs = true) :
    (State.hostFlush s w c).Keeps F I o T := by
  unfold State.hostFlush
  repeat' first
    | with_reducible assumption
    | with_reducible apply State.ownQueued_keeps
    | with_reducible apply State.setHiChan_keeps
    | split

theorem State.issueFlushes_keeps {s : State} {w : Nat} (h_s : s.Keeps F I o T) (f_disp : F .disp = true)
    (f_net : F .net = true) (f_mov : F .mov = true) (f_hi : F .hi = true) (f_peer : F .peer = true)
        (f_porters : F .porters = true) (f_obs : F .obs = true) :
    (State.issueFlushes s w).Keeps F I o T := by
  unfold State.issueFlushes
  repeat' first
    | with_reducible assumption
    | (with_reducible refine State.each_keeps ?_ fun _ _ _ => ?_)
    | with_reducible apply State.hostFlush_keeps
    | with_reducible apply State.modWork_keeps
    | with_reducible apply State.ownQueued_keeps
    | with_reducible apply State.sendFlush_keeps
    | split

theorem State.acceptClass0_keeps {s : State} {page : Nat} {stream : Nat} {dom : Nat} {d : Doorbell}
    (h_s : s.Keeps F I o T) (f_fresh : F .fresh = true) (f_notices : F .notices = true) (f_disp : F .disp = true)
        (f_obs : F .obs = true) :
    (State.acceptClass0 s page stream dom d).Keeps F I o T := by
  unfold State.acceptClass0
  repeat' first
    | with_reducible assumption
    | with_reducible apply State.count_keeps
    | with_reducible apply State.modDisp_keeps
    | with_reducible apply State.newWork_keeps
    | with_reducible apply State.raise_keeps
    | with_reducible apply State.tally_keeps
    | refine State.Keeps.fst (by with_reducible assumption) ?_
    | refine State.Keeps.snd (by with_reducible assumption) ?_
    | refine State.Keeps.snd2 (by with_reducible assumption) ?_
    | refine State.Keeps.snd3 (by with_reducible assumption) ?_
    | split
    | dsimp only

theorem State.wildClass0_keeps {s : State} {page : Nat} {stream : Nat} {dom : Nat} {d : Doorbell} {bad : Bool}
    (h_s : s.Keeps F I o T) (f_fresh : F .fresh = true) (f_notices : F .notices = true) (f_wild : F .wild = true)
        (f_disp : F .disp = true) (f_eng : F .eng = true) (f_arr : F .arr = true) (f_net : F .net = true)
            (f_mov : F .mov = true) (f_peer : F .peer = true) (f_porters : F .porters = true)
                (f_obs : F .obs = true) :
    (State.wildClass0 s page stream dom d bad).Keeps F I o T := by
  unfold State.wildClass0
  repeat' first
    | with_reducible assumption
    | with_reducible apply State.acceptClass0_keeps
    | with_reducible apply State.draw_keeps
    | with_reducible apply State.openBytes_keeps
    | with_reducible apply State.openWork_keeps
    | refine State.Keeps.fst (by with_reducible assumption) ?_
    | refine State.Keeps.snd (by with_reducible assumption) ?_
    | refine State.Keeps.snd2 (by with_reducible assumption) ?_
    | refine State.Keeps.snd3 (by with_reducible assumption) ?_
    | split
    | dsimp only

theorem State.class0Write_keeps {s : State} {page : Nat} {bytes : Bytes} {score : Bool} (h_s : s.Keeps F I o T)
    (f_fresh : F .fresh = true) (f_notices : F .notices = true) (f_wild : F .wild = true) (f_disp : F .disp = true)
        (f_eng : F .eng = true) (f_arr : F .arr = true) (f_net : F .net = true) (f_mov : F .mov = true)
            (f_peer : F .peer = true) (f_porters : F .porters = true) (f_obs : F .obs = true) :
    (State.class0Write s page bytes score).Keeps F I o T := by
  unfold State.class0Write
  repeat' first
    | with_reducible assumption
    | with_reducible apply State.acceptClass0_keeps
    | with_reducible apply State.checkOverlap_keeps
    | with_reducible apply State.dbIgnored_keeps
    | with_reducible apply State.drawBytes_keeps
    | with_reducible apply State.wildClass0_keeps
    | with_reducible apply State.wildRing_keeps
    | refine State.Keeps.fst (by with_reducible assumption) ?_
    | refine State.Keeps.snd (by with_reducible assumption) ?_
    | refine State.Keeps.snd2 (by with_reducible assumption) ?_
    | refine State.Keeps.snd3 (by with_reducible assumption) ?_
    | split
    | dsimp only

theorem State.overflowLeave_keeps {s : State} {stream : Nat} (h_s : s.Keeps F I o T) (f_disp : F .disp = true) :
    (State.overflowLeave s stream).Keeps F I o T := by
  unfold State.overflowLeave
  repeat' first
    | with_reducible assumption
    | with_reducible apply State.modDisp_keeps
    | refine State.Keeps.fst (by with_reducible assumption) ?_
    | refine State.Keeps.snd (by with_reducible assumption) ?_
    | refine State.Keeps.snd2 (by with_reducible assumption) ?_
    | refine State.Keeps.snd3 (by with_reducible assumption) ?_
    | split
    | dsimp only

theorem State.stream_keeps {s : State} {w : Nat} {op : Nat} {f : Share → List Nat → Nat → Option Share}
    (h_s : s.Keeps F I o T) (f_fresh : F .fresh = true) (f_wild : F .wild = true) (f_disp : F .disp = true)
        (f_eng : F .eng = true) (f_arr : F .arr = true) (f_net : F .net = true) (f_mov : F .mov = true)
            (f_peer : F .peer = true) (f_porters : F .porters = true) (f_obs : F .obs = true) :
    OutK F I o T (State.stream s w op f) := by
  unfold State.stream
  repeat' first
    | with_reducible assumption
    | with_reducible exact OutK.refused _
    | with_reducible apply OutK.next
    | with_reducible apply State.openWork_keeps
    | with_reducible apply State.setShare_keeps
    | refine State.Keeps.fst (by with_reducible assumption) ?_
    | refine State.Keeps.snd (by with_reducible assumption) ?_
    | refine State.Keeps.snd2 (by with_reducible assumption) ?_
    | refine State.Keeps.snd3 (by with_reducible assumption) ?_
    | split
    | dsimp only

theorem State.reportEvict_keeps {s : State} {pos : Nat} {a : Nat} (h_s : s.Keeps F I o T) (f_net : F .net = true) :
    (State.reportEvict s pos a).Keeps F I o T := by
  unfold State.reportEvict
  repeat' first
    | with_reducible assumption
    | with_reducible apply State.sendCtl_keeps
    | split

theorem State.cacheFill_keeps {s : State} {pos : Nat} {n : CacheEnt} (h_s : s.Keeps F I o T) (f_eng : F .eng = true)
    (f_net : F .net = true) :
    (State.cacheFill s pos n).Keeps F I o T := by
  unfold State.cacheFill
  repeat' first
    | with_reducible assumption
    | with_reducible apply State.reportEvict_keeps
    | with_reducible apply State.setEngine_keeps
    | refine State.Keeps.fst (by with_reducible assumption) ?_
    | refine State.Keeps.snd (by with_reducible assumption) ?_
    | refine State.Keeps.snd2 (by with_reducible assumption) ?_
    | refine State.Keeps.snd3 (by with_reducible assumption) ?_
    | split
    | dsimp only

theorem State.cacheDrop_keeps {s : State} {pos : Nat} {f : CacheEnt → Bool} (h_s : s.Keeps F I o T)
    (f_eng : F .eng = true) (f_net : F .net = true) :
    (State.cacheDrop s pos f).Keeps F I o T := by
  unfold State.cacheDrop
  repeat' first
    | with_reducible assumption
    | (with_reducible refine State.each_keeps ?_ fun _ _ _ => ?_)
    | with_reducible apply State.reportEvict_keeps
    | with_reducible apply State.setEngine_keeps
    | refine State.Keeps.fst (by with_reducible assumption) ?_
    | refine State.Keeps.snd (by with_reducible assumption) ?_
    | refine State.Keeps.snd2 (by with_reducible assumption) ?_
    | refine State.Keeps.snd3 (by with_reducible assumption) ?_
    | split
    | dsimp only

theorem State.writePlaced_keeps {s : State} {pos : Nat} {block : Nat} {td : TableDesc} {img : Bytes}
    (h_s : s.Keeps F I o T) (f_mem : F .mem = true) :
    (State.writePlaced s pos block td img).Keeps F I o T := by
  unfold State.writePlaced
  repeat' first
    | with_reducible assumption
    | with_reducible apply State.drop_keeps
    | with_reducible apply State.store_keeps
    | split

theorem State.deliver_keeps {s : State} {tag : Nat} {data : Option Bytes} {cacheable : Bool} (h_s : s.Keeps F I o T)
    (f_eng : F .eng = true) (f_net : F .net = true) (f_obs : F .obs = true) :
    (State.deliver s tag data cacheable).Keeps F I o T := by
  unfold State.deliver
  repeat' first
    | with_reducible assumption
    | with_reducible apply State.cacheFill_keeps
    | with_reducible apply State.countTile_keeps
    | with_reducible apply State.setEngine_keeps
    | refine State.Keeps.fst (by with_reducible assumption) ?_
    | refine State.Keeps.snd (by with_reducible assumption) ?_
    | refine State.Keeps.snd2 (by with_reducible assumption) ?_
    | refine State.Keeps.snd3 (by with_reducible assumption) ?_
    | split
    | dsimp only

theorem State.takeSlot_keeps {s : State} {w : Nat} {k : Work} {bag : Nat} {idx : Nat} {pos : Nat} {wt : Option
    Weight} {r : RowReq} {place : Place} (h_s : s.Keeps F I o T) (f_fresh : F .fresh = true) (f_eng : F .eng = true)
        (f_net : F .net = true) (f_mov : F .mov = true) (f_obs : F .obs = true) :
    (State.takeSlot s w k bag idx pos wt r place).Keeps F I o T := by
  unfold State.takeSlot
  repeat' first
    | with_reducible assumption
    | with_reducible apply State.countTile_keeps
    | with_reducible apply State.deliver_keeps
    | with_reducible apply State.modMov_keeps
    | with_reducible apply State.queueMsg_keeps
    | with_reducible apply State.setEngine_keeps
    | with_reducible apply State.tally_keeps
    | refine State.Keeps.fst (by with_reducible assumption) ?_
    | refine State.Keeps.snd (by with_reducible assumption) ?_
    | refine State.Keeps.snd2 (by with_reducible assumption) ?_
    | refine State.Keeps.snd3 (by with_reducible assumption) ?_
    | split
    | dsimp only

theorem State.wakeEngine_keeps {s : State} {pos : Nat} {cls : Nat} (h_s : s.Keeps F I o T) (f_eng : F .eng = true) :
    (State.wakeEngine s pos cls).Keeps F I o T := by
  unfold State.wakeEngine
  repeat' first
    | with_reducible assumption
    | with_reducible apply State.rampFrom0_keeps
    | refine State.Keeps.fst (by with_reducible assumption) ?_
    | refine State.Keeps.snd (by with_reducible assumption) ?_
    | refine State.Keeps.snd2 (by with_reducible assumption) ?_
    | refine State.Keeps.snd3 (by with_reducible assumption) ?_
    | split
    | dsimp only

theorem State.issueRows_keeps {s : State} {w : Nat} {k : Work} {bag : Nat} {idx : Nat} {pos : Nat} {wt : Option
    Weight} {rs : List RowReq} (h_s : s.Keeps F I o T) (f_fresh : F .fresh = true) (f_notices : F .notices = true)
        (f_mem : F .mem = true) (f_disp : F .disp = true) (f_eng : F .eng = true) (f_net : F .net = true)
            (f_mov : F .mov = true) (f_sk : F .sk = true) (f_obs : F .obs = true) :
    (State.issueRows s w k bag idx pos wt rs).1.Keeps F I o T := by
  unfold State.issueRows
  repeat' first
    | with_reducible assumption
    | (with_reducible refine State.each_keeps ?_ fun _ _ _ => ?_)
    | with_reducible apply State.count_keeps
    | with_reducible apply State.park_keeps
    | with_reducible apply State.takeSlot_keeps
    | refine State.Keeps.fst (by with_reducible assumption) ?_
    | refine State.Keeps.snd (by with_reducible assumption) ?_
    | refine State.Keeps.snd2 (by with_reducible assumption) ?_
    | refine State.Keeps.snd3 (by with_reducible assumption) ?_
    | split
    | dsimp only

theorem State.emitRecord_keeps {s : State} {pos : Nat} {r : MergeRow} (h_s : s.Keeps F I o T)
    (f_disp : F .disp = true) (f_net : F .net = true) (f_obs : F .obs = true) :
    (State.emitRecord s pos r).Keeps F I o T := by
  unfold State.emitRecord
  repeat' first
    | with_reducible assumption
    | with_reducible apply State.countTile_keeps
    | with_reducible apply State.sendCtl_keeps
    | with_reducible apply State.served_keeps
    | with_reducible apply State.setScatter_keeps
    | refine State.Keeps.fst (by with_reducible assumption) ?_
    | refine State.Keeps.snd (by with_reducible assumption) ?_
    | refine State.Keeps.snd2 (by with_reducible assumption) ?_
    | refine State.Keeps.snd3 (by with_reducible assumption) ?_
    | split
    | dsimp only

theorem State.mergeRoom_keeps {s : State} {pos need n : Nat} (h_s : s.Keeps F I o T) (f_fresh : F .fresh = true)
    (f_disp : F .disp = true) (f_eng : F .eng = true) (f_net : F .net = true) (f_obs : F .obs = true) :
        (s.mergeRoom pos need n).Keeps F I o T := by
  induction n generalizing s with
  | zero => exact h_s
  | succ n ih =>
    unfold State.mergeRoom
    repeat' first
      | with_reducible assumption
      | with_reducible exact OutK.refused _
      | with_reducible apply OutK.next
      | with_reducible exact OptK.none
      | with_reducible apply OptK.some
      | with_reducible apply ih
      | with_reducible apply State.emitRecord_keeps
      | with_reducible apply State.tally_keeps
      | with_reducible apply State.setEngine_keeps
      | refine State.Keeps.fst (by with_reducible assumption) ?_
      | refine State.Keeps.snd (by with_reducible assumption) ?_
      | refine State.Keeps.snd2 (by with_reducible assumption) ?_
      | refine State.Keeps.snd3 (by with_reducible assumption) ?_
      | split
      | with_reducible intro a_
      | dsimp only

theorem State.mergeAdd_keeps {s : State} {pos : Nat} {slot : Nat} {epoch : Nat} {a : Nat} {table : Nat} {g : List
    Nat} (h_s : s.Keeps F I o T) (f_fresh : F .fresh = true) (f_disp : F .disp = true) (f_eng : F .eng = true)
        (f_net : F .net = true) (f_obs : F .obs = true) :
    (State.mergeAdd s pos slot epoch a table g).Keeps F I o T := by
  unfold State.mergeAdd
  repeat' first
    | with_reducible assumption
    | with_reducible apply State.mergeRoom_keeps
    | with_reducible apply State.setEngine_keeps
    | refine State.Keeps.fst (by with_reducible assumption) ?_
    | refine State.Keeps.snd (by with_reducible assumption) ?_
    | refine State.Keeps.snd2 (by with_reducible assumption) ?_
    | refine State.Keeps.snd3 (by with_reducible assumption) ?_
    | split
    | dsimp only

theorem State.bagResolved_keeps {s : State} {w : Nat} {sh : Share} {td : TableDesc} {r : Range}
    (h_s : s.Keeps F I o T) (f_fresh : F .fresh = true) (f_notices : F .notices = true) (f_mem : F .mem = true)
        (f_wild : F .wild = true) (f_disp : F .disp = true) (f_eng : F .eng = true) (f_arr : F .arr = true)
            (f_net : F .net = true) (f_mov : F .mov = true) (f_hi : F .hi = true) (f_peer : F .peer = true)
                (f_porters : F .porters = true) (f_sk : F .sk = true) (f_obs : F .obs = true) :
    (s.bagResolved w sh td r).2.2.Keeps F I o T := by
  unfold State.bagResolved
  refine foldl_keeps (fun acc : Found × List Resolved × State => acc.2.2.Keeps F I o T) _ _ _ h_s fun acc _ h => ?_
  repeat' first
      | with_reducible assumption
      | with_reducible exact OutK.refused _
      | with_reducible apply OutK.next
      | with_reducible exact OptK.none
      | with_reducible apply OptK.some
      | with_reducible apply State.readIndex_keeps
      | refine State.Keeps.fst (by with_reducible assumption) ?_
      | refine State.Keeps.snd (by with_reducible assumption) ?_
      | refine State.Keeps.snd2 (by with_reducible assumption) ?_
      | refine State.Keeps.snd3 (by with_reducible assumption) ?_
      | split
      | with_reducible intro a_
      | dsimp only

theorem State.gradientOf_keeps {s : State} {w : Nat} {sh : Share} {td : TableDesc} {lb : Nat} {r : Range} {i : Nat}
    {wt : Option Weight} (h_s : s.Keeps F I o T) (f_fresh : F .fresh = true) (f_notices : F .notices = true)
        (f_mem : F .mem = true) (f_wild : F .wild = true) (f_disp : F .disp = true) (f_eng : F .eng = true)
            (f_arr : F .arr = true) (f_net : F .net = true) (f_mov : F .mov = true) (f_hi : F .hi = true)
                (f_peer : F .peer = true) (f_porters : F .porters = true) (f_sk : F .sk = true)
                    (f_obs : F .obs = true) :
    (State.gradientOf s w sh td lb r i wt).2.2.Keeps F I o T := by
  unfold State.gradientOf
  repeat' first
    | with_reducible assumption
    | with_reducible apply State.bagResolved_keeps
    | with_reducible apply State.denied_keeps
    | with_reducible apply State.workRead_keeps
    | refine State.Keeps.fst (by with_reducible assumption) ?_
    | refine State.Keeps.snd (by with_reducible assumption) ?_
    | refine State.Keeps.snd2 (by with_reducible assumption) ?_
    | refine State.Keeps.snd3 (by with_reducible assumption) ?_
    | split
    | dsimp only

theorem State.bagRef_keeps {s : State} {w : Nat} {b : Nat} (h_s : s.Keeps F I o T) (f_fresh : F .fresh = true)
    (f_notices : F .notices = true) (f_mem : F .mem = true) (f_wild : F .wild = true) (f_disp : F .disp = true)
        (f_eng : F .eng = true) (f_arr : F .arr = true) (f_net : F .net = true) (f_mov : F .mov = true)
            (f_hi : F .hi = true) (f_peer : F .peer = true) (f_porters : F .porters = true) (f_sk : F .sk = true)
                (f_obs : F .obs = true) :
    OptK F I o T (fun r => r.2) (State.bagRef s w b) := by
  unfold State.bagRef
  repeat' first
    | with_reducible assumption
    | with_reducible exact OptK.none
    | with_reducible apply OptK.some
    | with_reducible apply State.readRanges_keeps
    | refine State.Keeps.fst (by with_reducible assumption) ?_
    | refine State.Keeps.snd (by with_reducible assumption) ?_
    | refine State.Keeps.snd2 (by with_reducible assumption) ?_
    | refine State.Keeps.snd3 (by with_reducible assumption) ?_
    | refine OptK.of (by with_reducible assumption) ?_
    | refine OptK.of1 (by with_reducible assumption) ?_
    | refine OptK.of3 (by with_reducible assumption) ?_
    | split
    | dsimp only

theorem State.modBag_keeps {s : State} {w : Nat} {b : Nat} {f : Bag → Bag} (h_s : s.Keeps F I o T)
    (f_disp : F .disp = true) :
    (State.modBag s w b f).Keeps F I o T := by
  unfold State.modBag
  repeat' first
    | with_reducible assumption
    | with_reducible apply State.modWork_keeps
    | split

theorem State.takeSpace_keeps {s : State} {w : Nat} {b : Nat} (h_s : s.Keeps F I o T) (f_disp : F .disp = true)
    (f_arr : F .arr = true) :
    (State.takeSpace s w b).1.Keeps F I o T := by
  unfold State.takeSpace
  repeat' first
    | with_reducible assumption
    | with_reducible apply State.modBag_keeps
    | with_reducible apply State.setSem_keeps
    | split

theorem State.markIssued_keeps {s : State} {w : Nat} {p : Nat} (h_s : s.Keeps F I o T) (f_disp : F .disp = true) :
    (State.markIssued s w p).Keeps F I o T := by
  unfold State.markIssued
  repeat' first
    | with_reducible assumption
    | with_reducible apply State.setScatter_keeps
    | split

theorem State.noteTaken_keeps {s : State} {w : Nat} {b : Nat} {t : Taken} (h_s : s.Keeps F I o T)
    (f_disp : F .disp = true) :
    (State.noteTaken s w b t).Keeps F I o T := by
  unfold State.noteTaken
  repeat' first
    | with_reducible assumption
    | with_reducible apply State.modWork_keeps
    | with_reducible apply State.tally_keeps
    | split

theorem State.tallyDrop_keeps {s : State} {pos : Nat} {table : Nat} {res : Resolved} (h_s : s.Keeps F I o T)
    (f_fresh : F .fresh = true) (f_obs : F .obs = true) :
    (State.tallyDrop s pos table res).Keeps F I o T := by
  unfold State.tallyDrop
  repeat' first
    | with_reducible assumption
    | with_reducible apply State.tally_keeps
    | split

theorem State.tileStarts_keeps {s : State} {w : Nat} {pos : Nat} (h_s : s.Keeps F I o T) (f_fresh : F .fresh = true)
    (f_disp : F .disp = true) (f_obs : F .obs = true) :
    (State.tileStarts s w pos).Keeps F I o T := by
  unfold State.tileStarts
  repeat' first
    | with_reducible assumption
    | with_reducible apply State.unitStarts_keeps
    | split

theorem State.noteIndex_keeps {s : State} {w : Nat} {b : Nat} {g : BagRef} {steer : List (Nat × Nat)} {t : Taken}
    (h_s : s.Keeps F I o T) (f_fresh : F .fresh = true) (f_disp : F .disp = true) (f_obs : F .obs = true) :
    (State.noteIndex s w b g steer t).Keeps F I o T := by
  unfold State.noteIndex
  repeat' first
    | with_reducible assumption
    | with_reducible apply State.markIssued_keeps
    | with_reducible apply State.modBag_keeps
    | with_reducible apply State.noteTaken_keeps
    | with_reducible apply State.tallyDrop_keeps
    | with_reducible apply State.tileStarts_keeps
    | split

theorem State.mergeAll_keeps {s : State} {pos : Nat} {slot : Nat} {epoch : Nat} {gs : List (Nat × Nat × List Nat)}
    (h_s : s.Keeps F I o T) (f_fresh : F .fresh = true) (f_disp : F .disp = true) (f_eng : F .eng = true)
        (f_net : F .net = true) (f_obs : F .obs = true) :
    (State.mergeAll s pos slot epoch gs).Keeps F I o T := by
  unfold State.mergeAll
  repeat' first
    | with_reducible assumption
    | (with_reducible refine State.each_keeps ?_ fun _ _ _ => ?_)
    | with_reducible apply State.mergeAdd_keeps
    | split

theorem State.issueIndex_keeps {s : State} {w : Nat} {b : Nat} {g : BagRef} {p : Nat} {x : Nat} {wt : Option Weight}
    (h_s : s.Keeps F I o T) (f_fresh : F .fresh = true) (f_notices : F .notices = true) (f_mem : F .mem = true)
        (f_wild : F .wild = true) (f_disp : F .disp = true) (f_eng : F .eng = true) (f_arr : F .arr = true)
            (f_net : F .net = true) (f_mov : F .mov = true) (f_hi : F .hi = true) (f_peer : F .peer = true)
                (f_porters : F .porters = true) (f_sk : F .sk = true) (f_obs : F .obs = true) :
    OutK F I o T (State.issueIndex s w b g p x wt) := by
  unfold State.issueIndex
  try dsimp only
  repeat' first
    | with_reducible assumption
    | with_reducible exact OutK.refused _
    | with_reducible apply OutK.next
    | with_reducible apply State.denied_keeps
    | with_reducible apply State.endWork_keeps
    | with_reducible apply State.gradientOf_keeps
    | with_reducible apply State.issueRows_keeps
    | with_reducible apply State.mergeAll_keeps
    | with_reducible apply State.noteIndex_keeps
    | with_reducible apply State.openWork_keeps
    | with_reducible apply State.park_keeps
    | with_reducible apply State.wakeEngine_keeps
    | refine State.Keeps.fst (by with_reducible assumption) ?_
    | refine State.Keeps.snd (by with_reducible assumption) ?_
    | refine State.Keeps.snd2 (by with_reducible assumption) ?_
    | refine State.Keeps.snd3 (by with_reducible assumption) ?_
    | split
    | with_reducible intro a_
    | dsimp only
    | with_reducible rfl
    | (simp_all; done)

theorem State.takeSel_keeps {s : State} {w : Nat} {b : Nat} {a : Nat} {k : Nat} {cls : Nat} (h_s : s.Keeps F I o T)
    (f_arr : F .arr = true) :
    (State.takeSel s w b a k cls).1.Keeps F I o T := by
  unfold State.takeSel
  repeat' first
    | with_reducible assumption
    | with_reducible apply State.setArray_keeps
    | with_reducible refine foldl_keeps (fun acc => State.Keeps acc F I o T) _ _ _ ?_ fun _ _ _ => ?_
    | with_reducible refine foldl_keeps (fun acc => State.Keeps acc.1 F I o T) _ _ _ ?_ fun _ _ _ => ?_
    | with_reducible refine foldl_keeps (fun acc => State.Keeps acc.2 F I o T) _ _ _ ?_ fun _ _ _ => ?_
    | with_reducible refine foldl_keeps (fun acc => State.Keeps acc.2.2 F I o T) _ _ _ ?_ fun _ _ _ => ?_
    | refine State.Keeps.fst (by with_reducible assumption) ?_
    | refine State.Keeps.snd (by with_reducible assumption) ?_
    | refine State.Keeps.snd2 (by with_reducible assumption) ?_
    | refine State.Keeps.snd3 (by with_reducible assumption) ?_
    | split
    | dsimp only

theorem State.productGrads_keeps {s : State} {w : Nat} {b : Nat} {pos : Nat} {p : Nat} (h_s : s.Keeps F I o T)
    (f_fresh : F .fresh = true) (f_disp : F .disp = true) (f_eng : F .eng = true) (f_net : F .net = true)
        (f_obs : F .obs = true) :
    (State.productGrads s w b pos p).Keeps F I o T := by
  unfold State.productGrads
  repeat' first
    | with_reducible assumption
    | with_reducible apply State.mergeAll_keeps
    | refine State.Keeps.fst (by with_reducible assumption) ?_
    | refine State.Keeps.snd (by with_reducible assumption) ?_
    | refine State.Keeps.snd2 (by with_reducible assumption) ?_
    | refine State.Keeps.snd3 (by with_reducible assumption) ?_
    | split
    | dsimp only

theorem State.arrive_keeps {s : State} {f : FSlot} {pos : Nat} {row : RowVal} (h_s : s.Keeps F I o T)
    (f_fresh : F .fresh = true) (f_disp : F .disp = true) (f_eng : F .eng = true) (f_arr : F .arr = true)
        (f_net : F .net = true) (f_obs : F .obs = true) :
    (State.arrive s f pos row).Keeps F I o T := by
  unfold State.arrive
  repeat' first
    | with_reducible assumption
    | with_reducible apply State.modBag_keeps
    | with_reducible apply State.productGrads_keeps
    | with_reducible apply State.syncLinks_keeps
    | split

theorem State.checkSum_keeps {s : State} {f : FSlot} {td : TableDesc} {row : RowVal} (h_s : s.Keeps F I o T)
    (f_wild : F .wild = true) :
    (State.checkSum s f td row).Keeps F I o T := by
  unfold State.checkSum
  repeat' first
    | with_reducible assumption
    | with_reducible apply State.openBytes_keeps
    | with_reducible apply State.openDests_keeps
    | split

theorem State.sendPacket_keeps {s : State} {w : Nat} {bag : Nat} {cls : Nat} {arrays : List Nat} {b : Bytes}
    (h_s : s.Keeps F I o T) (f_disp : F .disp = true) (f_arr : F .arr = true) :
    (State.sendPacket s w bag cls arrays b).Keeps F I o T := by
  unfold State.sendPacket
  repeat' first
    | with_reducible assumption
    | with_reducible apply State.modBag_keeps
    | with_reducible apply State.modMcast_keeps
    | split

theorem State.takePackets_keeps {s : State} {a : Nat} {cls : Nat} (h_s : s.Keeps F I o T) (f_disp : F .disp = true)
    (f_arr : F .arr = true) (f_obs : F .obs = true) :
    (State.takePackets s a cls).Keeps F I o T := by
  unfold State.takePackets
  repeat' first
    | with_reducible assumption
    | (with_reducible refine State.each_keeps ?_ fun _ _ _ => ?_)
    | with_reducible apply State.count_keeps
    | with_reducible apply State.modBag_keeps
    | with_reducible apply State.modMcast_keeps
    | split

theorem State.inputs_keeps {s : State} {w : Nat} {d : TaskDesc} {b n : Nat} (h_s : s.Keeps F I o T)
    (f_fresh : F .fresh = true) (f_notices : F .notices = true) (f_mem : F .mem = true) (f_wild : F .wild = true)
        (f_disp : F .disp = true) (f_eng : F .eng = true) (f_arr : F .arr = true) (f_net : F .net = true)
            (f_mov : F .mov = true) (f_hi : F .hi = true) (f_peer : F .peer = true) (f_porters : F .porters = true)
                (f_sk : F .sk = true) (f_obs : F .obs = true) :
    (s.inputs w d b n).2.Keeps F I o T := by
  unfold State.inputs
  dsimp only
  split
  · exact h_s
  refine foldl_keeps (fun acc : Option (List RowVal) × State => acc.2.Keeps F I o T) _ _ _ h_s fun acc _ h => ?_
  repeat' first
      | with_reducible assumption
      | with_reducible exact OutK.refused _
      | with_reducible apply OutK.next
      | with_reducible exact OptK.none
      | with_reducible apply OptK.some
      | with_reducible apply State.workRead_keeps
      | with_reducible apply State.endWork_keeps
      | refine State.Keeps.fst (by with_reducible assumption) ?_
      | refine State.Keeps.snd (by with_reducible assumption) ?_
      | refine State.Keeps.snd2 (by with_reducible assumption) ?_
      | refine State.Keeps.snd3 (by with_reducible assumption) ?_
      | split
      | with_reducible intro a_
      | dsimp only

theorem State.inputsOf_keeps {s : State} {w : Nat} {d : TaskDesc} {n : Nat} {bs : List Nat} (h_s : s.Keeps F I o T)
    (f_fresh : F .fresh = true) (f_notices : F .notices = true) (f_mem : F .mem = true) (f_wild : F .wild = true)
        (f_disp : F .disp = true) (f_eng : F .eng = true) (f_arr : F .arr = true) (f_net : F .net = true)
            (f_mov : F .mov = true) (f_hi : F .hi = true) (f_peer : F .peer = true) (f_porters : F .porters = true)
                (f_sk : F .sk = true) (f_obs : F .obs = true) :
    (s.inputsOf w d n bs).2.Keeps F I o T := by
  unfold State.inputsOf
  refine foldl_keeps (fun acc : Option (List (Nat × List RowVal)) × State => acc.2.Keeps F I o T) _ _ _ h_s fun acc
      _ h => ?_
  repeat' first
      | with_reducible assumption
      | with_reducible exact OutK.refused _
      | with_reducible apply OutK.next
      | with_reducible exact OptK.none
      | with_reducible apply OptK.some
      | with_reducible apply State.inputs_keeps
      | refine State.Keeps.fst (by with_reducible assumption) ?_
      | refine State.Keeps.snd (by with_reducible assumption) ?_
      | refine State.Keeps.snd2 (by with_reducible assumption) ?_
      | refine State.Keeps.snd3 (by with_reducible assumption) ?_
      | split
      | with_reducible intro a_
      | dsimp only

theorem State.enterBatch_keeps {s : State} {w : Nat} {first : Nat} {n : Nat} {arr : Nat} {vs : List
    (Nat × List RowVal)} (h_s : s.Keeps F I o T) (f_disp : F .disp = true) (f_arr : F .arr = true) :
    (State.enterBatch s w first n arr vs).Keeps F I o T := by
  unfold State.enterBatch
  repeat' first
    | with_reducible assumption
    | (with_reducible refine State.each_keeps ?_ fun _ _ _ => ?_)
    | with_reducible apply State.modBag_keeps
    | with_reducible apply State.modBatches_keeps
    | split

theorem State.dealBatches_keeps {s : State} {p : ProjSet} (h_s : s.Keeps F I o T) (f_fresh : F .fresh = true)
    (f_notices : F .notices = true) (f_mem : F .mem = true) (f_wild : F .wild = true) (f_disp : F .disp = true)
        (f_eng : F .eng = true) (f_arr : F .arr = true) (f_net : F .net = true) (f_mov : F .mov = true)
            (f_hi : F .hi = true) (f_peer : F .peer = true) (f_porters : F .porters = true) (f_sk : F .sk = true)
                (f_obs : F .obs = true) :
    (State.dealBatches s p).Keeps F I o T := by
  unfold State.dealBatches
  repeat' first
    | with_reducible assumption
    | (with_reducible refine State.each_keeps ?_ fun _ _ _ => ?_)
    | with_reducible apply State.enterBatch_keeps
    | with_reducible apply State.inputsOf_keeps
    | refine State.Keeps.fst (by with_reducible assumption) ?_
    | refine State.Keeps.snd (by with_reducible assumption) ?_
    | refine State.Keeps.snd2 (by with_reducible assumption) ?_
    | refine State.Keeps.snd3 (by with_reducible assumption) ?_
    | split
    | dsimp only

theorem State.batchStep_keeps {s : State} {p : ProjSet} {turn : Nat} {b : Batch} (h_s : s.Keeps F I o T)
    (f_fresh : F .fresh = true) (f_disp : F .disp = true) (f_arr : F .arr = true) (f_obs : F .obs = true) :
    (State.batchStep s p turn b).Keeps F I o T := by
  unfold State.batchStep
  repeat' first
    | with_reducible assumption
    | (with_reducible refine State.each_keeps ?_ fun _ _ _ => ?_)
    | with_reducible apply State.count_keeps
    | with_reducible apply State.countN_keeps
    | with_reducible apply State.modBag_keeps
    | with_reducible apply State.modBatches_keeps
    | with_reducible apply State.unitStarts_keeps
    | split

theorem State.channelRange_keeps {s : State} {w : Nat} {d : TaskDesc} {n : Nat} (h_s : s.Keeps F I o T)
    (f_fresh : F .fresh = true) (f_notices : F .notices = true) (f_mem : F .mem = true) (f_wild : F .wild = true)
        (f_disp : F .disp = true) (f_eng : F .eng = true) (f_arr : F .arr = true) (f_net : F .net = true)
            (f_mov : F .mov = true) (f_hi : F .hi = true) (f_peer : F .peer = true) (f_porters : F .porters = true)
                (f_sk : F .sk = true) (f_obs : F .obs = true) :
    (s.channelRange w d n).2.2.Keeps F I o T := by
  unfold State.channelRange
  refine foldl_keeps (fun acc : Found × List (Nat × Nat) × State => acc.2.2.Keeps F I o T) _ _ _ h_s fun acc _ h => ?_
  repeat' first
      | with_reducible assumption
      | with_reducible exact OutK.refused _
      | with_reducible apply OutK.next
      | with_reducible exact OptK.none
      | with_reducible apply OptK.some
      | with_reducible apply State.workRead_keeps
      | refine State.Keeps.fst (by with_reducible assumption) ?_
      | refine State.Keeps.snd (by with_reducible assumption) ?_
      | refine State.Keeps.snd2 (by with_reducible assumption) ?_
      | refine State.Keeps.snd3 (by with_reducible assumption) ?_
      | split
      | with_reducible intro a_
      | dsimp only

theorem State.scales_keeps {s : State} {w : Nat} {d : TaskDesc} {n : Nat} (h_s : s.Keeps F I o T)
    (f_fresh : F .fresh = true) (f_notices : F .notices = true) (f_mem : F .mem = true) (f_wild : F .wild = true)
        (f_disp : F .disp = true) (f_eng : F .eng = true) (f_arr : F .arr = true) (f_net : F .net = true)
            (f_mov : F .mov = true) (f_hi : F .hi = true) (f_peer : F .peer = true) (f_porters : F .porters = true)
                (f_sk : F .sk = true) (f_obs : F .obs = true) :
    (State.scales s w d n).2.2.Keeps F I o T := by
  unfold State.scales
  repeat' first
    | with_reducible assumption
    | with_reducible apply State.channelRange_keeps
    | split

theorem State.requantPacket_keeps {s : State} {w : Nat} {d : TaskDesc} {pf : FFmt} {v : List Nat} {pooled : Nat}
    {empty : Bool} {cut : Bool} (h_s : s.Keeps F I o T) (f_fresh : F .fresh = true) (f_notices : F .notices = true)
        (f_mem : F .mem = true) (f_wild : F .wild = true) (f_disp : F .disp = true) (f_eng : F .eng = true)
            (f_arr : F .arr = true) (f_net : F .net = true) (f_mov : F .mov = true) (f_hi : F .hi = true)
                (f_peer : F .peer = true) (f_porters : F .porters = true) (f_sk : F .sk = true)
                    (f_obs : F .obs = true) :
    (State.requantPacket s w d pf v pooled empty cut).2.Keeps F I o T := by
  unfold State.requantPacket
  repeat' first
    | with_reducible assumption
    | with_reducible apply State.denied_keeps
    | with_reducible apply State.scales_keeps
    | refine State.Keeps.fst (by with_reducible assumption) ?_
    | refine State.Keeps.snd (by with_reducible assumption) ?_
    | refine State.Keeps.snd2 (by with_reducible assumption) ?_
    | refine State.Keeps.snd3 (by with_reducible assumption) ?_
    | split
    | dsimp only

theorem State.gatherPacket_keeps {s : State} {w : Nat} {g : BagRef} {b : Bag} (h_s : s.Keeps F I o T)
    (f_fresh : F .fresh = true) (f_notices : F .notices = true) (f_mem : F .mem = true) (f_wild : F .wild = true)
        (f_disp : F .disp = true) (f_eng : F .eng = true) (f_arr : F .arr = true) (f_net : F .net = true)
            (f_mov : F .mov = true) (f_hi : F .hi = true) (f_peer : F .peer = true) (f_porters : F .porters = true)
                (f_sk : F .sk = true) (f_obs : F .obs = true) :
    (State.gatherPacket s w g b).2.Keeps F I o T := by
  unfold State.gatherPacket
  repeat' first
    | with_reducible assumption
    | with_reducible apply State.requantPacket_keeps
    | refine State.Keeps.fst (by with_reducible assumption) ?_
    | refine State.Keeps.snd (by with_reducible assumption) ?_
    | refine State.Keeps.snd2 (by with_reducible assumption) ?_
    | refine State.Keeps.snd3 (by with_reducible assumption) ?_
    | split
    | dsimp only

theorem State.samplePacket_keeps {s : State} {w : Nat} {k : Work} {b : Bag} (h_s : s.Keeps F I o T)
    (f_fresh : F .fresh = true) (f_notices : F .notices = true) (f_mem : F .mem = true) (f_wild : F .wild = true)
        (f_disp : F .disp = true) (f_eng : F .eng = true) (f_arr : F .arr = true) (f_net : F .net = true)
            (f_mov : F .mov = true) (f_hi : F .hi = true) (f_peer : F .peer = true) (f_porters : F .porters = true)
                (f_sk : F .sk = true) (f_obs : F .obs = true) :
    (State.samplePacket s w k b).2.Keeps F I o T := by
  unfold State.samplePacket
  repeat' first
    | with_reducible assumption
    | with_reducible apply State.requantPacket_keeps
    | split

theorem State.pagesOk_keeps {s : State} {own : Owner} {dom cls a n : Nat} (h_s : s.Keeps F I o T)
    (f_fresh : F .fresh = true) (f_notices : F .notices = true) (f_mov : F .mov = true) (f_obs : F .obs = true) :
    (s.pagesOk own dom cls a n).2.Keeps F I o T := by
  unfold State.pagesOk
  split
  · exact h_s
  split
  · refine foldl_keeps (fun acc : Dest × State => acc.2.Keeps F I o T) _ _ _ h_s fun acc _ h => ?_
    repeat' first
      | with_reducible assumption
      | with_reducible exact OutK.refused _
      | with_reducible apply OutK.next
      | with_reducible exact OptK.none
      | with_reducible apply OptK.some
      | with_reducible apply State.miss_keeps
      | refine State.Keeps.fst (by with_reducible assumption) ?_
      | refine State.Keeps.snd (by with_reducible assumption) ?_
      | refine State.Keeps.snd2 (by with_reducible assumption) ?_
      | refine State.Keeps.snd3 (by with_reducible assumption) ?_
      | split
      | with_reducible intro a_
      | dsimp only
  · exact h_s

theorem State.destOk_keeps {s : State} {w : Nat} {k : Work} {a : Nat} {n : Nat} (h_s : s.Keeps F I o T)
    (f_fresh : F .fresh = true) (f_notices : F .notices = true) (f_mov : F .mov = true) (f_obs : F .obs = true) :
    (State.destOk s w k a n).2.Keeps F I o T := by
  unfold State.destOk
  repeat' first
    | with_reducible assumption
    | with_reducible apply State.pagesOk_keeps
    | split

theorem State.finalDrops_keeps {s : State} {table : Nat} {ts : List Taken} (h_s : s.Keeps F I o T)
    (f_obs : F .obs = true) :
    (State.finalDrops s table ts).Keeps F I o T := by
  unfold State.finalDrops
  repeat' first
    | with_reducible assumption
    | with_reducible apply State.drop_keeps
    | split

theorem State.fillLink_keeps {s : State} {q : Nat} (h_s : s.Keeps F I o T) (f_arr : F .arr = true) :
    (State.fillLink s q).Keeps F I o T := by
  unfold State.fillLink
  repeat' first
    | with_reducible assumption
    | with_reducible apply State.setSem_keeps
    | refine State.Keeps.fst (by with_reducible assumption) ?_
    | refine State.Keeps.snd (by with_reducible assumption) ?_
    | refine State.Keeps.snd2 (by with_reducible assumption) ?_
    | refine State.Keeps.snd3 (by with_reducible assumption) ?_
    | split
    | dsimp only

theorem State.issuePacket_keeps {s : State} {w : Nat} {k : Work} {d : TaskDesc} {slot : Nat} {p : Packet}
    (h_s : s.Keeps F I o T) (f_fresh : F .fresh = true) (f_notices : F .notices = true) (f_mem : F .mem = true)
        (f_wild : F .wild = true) (f_disp : F .disp = true) (f_eng : F .eng = true) (f_arr : F .arr = true)
            (f_net : F .net = true) (f_mov : F .mov = true) (f_hi : F .hi = true) (f_peer : F .peer = true)
                (f_porters : F .porters = true) (f_obs : F .obs = true) :
    (State.issuePacket s w k d slot p).Keeps F I o T := by
  unfold State.issuePacket
  repeat' first
    | with_reducible assumption
    | with_reducible apply State.writeOut_keeps
    | refine State.Keeps.fst (by with_reducible assumption) ?_
    | refine State.Keeps.snd (by with_reducible assumption) ?_
    | refine State.Keeps.snd2 (by with_reducible assumption) ?_
    | refine State.Keeps.snd3 (by with_reducible assumption) ?_
    | split
    | dsimp only

theorem State.commitPacket_keeps {s : State} {w : Nat} {b : Nat} {d : TaskDesc} {lb : Nat} {p : Packet}
    (h_s : s.Keeps F I o T) (f_fresh : F .fresh = true) (f_notices : F .notices = true) (f_mem : F .mem = true)
        (f_wild : F .wild = true) (f_disp : F .disp = true) (f_eng : F .eng = true) (f_arr : F .arr = true)
            (f_net : F .net = true) (f_mov : F .mov = true) (f_hi : F .hi = true) (f_peer : F .peer = true)
                (f_porters : F .porters = true) (f_obs : F .obs = true) :
    (State.commitPacket s w b d lb p).Keeps F I o T := by
  unfold State.commitPacket
  repeat' first
    | with_reducible assumption
    | (with_reducible refine State.each_keeps ?_ fun _ _ _ => ?_)
    | with_reducible apply State.countTile_keeps
    | with_reducible apply State.fillLink_keeps
    | with_reducible apply State.finalDrops_keeps
    | with_reducible apply State.issuePacket_keeps
    | with_reducible apply State.modWork_keeps
    | with_reducible apply State.served_keeps
    | with_reducible apply State.setArray_keeps
    | with_reducible apply State.syncLinks_keeps
    | with_reducible apply State.tally_keeps
    | refine State.Keeps.fst (by with_reducible assumption) ?_
    | refine State.Keeps.snd (by with_reducible assumption) ?_
    | refine State.Keeps.snd2 (by with_reducible assumption) ?_
    | refine State.Keeps.snd3 (by with_reducible assumption) ?_
    | split
    | dsimp only

theorem State.assemble_keeps {s : State} {w : Nat} {b : Nat} (h_s : s.Keeps F I o T) (f_fresh : F .fresh = true)
    (f_notices : F .notices = true) (f_mem : F .mem = true) (f_wild : F .wild = true) (f_disp : F .disp = true)
        (f_eng : F .eng = true) (f_arr : F .arr = true) (f_net : F .net = true) (f_mov : F .mov = true)
            (f_hi : F .hi = true) (f_peer : F .peer = true) (f_porters : F .porters = true) (f_sk : F .sk = true)
                (f_obs : F .obs = true) :
    OptK F I o T (fun r => r.2.2.2) (State.assemble s w b) := by
  unfold State.assemble
  repeat' first
    | with_reducible assumption
    | with_reducible exact OptK.none
    | with_reducible apply OptK.some
    | with_reducible apply State.bagRef_keeps
    | with_reducible apply State.gatherPacket_keeps
    | with_reducible apply State.samplePacket_keeps
    | refine State.Keeps.fst (by with_reducible assumption) ?_
    | refine State.Keeps.snd (by with_reducible assumption) ?_
    | refine State.Keeps.snd2 (by with_reducible assumption) ?_
    | refine State.Keeps.snd3 (by with_reducible assumption) ?_
    | refine OptK.of (by with_reducible assumption) ?_
    | refine OptK.of1 (by with_reducible assumption) ?_
    | refine OptK.of3 (by with_reducible assumption) ?_
    | split
    | dsimp only

theorem State.rewindPacket_keeps {s : State} {w : Nat} {b : Nat} (h_s : s.Keeps F I o T) (f_fresh : F .fresh = true)
    (f_disp : F .disp = true) (f_eng : F .eng = true) (f_arr : F .arr = true) (f_obs : F .obs = true) :
    (State.rewindPacket s w b).Keeps F I o T := by
  unfold State.rewindPacket
  repeat' first
    | with_reducible assumption
    | with_reducible apply State.count_keeps
    | with_reducible apply State.rewindBag_keeps
    | split

theorem State.leave_keeps {s : State} {w : Nat} (h_s : s.Keeps F I o T) (f_disp : F .disp = true)
    (f_eng : F .eng = true) (f_net : F .net = true) :
    (State.leave s w).Keeps F I o T := by
  unfold State.leave
  repeat' first
    | with_reducible assumption
    | (with_reducible refine State.each_keeps ?_ fun _ _ _ => ?_)
    | with_reducible apply State.cacheDrop_keeps
    | with_reducible apply State.killSlots_keeps
    | with_reducible apply State.modEngine_keeps
    | with_reducible apply State.setScatter_keeps
    | refine State.Keeps.fst (by with_reducible assumption) ?_
    | refine State.Keeps.snd (by with_reducible assumption) ?_
    | refine State.Keeps.snd2 (by with_reducible assumption) ?_
    | refine State.Keeps.snd3 (by with_reducible assumption) ?_
    | split
    | dsimp only

theorem State.forget_keeps {s : State} {w : Nat} (h_s : s.Keeps F I o T) (f_disp : F .disp = true)
    (f_eng : F .eng = true) (f_net : F .net = true) :
    (State.forget s w).Keeps F I o T := by
  unfold State.forget
  repeat' first
    | with_reducible assumption
    | with_reducible apply State.dropWork_keeps
    | with_reducible apply State.leave_keeps
    | split

theorem State.forgetAll_keeps {s : State} {w : Nat} (h_s : s.Keeps F I o T) (f_disp : F .disp = true)
    (f_eng : F .eng = true) (f_net : F .net = true) :
    (State.forgetAll s w).Keeps F I o T := by
  unfold State.forgetAll
  repeat' first
    | with_reducible assumption
    | (with_reducible refine State.each_keeps ?_ fun _ _ _ => ?_)
    | with_reducible apply State.forget_keeps
    | split

theorem State.replayPorterTask_keeps {s : State} {w : Nat} {cause : Nat} (h_s : s.Keeps F I o T)
    (f_disp : F .disp = true) (f_eng : F .eng = true) (f_arr : F .arr = true) (f_net : F .net = true)
        (f_mov : F .mov = true) (f_peer : F .peer = true) (f_porters : F .porters = true) (f_obs : F .obs = true) :
    (State.replayPorterTask s w cause).Keeps F I o T := by
  unfold State.replayPorterTask
  repeat' first
    | with_reducible assumption
    | (with_reducible refine State.each_keeps ?_ fun _ _ _ => ?_)
    | with_reducible apply State.count_keeps
    | with_reducible apply State.dropLists_keeps
    | with_reducible apply State.endOne_keeps
    | with_reducible apply State.forget_keeps
    | with_reducible apply State.modPorter_keeps
    | with_reducible apply State.resetPair_keeps
    | with_reducible apply State.setWork_keeps
    | with_reducible apply State.stopPorter_keeps
    | split

theorem State.writeTrailer_keeps {s : State} {w : Nat} {k : Work} {d : Doorbell} (h_s : s.Keeps F I o T)
    (f_fresh : F .fresh = true) (f_notices : F .notices = true) (f_mem : F .mem = true) (f_wild : F .wild = true)
        (f_disp : F .disp = true) (f_eng : F .eng = true) (f_arr : F .arr = true) (f_net : F .net = true)
            (f_mov : F .mov = true) (f_hi : F .hi = true) (f_peer : F .peer = true) (f_porters : F .porters = true)
                (f_obs : F .obs = true) :
    (State.writeTrailer s w k d).Keeps F I o T := by
  unfold State.writeTrailer
  repeat' first
    | with_reducible assumption
    | with_reducible apply State.forget_keeps
    | with_reducible apply State.tally_keeps
    | with_reducible apply State.unitsEnd_keeps
    | with_reducible apply State.writeOut_keeps
    | split

theorem State.writeRecord_keeps {s : State} {w : Nat} {k : Work} {r : Nat} {slot : Nat} {lost : Bool}
    (h_s : s.Keeps F I o T) (f_fresh : F .fresh = true) (f_notices : F .notices = true) (f_mem : F .mem = true)
        (f_wild : F .wild = true) (f_disp : F .disp = true) (f_eng : F .eng = true) (f_arr : F .arr = true)
            (f_net : F .net = true) (f_mov : F .mov = true) (f_hi : F .hi = true) (f_peer : F .peer = true)
                (f_porters : F .porters = true) (f_obs : F .obs = true) :
    (State.writeRecord s w k r slot lost).Keeps F I o T := by
  unfold State.writeRecord
  repeat' first
    | with_reducible assumption
    | with_reducible apply State.forgetAll_keeps
    | with_reducible apply State.raise_keeps
    | with_reducible apply State.setRing_keeps
    | with_reducible apply State.tally_keeps
    | with_reducible apply State.tallyNotice_keeps
    | with_reducible apply State.unitsEnd_keeps
    | with_reducible apply State.writeOut_keeps
    | split

theorem State.pop_keeps {s : State} {n : Nat} {d : Dir} {m : Msg} (h_s : s.Keeps F I o T) (f_net : F .net = true) :
    (State.pop s n d m).Keeps F I o T := by
  unfold State.pop
  repeat' first
    | with_reducible assumption
    | with_reducible apply State.modDir_keeps
    | split

theorem State.atAgent_keeps {s : State} {n : Nat} {vc : Nat} {mtype : Nat} {f : Msg → State → State}
    (h_s : s.Keeps F I o T) (h_f : ∀ a0 a1, a1.Keeps F I o T → (f a0 a1).Keeps F I o T) (f_net : F .net = true) :
    OutK F I o T (State.atAgent s n vc mtype f) := by
  unfold State.atAgent
  repeat' first
    | with_reducible assumption
    | with_reducible exact OutK.refused _
    | with_reducible apply OutK.next
    | with_reducible apply State.pop_keeps
    | with_reducible apply h_f
    | split

theorem State.atDie_keeps {s : State} {n : Nat} {vc : Nat} {mtype : Nat} {f : Msg → State → State}
    (h_s : s.Keeps F I o T) (h_f : ∀ a0 a1, a1.Keeps F I o T → (f a0 a1).Keeps F I o T) (f_net : F .net = true) :
    OutK F I o T (State.atDie s n vc mtype f) := by
  unfold State.atDie
  repeat' first
    | with_reducible assumption
    | with_reducible exact OutK.refused _
    | with_reducible apply OutK.next
    | with_reducible apply State.pop_keeps
    | with_reducible apply h_f
    | split

theorem State.agentSends_keeps {s : State} {n : Nat} {mtype : Nat} {addr : Nat} {body : Bytes} {tag : Nat}
    (h_s : s.Keeps F I o T) (f_net : F .net = true) :
    (State.agentSends s n mtype addr body tag).Keeps F I o T := by
  unfold State.agentSends
  repeat' first
    | with_reducible assumption
    | with_reducible apply State.queueMsg_keeps
    | split

theorem State.setCrate_keeps {s : State} {n : Nat} {i : Nat} {c : Crate} (h_s : s.Keeps F I o T)
    (f_net : F .net = true) :
    (State.setCrate s n i c).Keeps F I o T := by
  unfold State.setCrate
  repeat' first
    | with_reducible assumption
    | with_reducible apply State.modAgent_keeps
    | split

theorem State.tallyCrate_keeps {s : State} {n : Nat} {event : Nat} {c : Crate} (h_s : s.Keeps F I o T)
    (f_fresh : F .fresh = true) (f_obs : F .obs = true) :
    (State.tallyCrate s n event c).Keeps F I o T := by
  unfold State.tallyCrate
  repeat' first
    | with_reducible assumption
    | with_reducible apply State.tally_keeps
    | split

theorem State.trySeal_keeps {s : State} {n : Nat} {i : Nat} {c : Crate} (h_s : s.Keeps F I o T)
    (f_net : F .net = true) :
    (State.trySeal s n i c).Keeps F I o T := by
  unfold State.trySeal
  repeat' first
    | with_reducible assumption
    | with_reducible apply State.agentSends_keeps
    | with_reducible apply State.setCrate_keeps
    | split

theorem State.record_keeps {s : State} {n : Nat} {i : Nat} {c : Crate} {a : Nat} {ps : List Pair}
    (h_s : s.Keeps F I o T) (f_fresh : F .fresh = true) (f_net : F .net = true) (f_obs : F .obs = true) :
    (State.record s n i c a ps).Keeps F I o T := by
  unfold State.record
  repeat' first
    | with_reducible assumption
    | with_reducible apply State.agentSends_keeps
    | with_reducible apply State.count_keeps
    | with_reducible apply State.setCrate_keeps
    | with_reducible apply State.tallyCrate_keeps
    | with_reducible apply State.trySeal_keeps
    | split

theorem State.sendMgmt_keeps {s : State} {n : Nat} {d : Dir} {kind : Nat} {b : Bytes} (h_s : s.Keeps F I o T)
    (f_net : F .net = true) :
    (State.sendMgmt s n d kind b).Keeps F I o T := by
  unfold State.sendMgmt
  repeat' first
    | with_reducible assumption
    | with_reducible apply State.queueMsg_keeps
    | split

theorem State.dropPending_keeps {s : State} {pos : Nat} {addr : Nat} (h_s : s.Keeps F I o T) (f_eng : F .eng = true) :
    (State.dropPending s pos addr).Keeps F I o T := by
  unfold State.dropPending
  repeat' first
    | with_reducible assumption
    | with_reducible apply State.modEngine_keeps
    | split

theorem State.beginMig_keeps {s : State} {n : Nat} {g : Migration} (h_s : s.Keeps F I o T) (f_eng : F .eng = true)
    (f_net : F .net = true) :
    (State.beginMig s n g).Keeps F I o T := by
  unfold State.beginMig
  repeat' first
    | with_reducible assumption
    | with_reducible apply State.modAgent_keeps
    | with_reducible apply State.modEngine_keeps
    | with_reducible apply State.sendMgmt_keeps
    | split

theorem State.nextMig_keeps {s : State} {n : Nat} (h_s : s.Keeps F I o T) (f_eng : F .eng = true)
    (f_net : F .net = true) (f_sk : F .sk = true) :
    (State.nextMig s n).Keeps F I o T := by
  unfold State.nextMig
  try dsimp only
  repeat' first
    | with_reducible assumption
    | with_reducible apply State.beginMig_keeps
    | with_reducible apply State.modSk_keeps
    | refine State.Keeps.fst (by with_reducible assumption) ?_
    | refine State.Keeps.snd (by with_reducible assumption) ?_
    | refine State.Keeps.snd2 (by with_reducible assumption) ?_
    | refine State.Keeps.snd3 (by with_reducible assumption) ?_
    | split
    | with_reducible intro a_
    | dsimp only
    | with_reducible rfl
    | (simp_all; done)

theorem State.repin_keeps {s : State} {g : Migration} (h_s : s.Keeps F I o T) (f_eng : F .eng = true)
    (f_net : F .net = true) (f_sk : F .sk = true) :
    (State.repin s g).Keeps F I o T := by
  unfold State.repin
  try dsimp only
  repeat' first
    | with_reducible assumption
    | with_reducible apply State.modSk_keeps
    | with_reducible apply State.nextMig_keeps
    | refine State.Keeps.fst (by with_reducible assumption) ?_
    | refine State.Keeps.snd (by with_reducible assumption) ?_
    | refine State.Keeps.snd2 (by with_reducible assumption) ?_
    | refine State.Keeps.snd3 (by with_reducible assumption) ?_
    | split
    | with_reducible intro a_
    | dsimp only
    | with_reducible rfl
    | (simp_all; done)

theorem State.abandonMigration_keeps {s : State} {n : Nat} (h_s : s.Keeps F I o T) (f_fresh : F .fresh = true)
    (f_eng : F .eng = true) (f_net : F .net = true) (f_sk : F .sk = true) (f_obs : F .obs = true) :
    (State.abandonMigration s n).Keeps F I o T := by
  unfold State.abandonMigration
  repeat' first
    | with_reducible assumption
    | with_reducible apply State.count_keeps
    | with_reducible apply State.dropPending_keeps
    | with_reducible apply State.modAgent_keeps
    | with_reducible apply State.nextMig_keeps
    | with_reducible apply State.repin_keeps
    | with_reducible apply State.tally_keeps
    | split

theorem State.writeLog_keeps {s : State} {n : Nat} {c : Crate} {imgs : List (Nat × Bytes)} (h_s : s.Keeps F I o T)
    (f_mem : F .mem = true) :
    (State.writeLog s n c imgs).Keeps F I o T := by
  unfold State.writeLog
  repeat' first
    | with_reducible assumption
    | with_reducible apply State.store_keeps
    | split

theorem State.markDone_keeps {s : State} {n : Nat} (h_s : s.Keeps F I o T) (f_mem : F .mem = true) :
    (State.markDone s n).Keeps F I o T := by
  unfold State.markDone
  repeat' first
    | with_reducible assumption
    | with_reducible apply State.storeByte_keeps
    | split

theorem State.startCommit_keeps {s : State} {n : Nat} {i : Nat} {c : Crate} (h_s : s.Keeps F I o T)
    (f_fresh : F .fresh = true) (f_notices : F .notices = true) (f_mem : F .mem = true) (f_net : F .net = true)
        (f_sk : F .sk = true) (f_obs : F .obs = true) :
    (State.startCommit s n i c).Keeps F I o T := by
  unfold State.startCommit
  repeat' first
    | with_reducible assumption
    | with_reducible apply State.count_keeps
    | with_reducible apply State.countN_keeps
    | with_reducible apply State.notice_keeps
    | with_reducible apply State.setCrate_keeps
    | with_reducible apply State.tallyCrate_keeps
    | with_reducible apply State.writeLog_keeps
    | split

theorem State.crateDone_keeps {s : State} {n : Nat} {i : Nat} {c : Crate} (h_s : s.Keeps F I o T)
    (f_fresh : F .fresh = true) (f_mem : F .mem = true) (f_net : F .net = true) (f_obs : F .obs = true) :
    (State.crateDone s n i c).Keeps F I o T := by
  unfold State.crateDone
  repeat' first
    | with_reducible assumption
    | with_reducible apply State.agentSends_keeps
    | with_reducible apply State.count_keeps
    | with_reducible apply State.markDone_keeps
    | with_reducible apply State.modAgent_keeps
    | with_reducible apply State.setCrate_keeps
    | with_reducible apply State.tallyCrate_keeps
    | split

theorem State.beginRefresh_keeps {s : State} {n : Nat} {i : Nat} {c : Crate} (h_s : s.Keeps F I o T)
    (f_fresh : F .fresh = true) (f_mem : F .mem = true) (f_net : F .net = true) (f_obs : F .obs = true) :
    (State.beginRefresh s n i c).Keeps F I o T := by
  unfold State.beginRefresh
  repeat' first
    | with_reducible assumption
    | (with_reducible refine State.each_keeps ?_ fun _ _ _ => ?_)
    | with_reducible apply State.agentSends_keeps
    | with_reducible apply State.crateDone_keeps
    | with_reducible apply State.setCrate_keeps
    | refine State.Keeps.fst (by with_reducible assumption) ?_
    | refine State.Keeps.snd (by with_reducible assumption) ?_
    | refine State.Keeps.snd2 (by with_reducible assumption) ?_
    | refine State.Keeps.snd3 (by with_reducible assumption) ?_
    | split
    | dsimp only

theorem State.epochFinal_keeps {s : State} {sc : Scatter} {e : Nat} (h_s : s.Keeps F I o T) (f_obs : F .obs = true) :
    (State.epochFinal s sc e).Keeps F I o T := by
  unfold State.epochFinal
  repeat' first
    | with_reducible assumption
    | with_reducible apply State.finalDrops_keeps
    | split

theorem State.sendCommits_keeps {s : State} {i : Nat} {e : Nat} (h_s : s.Keeps F I o T) (f_disp : F .disp = true)
    (f_net : F .net = true) (f_obs : F .obs = true) :
    (State.sendCommits s i e).Keeps F I o T := by
  unfold State.sendCommits
  repeat' first
    | with_reducible assumption
    | (with_reducible refine State.each_keeps ?_ fun _ _ _ => ?_)
    | with_reducible apply State.count_keeps
    | with_reducible apply State.epochFinal_keeps
    | with_reducible apply State.sendCtl_keeps
    | with_reducible apply State.setScatter_keeps
    | with_reducible refine foldl_keeps (fun acc => State.Keeps acc F I o T) _ _ _ ?_ fun _ _ _ => ?_
    | with_reducible refine foldl_keeps (fun acc => State.Keeps acc.1 F I o T) _ _ _ ?_ fun _ _ _ => ?_
    | with_reducible refine foldl_keeps (fun acc => State.Keeps acc.2 F I o T) _ _ _ ?_ fun _ _ _ => ?_
    | with_reducible refine foldl_keeps (fun acc => State.Keeps acc.2.2 F I o T) _ _ _ ?_ fun _ _ _ => ?_
    | refine State.Keeps.fst (by with_reducible assumption) ?_
    | refine State.Keeps.snd (by with_reducible assumption) ?_
    | refine State.Keeps.snd2 (by with_reducible assumption) ?_
    | refine State.Keeps.snd3 (by with_reducible assumption) ?_
    | split
    | dsimp only

theorem State.crateAcked_keeps {s : State} {i : Nat} {e : Nat} {halves : List Nat} (h_s : s.Keeps F I o T)
    (f_disp : F .disp = true) (f_obs : F .obs = true) :
    (State.crateAcked s i e halves).Keeps F I o T := by
  unfold State.crateAcked
  repeat' first
    | with_reducible assumption
    | with_reducible apply State.epochFinal_keeps
    | with_reducible apply State.setScatter_keeps
    | refine State.Keeps.fst (by with_reducible assumption) ?_
    | refine State.Keeps.snd (by with_reducible assumption) ?_
    | refine State.Keeps.snd2 (by with_reducible assumption) ?_
    | refine State.Keeps.snd3 (by with_reducible assumption) ?_
    | split
    | dsimp only

theorem State.ackRefresh_keeps {s : State} {n : Nat} {pos : Nat} {a : Nat} {enable : Bool} (h_s : s.Keeps F I o T)
    (f_net : F .net = true) :
    (State.ackRefresh s n pos a enable).Keeps F I o T := by
  unfold State.ackRefresh
  repeat' first
    | with_reducible assumption
    | with_reducible apply State.queueMsg_keeps
    | split

theorem State.sampleRead_keeps {s : State} {n : Nat} {addr : Nat} {pos : Nat} (h_s : s.Keeps F I o T)
    (f_net : F .net = true) :
    (State.sampleRead s n addr pos).Keeps F I o T := by
  unfold State.sampleRead
  repeat' first
    | with_reducible assumption
    | with_reducible apply State.modAgent_keeps
    | split

theorem State.readRow_keeps {s : State} {n : Nat} {addr : Nat} {len : Nat} {tag : Nat} {fill : Bool}
    (h_s : s.Keeps F I o T) (f_net : F .net = true) (f_obs : F .obs = true) :
    (State.readRow s n addr len tag fill).2.2.Keeps F I o T := by
  unfold State.readRow
  repeat' first
    | with_reducible assumption
    | with_reducible apply State.count_keeps
    | with_reducible apply State.sampleRead_keeps
    | with_reducible apply State.setAgent_keeps
    | refine State.Keeps.fst (by with_reducible assumption) ?_
    | refine State.Keeps.snd (by with_reducible assumption) ?_
    | refine State.Keeps.snd2 (by with_reducible assumption) ?_
    | refine State.Keeps.snd3 (by with_reducible assumption) ?_
    | split
    | dsimp only

theorem State.servePack_keeps {s : State} {n : Nat} {m : Msg} (h_s : s.Keeps F I o T) (f_net : F .net = true)
    (f_obs : F .obs = true) : (s.servePack n m).Keeps F I o T := by
  unfold State.servePack
  dsimp only
  apply State.queueMsg_keeps _ f_net
  refine foldl_keeps (fun acc : Bytes × State => acc.2.Keeps F I o T) _ _ _ h_s fun acc _ h => ?_
  apply State.count_keeps _ f_obs
  repeat' first
      | with_reducible assumption
      | with_reducible exact OutK.refused _
      | with_reducible apply OutK.next
      | with_reducible exact OptK.none
      | with_reducible apply OptK.some
      | with_reducible apply State.readRow_keeps
      | refine State.Keeps.fst (by with_reducible assumption) ?_
      | refine State.Keeps.snd (by with_reducible assumption) ?_
      | refine State.Keeps.snd2 (by with_reducible assumption) ?_
      | refine State.Keeps.snd3 (by with_reducible assumption) ?_
      | split
      | with_reducible intro a_
      | dsimp only

theorem State.serve_keeps {s : State} {n : Nat} {m : Msg} (h_s : s.Keeps F I o T) (f_mem : F .mem = true)
    (f_net : F .net = true) (f_obs : F .obs = true) :
    (State.serve s n m).Keeps F I o T := by
  unfold State.serve
  repeat' first
    | with_reducible assumption
    | with_reducible apply State.count_keeps
    | with_reducible apply State.queueMsg_keeps
    | with_reducible apply State.readRow_keeps
    | with_reducible apply State.servePack_keeps
    | with_reducible apply State.store_keeps
    | split

theorem State.hold_keeps {s : State} {n : Nat} {m : Msg} (h_s : s.Keeps F I o T) (f_fresh : F .fresh = true)
    (f_net : F .net = true) (f_obs : F .obs = true) :
    (State.hold s n m).Keeps F I o T := by
  unfold State.hold
  repeat' first
    | with_reducible assumption
    | with_reducible apply State.count_keeps
    | with_reducible apply State.draw_keeps
    | with_reducible apply State.modAgent_keeps
    | with_reducible apply State.modDir_keeps
    | with_reducible apply State.tally_keeps
    | split

theorem State.takeRequest_keeps {s : State} {n : Nat} {vc : Nat} {mtype : Nat} (h_s : s.Keeps F I o T)
    (f_fresh : F .fresh = true) (f_mem : F .mem = true) (f_net : F .net = true) (f_obs : F .obs = true) :
    OutK F I o T (State.takeRequest s n vc mtype) := by
  unfold State.takeRequest
  repeat' first
    | with_reducible assumption
    | with_reducible exact OutK.refused _
    | with_reducible apply OutK.next
    | with_reducible apply State.hold_keeps
    | with_reducible apply State.pop_keeps
    | with_reducible apply State.serve_keeps
    | split

theorem State.serveHeld_keeps {s : State} {n : Nat} {h : Held} (h_s : s.Keeps F I o T) (f_mem : F .mem = true)
    (f_net : F .net = true) (f_obs : F .obs = true) :
    (State.serveHeld s n h).Keeps F I o T := by
  unfold State.serveHeld
  repeat' first
    | with_reducible assumption
    | with_reducible apply State.modDir_keeps
    | with_reducible apply State.serve_keeps
    | split

theorem State.acked_keeps {s : State} {tag : Nat} (h_s : s.Keeps F I o T) (f_disp : F .disp = true)
    (f_net : F .net = true) (f_mov : F .mov = true) (f_peer : F .peer = true) (f_porters : F .porters = true)
        (f_obs : F .obs = true) :
    (State.acked s tag).Keeps F I o T := by
  unfold State.acked
  split
  · apply State.ownAcked_keeps
    · exact State.with_net h_s f_net
    all_goals assumption
  · exact h_s

theorem State.openList_keeps {s : State} {ch : Nat} {more : List Wild} (h_s : s.Keeps F I o T)
    (f_wild : F .wild = true) (f_mov : F .mov = true) :
    (State.openList s ch more).Keeps F I o T := by
  unfold State.openList
  repeat' first
    | with_reducible assumption
    | with_reducible apply State.openBytes_keeps
    | with_reducible apply State.setChan_keeps
    | split

theorem State.checkDesc_keeps {s : State} {ch : Nat} {d : MoverDesc} {bad : Bool} (h_s : s.Keeps F I o T)
    (f_wild : F .wild = true) (f_mov : F .mov = true) :
    (State.checkDesc s ch d bad).Keeps F I o T := by
  unfold State.checkDesc
  repeat' first
    | with_reducible assumption
    | (with_reducible refine State.each_keeps ?_ fun _ _ _ => ?_)
    | with_reducible apply State.openDests_keeps
    | with_reducible apply State.openList_keeps
    | refine State.Keeps.fst (by with_reducible assumption) ?_
    | refine State.Keeps.snd (by with_reducible assumption) ?_
    | refine State.Keeps.snd2 (by with_reducible assumption) ?_
    | refine State.Keeps.snd3 (by with_reducible assumption) ?_
    | split
    | dsimp only

theorem State.writeParts_keeps {s : State} {ch : Nat} {r : ChRead} {data : Bytes} (h_s : s.Keeps F I o T)
    (f_fresh : F .fresh = true) (f_notices : F .notices = true) (f_mem : F .mem = true) (f_wild : F .wild = true)
        (f_disp : F .disp = true) (f_eng : F .eng = true) (f_arr : F .arr = true) (f_net : F .net = true)
            (f_mov : F .mov = true) (f_hi : F .hi = true) (f_peer : F .peer = true) (f_porters : F .porters = true)
                (f_obs : F .obs = true) :
    (s.writeParts ch r data).Keeps F I o T := by
  unfold State.writeParts
  refine foldl_keeps (fun acc : State × Bytes => acc.1.Keeps F I o T) _ _ _ h_s fun acc _ h => ?_
  repeat' first
      | with_reducible assumption
      | with_reducible exact OutK.refused _
      | with_reducible apply OutK.next
      | with_reducible exact OptK.none
      | with_reducible apply OptK.some
      | with_reducible apply State.sendMover_keeps
      | with_reducible apply State.denied_keeps
      | with_reducible apply State.writeOut_keeps
      | with_reducible apply State.requestAt_keeps
      | with_reducible apply State.ownQueued_keeps
      | refine State.Keeps.fst (by with_reducible assumption) ?_
      | refine State.Keeps.snd (by with_reducible assumption) ?_
      | refine State.Keeps.snd2 (by with_reducible assumption) ?_
      | refine State.Keeps.snd3 (by with_reducible assumption) ?_
      | split
      | with_reducible intro a_
      | dsimp only

theorem State.chanGot_keeps {s : State} {ch : Nat} {k : Nat} {a : Nat} {data : Bytes} (h_s : s.Keeps F I o T)
    (f_fresh : F .fresh = true) (f_notices : F .notices = true) (f_mem : F .mem = true) (f_wild : F .wild = true)
        (f_disp : F .disp = true) (f_eng : F .eng = true) (f_arr : F .arr = true) (f_net : F .net = true)
            (f_mov : F .mov = true) (f_hi : F .hi = true) (f_peer : F .peer = true) (f_porters : F .porters = true)
                (f_obs : F .obs = true) :
    (State.chanGot s ch k a data).Keeps F I o T := by
  unfold State.chanGot
  repeat' first
    | with_reducible assumption
    | with_reducible apply State.setChan_keeps
    | with_reducible apply State.writeParts_keeps
    | refine State.Keeps.fst (by with_reducible assumption) ?_
    | refine State.Keeps.snd (by with_reducible assumption) ?_
    | refine State.Keeps.snd2 (by with_reducible assumption) ?_
    | refine State.Keeps.snd3 (by with_reducible assumption) ?_
    | split
    | dsimp only

theorem State.readPart_keeps {s : State} {ch : Nat} {k : Nat} {r : ChRead} {a : Nat} {n : Nat} {pa : Nat}
    (h_s : s.Keeps F I o T) (f_fresh : F .fresh = true) (f_notices : F .notices = true) (f_mem : F .mem = true)
        (f_wild : F .wild = true) (f_disp : F .disp = true) (f_eng : F .eng = true) (f_arr : F .arr = true)
            (f_net : F .net = true) (f_mov : F .mov = true) (f_hi : F .hi = true) (f_peer : F .peer = true)
                (f_porters : F .porters = true) (f_obs : F .obs = true) :
    (State.readPart s ch k r a n pa).Keeps F I o T := by
  unfold State.readPart
  repeat' first
    | with_reducible assumption
    | with_reducible apply State.chanGot_keeps
    | with_reducible apply State.requestAt_keeps
    | with_reducible apply State.sendRead_keeps
    | split

theorem State.issueBurst_keeps {s : State} {ch : Nat} {d : MoverDesc} {b : NextBurst} (h_s : s.Keeps F I o T)
    (f_fresh : F .fresh = true) (f_notices : F .notices = true) (f_mem : F .mem = true) (f_wild : F .wild = true)
        (f_disp : F .disp = true) (f_eng : F .eng = true) (f_arr : F .arr = true) (f_net : F .net = true)
            (f_mov : F .mov = true) (f_hi : F .hi = true) (f_peer : F .peer = true) (f_porters : F .porters = true)
                (f_obs : F .obs = true) :
    (State.issueBurst s ch d b).Keeps F I o T := by
  unfold State.issueBurst
  repeat' first
    | with_reducible assumption
    | (with_reducible refine State.each_keeps ?_ fun _ _ _ => ?_)
    | with_reducible apply State.count_keeps
    | with_reducible apply State.drop_keeps
    | with_reducible apply State.modMov_keeps
    | with_reducible apply State.readPart_keeps
    | with_reducible apply State.setChan_keeps
    | with_reducible apply State.touchTc_keeps
    | with_reducible apply State.writeParts_keeps
    | refine State.Keeps.fst (by with_reducible assumption) ?_
    | refine State.Keeps.snd (by with_reducible assumption) ?_
    | refine State.Keeps.snd2 (by with_reducible assumption) ?_
    | refine State.Keeps.snd3 (by with_reducible assumption) ?_
    | split
    | dsimp only

theorem State.cutDesc_keeps {s : State} {ch : Nat} (h_s : s.Keeps F I o T) (f_wild : F .wild = true)
    (f_mov : F .mov = true) :
    (State.cutDesc s ch).Keeps F I o T := by
  unfold State.cutDesc
  repeat' first
    | with_reducible assumption
    | with_reducible apply State.modChan_keeps
    | with_reducible apply State.openList_keeps
    | refine State.Keeps.fst (by with_reducible assumption) ?_
    | refine State.Keeps.snd (by with_reducible assumption) ?_
    | refine State.Keeps.snd2 (by with_reducible assumption) ?_
    | refine State.Keeps.snd3 (by with_reducible assumption) ?_
    | split
    | dsimp only

theorem State.settleChan_keeps {s : State} {ch : Nat} (h_s : s.Keeps F I o T) (f_fresh : F .fresh = true)
    (f_notices : F .notices = true) (f_wild : F .wild = true) (f_disp : F .disp = true) (f_mov : F .mov = true)
        (f_peer : F .peer = true) (f_porters : F .porters = true) (f_obs : F .obs = true) :
    (State.settleChan s ch).Keeps F I o T := by
  unfold State.settleChan
  repeat' first
    | with_reducible assumption
    | with_reducible apply State.cutDesc_keeps
    | with_reducible apply State.denied_keeps
    | with_reducible apply State.miss_keeps
    | with_reducible apply State.stopChan_keeps
    | with_reducible apply State.waitPage_keeps
    | refine State.Keeps.fst (by with_reducible assumption) ?_
    | refine State.Keeps.snd (by with_reducible assumption) ?_
    | refine State.Keeps.snd2 (by with_reducible assumption) ?_
    | refine State.Keeps.snd3 (by with_reducible assumption) ?_
    | split
    | dsimp only

theorem State.issueCold_keeps {s : State} {c : Cold} (h_s : s.Keeps F I o T) (f_fresh : F .fresh = true)
    (f_notices : F .notices = true) (f_wild : F .wild = true) (f_disp : F .disp = true) (f_eng : F .eng = true)
        (f_arr : F .arr = true) (f_net : F .net = true) (f_mov : F .mov = true) (f_hi : F .hi = true)
            (f_peer : F .peer = true) (f_porters : F .porters = true) (f_obs : F .obs = true) :
    (State.issueCold s c).Keeps F I o T := by
  unfold State.issueCold
  repeat' first
    | with_reducible assumption
    | with_reducible apply State.count_keeps
    | with_reducible apply State.modMov_keeps
    | with_reducible apply State.readOut_keeps
    | split

theorem State.nextList_keeps {s : State} {ch : Nat} {code : Nat} (h_s : s.Keeps F I o T) (f_mov : F .mov = true) :
    (State.nextList s ch code).Keeps F I o T := by
  unfold State.nextList
  repeat' first
    | with_reducible assumption
    | with_reducible apply State.setChan_keeps
    | refine State.Keeps.fst (by with_reducible assumption) ?_
    | refine State.Keeps.snd (by with_reducible assumption) ?_
    | refine State.Keeps.snd2 (by with_reducible assumption) ?_
    | refine State.Keeps.snd3 (by with_reducible assumption) ?_
    | split
    | dsimp only

theorem State.queueHead_keeps {s : State} {ch : Nat} {h : Head} (h_s : s.Keeps F I o T) (f_mov : F .mov = true) :
    (State.queueHead s ch h).Keeps F I o T := by
  unfold State.queueHead
  repeat' first
    | with_reducible assumption
    | with_reducible apply State.nextList_keeps
    | with_reducible apply State.setChan_keeps
    | refine State.Keeps.fst (by with_reducible assumption) ?_
    | refine State.Keeps.snd (by with_reducible assumption) ?_
    | refine State.Keeps.snd2 (by with_reducible assumption) ?_
    | refine State.Keeps.snd3 (by with_reducible assumption) ?_
    | split
    | dsimp only

theorem State.headWrite_keeps {s : State} {ch : Nat} {addr : Nat} (h_s : s.Keeps F I o T)
    (f_fresh : F .fresh = true) (f_mov : F .mov = true) :
    (State.headWrite s ch addr).Keeps F I o T := by
  unfold State.headWrite
  repeat' first
    | with_reducible assumption
    | with_reducible apply State.draw_keeps
    | with_reducible apply State.queueHead_keeps
    | with_reducible apply State.setChan_keeps
    | refine State.Keeps.fst (by with_reducible assumption) ?_
    | refine State.Keeps.snd (by with_reducible assumption) ?_
    | refine State.Keeps.snd2 (by with_reducible assumption) ?_
    | refine State.Keeps.snd3 (by with_reducible assumption) ?_
    | split
    | dsimp only

theorem State.abortChan_keeps {s : State} {ch : Nat} (h_s : s.Keeps F I o T) (f_disp : F .disp = true)
    (f_mov : F .mov = true) (f_peer : F .peer = true) (f_porters : F .porters = true) (f_obs : F .obs = true) :
    (State.abortChan s ch).Keeps F I o T := by
  unfold State.abortChan
  repeat' first
    | with_reducible assumption
    | with_reducible apply State.stopChan_keeps
    | split

theorem State.startDesc_keeps {s : State} {ch : Nat} {op : Nat} (h_s : s.Keeps F I o T) (f_fresh : F .fresh = true)
    (f_wild : F .wild = true) (f_disp : F .disp = true) (f_mov : F .mov = true) (f_peer : F .peer = true)
        (f_porters : F .porters = true) (f_obs : F .obs = true) :
    OutK F I o T (State.startDesc s ch op) := by
  unfold State.startDesc
  repeat' first
    | with_reducible assumption
    | with_reducible exact OutK.refused _
    | with_reducible apply OutK.next
    | with_reducible apply State.checkDesc_keeps
    | with_reducible apply State.draw_keeps
    | with_reducible apply State.setChan_keeps
    | with_reducible apply State.stopChan_keeps
    | refine State.Keeps.fst (by with_reducible assumption) ?_
    | refine State.Keeps.snd (by with_reducible assumption) ?_
    | refine State.Keeps.snd2 (by with_reducible assumption) ?_
    | refine State.Keeps.snd3 (by with_reducible assumption) ?_
    | split
    | dsimp only

theorem State.coldGot_keeps {s : State} {tag : Nat} {a : Nat} {data : Bytes} (h_s : s.Keeps F I o T)
    (f_mov : F .mov = true) :
    (State.coldGot s tag a data).Keeps F I o T := by
  unfold State.coldGot
  repeat' first
    | with_reducible assumption
    | with_reducible apply State.modMov_keeps
    | split

theorem State.demote_keeps {s : State} {f : Nat} (h_s : s.Keeps F I o T) (f_mov : F .mov = true)
    (f_obs : F .obs = true) :
    (State.demote s f).Keeps F I o T := by
  unfold State.demote
  repeat' first
    | with_reducible assumption
    | with_reducible apply State.count_keeps
    | with_reducible apply State.setFrame_keeps
    | split

theorem State.present_keeps {s : State} {c : Nat} {r : HiReq} (h_s : s.Keeps F I o T) (f_disp : F .disp = true)
    (f_hi : F .hi = true) :
    (State.present s c r).Keeps F I o T := by
  unfold State.present
  repeat' first
    | with_reducible assumption
    | with_reducible apply State.ownIssued_keeps
    | with_reducible apply State.setHiChan_keeps
    | refine State.Keeps.fst (by with_reducible assumption) ?_
    | refine State.Keeps.snd (by with_reducible assumption) ?_
    | refine State.Keeps.snd2 (by with_reducible assumption) ?_
    | refine State.Keeps.snd3 (by with_reducible assumption) ?_
    | split
    | dsimp only

theorem State.peerGot_keeps {s : State} {c : Nat} {psn : Nat} {a : Nat} {data : Bytes} (h_s : s.Keeps F I o T)
    (f_peer : F .peer = true) :
    (State.peerGot s c psn a data).Keeps F I o T := by
  unfold State.peerGot
  repeat' first
    | with_reducible assumption
    | with_reducible apply State.sendSeq_keeps
    | with_reducible apply State.serve_keeps
    | with_reducible apply State.setConn_keeps
    | refine State.Keeps.fst (by with_reducible assumption) ?_
    | refine State.Keeps.snd (by with_reducible assumption) ?_
    | refine State.Keeps.snd2 (by with_reducible assumption) ?_
    | refine State.Keeps.snd3 (by with_reducible assumption) ?_
    | split
    | dsimp only

theorem State.answer_keeps {s : State} {r : HiReq} {data : Bytes} (h_s : s.Keeps F I o T)
    (f_fresh : F .fresh = true) (f_notices : F .notices = true) (f_mem : F .mem = true) (f_wild : F .wild = true)
        (f_disp : F .disp = true) (f_eng : F .eng = true) (f_arr : F .arr = true) (f_net : F .net = true)
            (f_mov : F .mov = true) (f_hi : F .hi = true) (f_peer : F .peer = true) (f_porters : F .porters = true)
                (f_obs : F .obs = true) :
    (State.answer s r data).Keeps F I o T := by
  unfold State.answer
  repeat' first
    | with_reducible assumption
    | with_reducible apply State.chanGot_keeps
    | with_reducible apply State.coldGot_keeps
    | with_reducible apply State.modChan_keeps
    | with_reducible apply State.modWork_keeps
    | with_reducible apply State.peerGot_keeps
    | with_reducible apply State.setRing_keeps
    | split

theorem State.retire_keeps {s : State} {c : Nat} {id : Nat} (h_s : s.Keeps F I o T) (f_hi : F .hi = true) :
    (State.retire s c id).Keeps F I o T := by
  unfold State.retire
  repeat' first
    | with_reducible assumption
    | with_reducible apply State.setHiChan_keeps
    | split

theorem State.countResp_keeps {s : State} {resp : Resp} (h_s : s.Keeps F I o T) (f_obs : F .obs = true) :
    (State.countResp s resp).Keeps F I o T := by
  unfold State.countResp
  repeat' first
    | with_reducible assumption
    | with_reducible apply State.count_keeps
    | with_reducible apply State.denied_keeps
    | split

theorem State.epochEnd_keeps {s : State} {w : Nat} {k : Work} (h_s : s.Keeps F I o T) (f_wild : F .wild = true)
    (f_disp : F .disp = true) (f_eng : F .eng = true) (f_arr : F .arr = true) (f_net : F .net = true)
        (f_mov : F .mov = true) (f_peer : F .peer = true) (f_porters : F .porters = true) (f_obs : F .obs = true) :
    (State.epochEnd s w k).Keeps F I o T := by
  unfold State.epochEnd
  repeat' first
    | with_reducible assumption
    | with_reducible apply State.endWork_keeps
    | with_reducible apply State.modWork_keeps
    | refine State.Keeps.fst (by with_reducible assumption) ?_
    | refine State.Keeps.snd (by with_reducible assumption) ?_
    | refine State.Keeps.snd2 (by with_reducible assumption) ?_
    | refine State.Keeps.snd3 (by with_reducible assumption) ?_
    | split
    | dsimp only

theorem State.discard_keeps {s : State} {r : HiReq} (h_s : s.Keeps F I o T) (f_disp : F .disp = true)
    (f_mov : F .mov = true) (f_peer : F .peer = true) (f_porters : F .porters = true) (f_obs : F .obs = true) :
    (State.discard s r).Keeps F I o T := by
  unfold State.discard
  repeat' first
    | with_reducible assumption
    | with_reducible apply State.modChan_keeps
    | with_reducible apply State.ownAcked_keeps
    | with_reducible apply State.ownIssued_keeps
    | split

theorem State.resetChannel_keeps {s : State} {lost : List Nat} {c : Nat} (h_s : s.Keeps F I o T)
    (f_disp : F .disp = true) (f_mov : F .mov = true) (f_hi : F .hi = true) (f_peer : F .peer = true)
        (f_porters : F .porters = true) (f_obs : F .obs = true) :
    (State.resetChannel s lost c).Keeps F I o T := by
  unfold State.resetChannel
  repeat' first
    | with_reducible assumption
    | (with_reducible refine State.each_keeps ?_ fun _ _ _ => ?_)
    | with_reducible apply State.discard_keeps
    | with_reducible apply State.ownAcked_keeps
    | with_reducible apply State.setHiChan_keeps
    | split

theorem State.dropPacket_keeps {s : State} {p : Nat} {k : PeerRx} {j : Nat} (h_s : s.Keeps F I o T)
    (f_fresh : F .fresh = true) (f_notices : F .notices = true) (f_obs : F .obs = true) :
    (State.dropPacket s p k j).Keeps F I o T := by
  unfold State.dropPacket
  repeat' first
    | with_reducible assumption
    | with_reducible apply State.count_keeps
    | with_reducible apply State.raise_keeps
    | with_reducible apply State.tallyNotice_keeps
    | split

end Sys2Proof.Machine
end

