-- ==== Sys2Proof/Laws/KeepsParts.lean ====
section
/-! SUPPORT. What each operation of the mover, the ports, the links, the Porters, the Storekeeper and the slots may
      change, and what
it keeps. -/

namespace Sys2Proof.Machine

open Sys2Proof

variable {F : Part → Bool} {I : Prop} {o : State} {T : List TileSt}

theorem State.resend_keeps {s : State} {c : Nat} {psn : Nat} (h_s : s.Keeps F I o T) (f_peer : F .peer = true) :
    (State.resend s c psn).Keeps F I o T := by
  unfold State.resend
  repeat' first
    | with_reducible assumption
    | with_reducible apply State.setPort_keeps
    | split

theorem State.applyAck_keeps {s : State} {c : Nat} {ack : Nat} {sack : Nat} (h_s : s.Keeps F I o T)
    (f_peer : F .peer = true) :
    (State.applyAck s c ack sack).Keeps F I o T := by
  unfold State.applyAck
  repeat' first
    | with_reducible assumption
    | (with_reducible refine State.each_keeps ?_ fun _ _ _ => ?_)
    | with_reducible apply State.drainSeq_keeps
    | with_reducible apply State.resend_keeps
    | with_reducible apply State.setBits_keeps
    | with_reducible apply State.setConn_keeps
    | with_reducible apply State.setPort_keeps
    | split

theorem State.recordPsn_keeps {s : State} {c : Nat} {psn : Nat} (h_s : s.Keeps F I o T) (f_peer : F .peer = true) :
    (State.recordPsn s c psn).Keeps F I o T := by
  unfold State.recordPsn
  repeat' first
    | with_reducible assumption
    | with_reducible apply State.record_keeps
    | with_reducible apply State.setConn_keeps
    | split

theorem State.sequenced_keeps {s : State} {p : Nat} {h : PeerHdr} {f : State → State} (h_s : s.Keeps F I o T)
    (h_f : ∀ a0, a0.Keeps F I o T → (f a0).Keeps F I o T) (f_peer : F .peer = true) (f_obs : F .obs = true) :
    (State.sequenced s p h f).Keeps F I o T := by
  unfold State.sequenced
  repeat' first
    | with_reducible assumption
    | with_reducible apply State.applyAck_keeps
    | with_reducible apply State.count_keeps
    | with_reducible apply State.dueAck_keeps
    | with_reducible apply State.recordPsn_keeps
    | with_reducible apply State.sendAck_keeps
    | with_reducible apply State.sendNak_keeps
    | with_reducible apply h_f
    | refine State.Keeps.fst (by with_reducible assumption) ?_
    | refine State.Keeps.snd (by with_reducible assumption) ?_
    | refine State.Keeps.snd2 (by with_reducible assumption) ?_
    | refine State.Keeps.snd3 (by with_reducible assumption) ?_
    | split
    | dsimp only

theorem State.applyWrite_keeps {s : State} {p : Nat} {h : PeerHdr} {data : Bytes} (h_s : s.Keeps F I o T)
    (f_fresh : F .fresh = true) (f_notices : F .notices = true) (f_mem : F .mem = true) (f_wild : F .wild = true)
        (f_disp : F .disp = true) (f_eng : F .eng = true) (f_arr : F .arr = true) (f_net : F .net = true)
            (f_mov : F .mov = true) (f_hi : F .hi = true) (f_peer : F .peer = true) (f_porters : F .porters = true)
                (f_obs : F .obs = true) :
    (State.applyWrite s p h data).Keeps F I o T := by
  unfold State.applyWrite
  repeat' first
    | with_reducible assumption
    | with_reducible apply State.count_keeps
    | with_reducible apply State.refuse_keeps
    | with_reducible apply State.writeOut_keeps
    | split

theorem State.applyReadReq_keeps {s : State} {p : Nat} {h : PeerHdr} (h_s : s.Keeps F I o T)
    (f_fresh : F .fresh = true) (f_notices : F .notices = true) (f_wild : F .wild = true) (f_disp : F .disp = true)
        (f_eng : F .eng = true) (f_arr : F .arr = true) (f_net : F .net = true) (f_mov : F .mov = true)
            (f_hi : F .hi = true) (f_peer : F .peer = true) (f_porters : F .porters = true) (f_obs : F .obs = true) :
    (State.applyReadReq s p h).Keeps F I o T := by
  unfold State.applyReadReq
  repeat' first
    | with_reducible assumption
    | with_reducible apply State.count_keeps
    | with_reducible apply State.readOut_keeps
    | with_reducible apply State.refuse_keeps
    | with_reducible apply State.sendSeq_keeps
    | with_reducible apply State.serve_keeps
    | with_reducible apply State.setConn_keeps
    | refine State.Keeps.fst (by with_reducible assumption) ?_
    | refine State.Keeps.snd (by with_reducible assumption) ?_
    | refine State.Keeps.snd2 (by with_reducible assumption) ?_
    | refine State.Keeps.snd3 (by with_reducible assumption) ?_
    | split
    | dsimp only

theorem State.giveParts_keeps {s : State} {l : List PeerWant} {data : Bytes} (h_s : s.Keeps F I o T)
    (f_fresh : F .fresh = true) (f_notices : F .notices = true) (f_mem : F .mem = true) (f_wild : F .wild = true)
        (f_disp : F .disp = true) (f_eng : F .eng = true) (f_arr : F .arr = true) (f_net : F .net = true)
            (f_mov : F .mov = true) (f_hi : F .hi = true) (f_peer : F .peer = true) (f_porters : F .porters = true)
                (f_obs : F .obs = true) :
    (s.giveParts l data).Keeps F I o T := by
  induction l generalizing s data with
  | nil => exact h_s
  | cons r rs ih =>
    unfold State.giveParts
    repeat' first
      | with_reducible assumption
      | with_reducible exact OutK.refused _
      | with_reducible apply OutK.next
      | with_reducible exact OptK.none
      | with_reducible apply OptK.some
      | with_reducible apply ih
      | with_reducible apply State.chanGot_keeps
      | with_reducible apply State.modChan_keeps
      | refine State.Keeps.fst (by with_reducible assumption) ?_
      | refine State.Keeps.snd (by with_reducible assumption) ?_
      | refine State.Keeps.snd2 (by with_reducible assumption) ?_
      | refine State.Keeps.snd3 (by with_reducible assumption) ?_
      | split
      | with_reducible intro a_
      | dsimp only

theorem State.applyReadResp_keeps {s : State} {p : Nat} {h : PeerHdr} {data : Bytes} (h_s : s.Keeps F I o T)
    (f_fresh : F .fresh = true) (f_notices : F .notices = true) (f_mem : F .mem = true) (f_wild : F .wild = true)
        (f_disp : F .disp = true) (f_eng : F .eng = true) (f_arr : F .arr = true) (f_net : F .net = true)
            (f_mov : F .mov = true) (f_hi : F .hi = true) (f_peer : F .peer = true) (f_porters : F .porters = true)
                (f_obs : F .obs = true) :
    (State.applyReadResp s p h data).Keeps F I o T := by
  unfold State.applyReadResp
  try dsimp only
  repeat' first
    | with_reducible assumption
    | with_reducible apply State.count_keeps
    | with_reducible apply State.giveParts_keeps
    | with_reducible apply State.setConn_keeps
    | refine State.Keeps.fst (by with_reducible assumption) ?_
    | refine State.Keeps.snd (by with_reducible assumption) ?_
    | refine State.Keeps.snd2 (by with_reducible assumption) ?_
    | refine State.Keeps.snd3 (by with_reducible assumption) ?_
    | split
    | with_reducible intro a_
    | dsimp only
    | with_reducible refine ⟨?_, ?_, ?_⟩
    | with_reducible rfl
    | apply Tab.wf_set
    | apply Tab.wf_filter
    | apply Tab.wf_modify
    | apply Memory.wf_put
    | apply Memory.wf_write
    | with_reducible refine State.Keeps.mem (F := F) (o := o) (T := T) ?_ (by assumption)
    | with_reducible refine State.Keeps.regs (F := F) (o := o) (T := T) ?_ (by assumption)
    | with_reducible refine State.Keeps.notices (F := F) (o := o) (T := T) ?_ (by assumption)
    | with_reducible refine State.Keeps.counters (F := F) (o := o) (T := T) ?_ (by assumption)
    | with_reducible refine State.Keeps.drops (F := F) (o := o) (T := T) ?_ (by assumption)
    | with_reducible refine State.Keeps.epoch (F := F) (o := o) (T := T) ?_ (by assumption)
    | with_reducible refine State.Keeps.generation (F := F) (o := o) (T := T) ?_ (by assumption)
    | with_reducible refine State.Keeps.prod (F := F) (o := o) (T := T) ?_ (by assumption)
    | with_reducible refine State.Keeps.log (F := F) (o := o) (T := T) ?_ (by assumption)
    | with_reducible refine State.Keeps.tiles (F := F) (I := I) (o := o) ?_
    | exact Nat.mod_lt _ (by decide)
    | (simp_all; done)
    | (simp_all; omega)

theorem State.applyNak_keeps {s : State} {p : Nat} {h : PeerHdr} (h_s : s.Keeps F I o T) (f_fresh : F .fresh = true)
    (f_notices : F .notices = true) (f_wild : F .wild = true) (f_disp : F .disp = true) (f_eng : F .eng = true)
        (f_arr : F .arr = true) (f_net : F .net = true) (f_mov : F .mov = true) (f_peer : F .peer = true)
            (f_porters : F .porters = true) (f_obs : F .obs = true) :
    (State.applyNak s p h).Keeps F I o T := by
  unfold State.applyNak
  repeat' first
    | with_reducible assumption
    | (with_reducible refine State.each_keeps ?_ fun _ _ _ => ?_)
    | with_reducible apply State.count_keeps
    | with_reducible apply State.denied_keeps
    | with_reducible apply State.drainSeq_keeps
    | with_reducible apply State.failWrite_keeps
    | with_reducible apply State.modChan_keeps
    | with_reducible apply State.setConn_keeps
    | refine State.Keeps.fst (by with_reducible assumption) ?_
    | refine State.Keeps.snd (by with_reducible assumption) ?_
    | refine State.Keeps.snd2 (by with_reducible assumption) ?_
    | refine State.Keeps.snd3 (by with_reducible assumption) ?_
    | split
    | dsimp only

theorem State.peerData_keeps {s : State} {p : Nat} {pkt : PeerRx} (h_s : s.Keeps F I o T)
    (f_fresh : F .fresh = true) (f_notices : F .notices = true) (f_mem : F .mem = true) (f_wild : F .wild = true)
        (f_disp : F .disp = true) (f_eng : F .eng = true) (f_arr : F .arr = true) (f_net : F .net = true)
            (f_mov : F .mov = true) (f_hi : F .hi = true) (f_peer : F .peer = true) (f_porters : F .porters = true)
                (f_obs : F .obs = true) :
    (State.peerData s p pkt).Keeps F I o T := by
  unfold State.peerData
  try dsimp only
  repeat' first
    | with_reducible assumption
    | with_reducible apply State.applyAck_keeps
    | with_reducible apply State.applyNak_keeps
    | with_reducible apply State.applyReadReq_keeps
    | with_reducible apply State.applyReadResp_keeps
    | with_reducible apply State.applyWrite_keeps
    | with_reducible apply State.count_keeps
    | with_reducible apply State.sequenced_keeps
    | refine State.Keeps.fst (by with_reducible assumption) ?_
    | refine State.Keeps.snd (by with_reducible assumption) ?_
    | refine State.Keeps.snd2 (by with_reducible assumption) ?_
    | refine State.Keeps.snd3 (by with_reducible assumption) ?_
    | split
    | with_reducible intro a_
    | dsimp only
    | with_reducible rfl
    | (simp_all; done)

theorem State.peerMgmt_keeps {s : State} {p : Nat} {pkt : PeerRx} (h_s : s.Keeps F I o T)
    (f_fresh : F .fresh = true) (f_notices : F .notices = true) (f_mem : F .mem = true) (f_peer : F .peer = true)
        (f_sk : F .sk = true) (f_obs : F .obs = true) :
    (State.peerMgmt s p pkt).Keeps F I o T := by
  unfold State.peerMgmt
  try dsimp only
  repeat' first
    | with_reducible assumption
    | with_reducible apply State.count_keeps
    | with_reducible apply State.log_keeps
    | with_reducible apply State.modSk_keeps
    | with_reducible apply State.raise_keeps
    | with_reducible apply State.setPort_keeps
    | with_reducible apply State.tallyNotice_keeps
    | refine State.Keeps.fst (by with_reducible assumption) ?_
    | refine State.Keeps.snd (by with_reducible assumption) ?_
    | refine State.Keeps.snd2 (by with_reducible assumption) ?_
    | refine State.Keeps.snd3 (by with_reducible assumption) ?_
    | split
    | with_reducible intro a_
    | dsimp only
    | with_reducible rfl
    | (simp_all; done)

theorem State.holdPacket_keeps {s : State} {p : Nat} {pkt : PeerRx} (h_s : s.Keeps F I o T)
    (f_peer : F .peer = true) :
    (State.holdPacket s p pkt).Keeps F I o T := by
  unfold State.holdPacket
  repeat' first
    | with_reducible assumption
    | with_reducible apply State.setPort_keeps
    | split

theorem State.receive_keeps {s : State} {p : Nat} {pkt : PeerRx} {ty : Nat} (h_s : s.Keeps F I o T)
    (f_fresh : F .fresh = true) (f_notices : F .notices = true) (f_mem : F .mem = true) (f_wild : F .wild = true)
        (f_disp : F .disp = true) (f_eng : F .eng = true) (f_arr : F .arr = true) (f_net : F .net = true)
            (f_mov : F .mov = true) (f_hi : F .hi = true) (f_peer : F .peer = true) (f_porters : F .porters = true)
                (f_sk : F .sk = true) (f_obs : F .obs = true) :
    OutK F I o T (State.receive s p pkt ty) := by
  unfold State.receive
  repeat' first
    | with_reducible assumption
    | with_reducible exact OutK.refused _
    | with_reducible apply OutK.next
    | with_reducible apply State.dropPacket_keeps
    | with_reducible apply State.holdPacket_keeps
    | with_reducible apply State.peerData_keeps
    | with_reducible apply State.peerMgmt_keeps
    | split

theorem State.releasePeers_keeps {s : State} {mgmt : Bool} (h_s : s.Keeps F I o T) (f_fresh : F .fresh = true)
    (f_notices : F .notices = true) (f_mem : F .mem = true) (f_wild : F .wild = true) (f_disp : F .disp = true)
        (f_eng : F .eng = true) (f_arr : F .arr = true) (f_net : F .net = true) (f_mov : F .mov = true)
            (f_hi : F .hi = true) (f_peer : F .peer = true) (f_porters : F .porters = true) (f_sk : F .sk = true)
                (f_obs : F .obs = true) :
    (State.releasePeers s mgmt).Keeps F I o T := by
  unfold State.releasePeers
  repeat' first
    | with_reducible assumption
    | (with_reducible refine State.each_keeps ?_ fun _ _ _ => ?_)
    | with_reducible apply State.peerData_keeps
    | with_reducible apply State.peerMgmt_keeps
    | with_reducible apply State.setPort_keeps
    | split

theorem State.startPacket_keeps {s : State} {p : Nat} {x : PeerTx} {payload : Bytes} {again : Bool}
    (h_s : s.Keeps F I o T) (f_peer : F .peer = true) (f_obs : F .obs = true) :
    (State.startPacket s p x payload again).Keeps F I o T := by
  unfold State.startPacket
  repeat' first
    | with_reducible assumption
    | (with_reducible refine State.each_keeps ?_ fun _ _ _ => ?_)
    | with_reducible apply State.count_keeps
    | with_reducible apply State.setPort_keeps
    | split

theorem State.laneErrors_keeps {s : State} {n : Nat} {d : Dir} {err : Bytes} (h_s : s.Keeps F I o T)
    (f_obs : F .obs = true) :
    (State.laneErrors s n d err).Keeps F I o T := by
  unfold State.laneErrors
  repeat' first
    | with_reducible assumption
    | (with_reducible refine State.each_keeps ?_ fun _ _ _ => ?_)
    | with_reducible apply State.countN_keeps
    | split

theorem State.flitAck_keeps {s : State} {n : Nat} {d : Dir} {h : FHdr} (h_s : s.Keeps F I o T)
    (f_net : F .net = true) :
    (State.flitAck s n d h).Keeps F I o T := by
  unfold State.flitAck
  repeat' first
    | with_reducible assumption
    | with_reducible apply State.count_keeps
    | with_reducible apply State.modDir_keeps
    | with_reducible apply State.resend_keeps
    | split

theorem State.dropFlit_keeps {s : State} {n : Nat} {d : Dir} (h_s : s.Keeps F I o T) (f_net : F .net = true) :
    (State.dropFlit s n d).Keeps F I o T := by
  unfold State.dropFlit
  repeat' first
    | with_reducible assumption
    | with_reducible apply State.modDir_keeps
    | split

theorem State.payload_keeps {s : State} {n : Nat} {d : Dir} {ty : Nat} {f : Flit} {b : Bytes}
    (h_s : s.Keeps F I o T) (f_net : F .net = true) :
    (State.payload s n d ty f b).Keeps F I o T := by
  unfold State.payload
  repeat' first
    | with_reducible assumption
    | with_reducible apply State.modDir_keeps
    | split

theorem State.rxFlit_keeps {s : State} {n : Nat} {d : Dir} {ty : Nat} {err : Bytes} {f : FHdr → Bytes → State →
    State} (h_s : s.Keeps F I o T) (h_f : ∀ a0 a1 a2, a2.Keeps F I o T → (f a0 a1 a2).Keeps F I o T)
        (f_net : F .net = true) (f_obs : F .obs = true) :
    OutK F I o T (State.rxFlit s n d ty err f) := by
  unfold State.rxFlit
  repeat' first
    | with_reducible assumption
    | with_reducible exact OutK.refused _
    | with_reducible apply OutK.next
    | with_reducible apply State.dropFlit_keeps
    | with_reducible apply State.flitAck_keeps
    | with_reducible apply State.laneErrors_keeps
    | with_reducible apply State.modDir_keeps
    | with_reducible apply State.payload_keeps
    | with_reducible apply h_f
    | refine State.Keeps.fst (by with_reducible assumption) ?_
    | refine State.Keeps.snd (by with_reducible assumption) ?_
    | refine State.Keeps.snd2 (by with_reducible assumption) ?_
    | refine State.Keeps.snd3 (by with_reducible assumption) ?_
    | split
    | dsimp only

theorem State.enterRetrain_keeps {s : State} {n : Nat} (h_s : s.Keeps F I o T) (f_net : F .net = true)
    (f_obs : F .obs = true) :
    (State.enterRetrain s n).Keeps F I o T := by
  unfold State.enterRetrain
  repeat' first
    | with_reducible assumption
    | with_reducible apply State.count_keeps
    | with_reducible apply State.keepBank_keeps
    | with_reducible apply State.modLink_keeps
    | split

theorem State.rewindAndPark_keeps {s : State} {w : Nat} {cause : Nat} {c : ParkCause} (h_s : s.Keeps F I o T)
    (f_fresh : F .fresh = true) (f_notices : F .notices = true) (f_mem : F .mem = true) (f_disp : F .disp = true)
        (f_eng : F .eng = true) (f_arr : F .arr = true) (f_net : F .net = true) (f_mov : F .mov = true)
            (f_peer : F .peer = true) (f_porters : F .porters = true) (f_sk : F .sk = true) (f_obs : F .obs = true) :
    (State.rewindAndPark s w cause c).Keeps F I o T := by
  unfold State.rewindAndPark
  repeat' first
    | with_reducible assumption
    | with_reducible apply State.park_keeps
    | with_reducible apply State.replayPorterTask_keeps
    | with_reducible apply State.rewindWork_keeps
    | refine State.Keeps.fst (by with_reducible assumption) ?_
    | refine State.Keeps.snd (by with_reducible assumption) ?_
    | refine State.Keeps.snd2 (by with_reducible assumption) ?_
    | refine State.Keeps.snd3 (by with_reducible assumption) ?_
    | split
    | dsimp only

theorem State.linkDown_keeps {s : State} {n : Nat} (h_s : s.Keeps F I o T) (f_fresh : F .fresh = true)
    (f_notices : F .notices = true) (f_mem : F .mem = true) (f_disp : F .disp = true) (f_eng : F .eng = true)
        (f_arr : F .arr = true) (f_net : F .net = true) (f_mov : F .mov = true) (f_peer : F .peer = true)
            (f_porters : F .porters = true) (f_sk : F .sk = true) (f_obs : F .obs = true) :
    (State.linkDown s n).Keeps F I o T := by
  unfold State.linkDown
  repeat' first
    | with_reducible assumption
    | (with_reducible refine State.each_keeps ?_ fun _ _ _ => ?_)
    | with_reducible apply State.count_keeps
    | with_reducible apply State.dropPart_keeps
    | with_reducible apply State.dropPending_keeps
    | with_reducible apply State.eachEngine_keeps
    | with_reducible apply State.keepBank_keeps
    | with_reducible apply State.modAgent_keeps
    | with_reducible apply State.modLink_keeps
    | with_reducible apply State.notice_keeps
    | with_reducible apply State.repin_keeps
    | with_reducible apply State.rewindAndPark_keeps
    | with_reducible apply State.tally_keeps
    | split

theorem State.reportHalf_keeps {s : State} {n : Nat} (h_s : s.Keeps F I o T) (f_fresh : F .fresh = true)
    (f_notices : F .notices = true) (f_mem : F .mem = true) (f_sk : F .sk = true) (f_obs : F .obs = true) :
    (State.reportHalf s n).Keeps F I o T := by
  unfold State.reportHalf
  repeat' first
    | with_reducible assumption
    | with_reducible apply State.notice_keeps
    | with_reducible apply State.report_keeps
    | refine State.Keeps.fst (by with_reducible assumption) ?_
    | refine State.Keeps.snd (by with_reducible assumption) ?_
    | refine State.Keeps.snd2 (by with_reducible assumption) ?_
    | refine State.Keeps.snd3 (by with_reducible assumption) ?_
    | split
    | dsimp only

theorem State.logCheck_keeps {s : State} {n : Nat} (h_s : s.Keeps F I o T) (f_fresh : F .fresh = true)
    (f_notices : F .notices = true) (f_mem : F .mem = true) (f_net : F .net = true) (f_obs : F .obs = true) :
    (State.logCheck s n).Keeps F I o T := by
  unfold State.logCheck
  repeat' first
    | with_reducible assumption
    | (with_reducible refine State.each_keeps ?_ fun _ _ _ => ?_)
    | with_reducible apply State.beginRefresh_keeps
    | with_reducible apply State.count_keeps
    | with_reducible apply State.raise_keeps
    | with_reducible apply State.store_keeps
    | split

theorem State.contentsLost_keeps {s : State} {st : Nat} (h_s : s.Keeps F I o T) (f_fresh : F .fresh = true)
    (f_notices : F .notices = true) (f_mem : F .mem = true) (f_disp : F .disp = true) (f_eng : F .eng = true)
        (f_arr : F .arr = true) (f_net : F .net = true) (f_mov : F .mov = true) (f_peer : F .peer = true)
            (f_porters : F .porters = true) (f_sk : F .sk = true) (f_obs : F .obs = true) :
    (State.contentsLost s st).Keeps F I o T := by
  unfold State.contentsLost
  repeat' first
    | with_reducible assumption
    | (with_reducible refine State.each_keeps ?_ fun _ _ _ => ?_)
    | with_reducible apply State.modAgent_keeps
    | with_reducible apply State.modWork_keeps
    | with_reducible apply State.report_keeps
    | with_reducible apply State.rewindAndPark_keeps
    | split

theorem State.coldLog_keeps {s : State} {n : Nat} (h_s : s.Keeps F I o T) (f_mem : F .mem = true)
    (f_net : F .net = true) :
    (State.coldLog s n).Keeps F I o T := by
  unfold State.coldLog
  repeat' first
    | with_reducible assumption
    | with_reducible apply State.clearRange_keeps
    | with_reducible apply State.modAgent_keeps
    | split

theorem State.writeMarker_keeps {s : State} {n : Nat} (h_s : s.Keeps F I o T) (f_fresh : F .fresh = true)
    (f_mem : F .mem = true) (f_net : F .net = true) :
    (State.writeMarker s n).Keeps F I o T := by
  unfold State.writeMarker
  repeat' first
    | with_reducible assumption
    | with_reducible apply State.coldLog_keeps
    | with_reducible apply State.draw_keeps
    | with_reducible apply State.drawBytes_keeps
    | with_reducible apply State.modAgent_keeps
    | with_reducible apply State.store_keeps
    | split

theorem State.agentReturns_keeps {s : State} {n : Nat} (h_s : s.Keeps F I o T) (f_fresh : F .fresh = true)
    (f_notices : F .notices = true) (f_mem : F .mem = true) (f_disp : F .disp = true) (f_eng : F .eng = true)
        (f_arr : F .arr = true) (f_net : F .net = true) (f_mov : F .mov = true) (f_peer : F .peer = true)
            (f_porters : F .porters = true) (f_sk : F .sk = true) (f_obs : F .obs = true) :
    (State.agentReturns s n).Keeps F I o T := by
  unfold State.agentReturns
  repeat' first
    | with_reducible assumption
    | with_reducible apply State.coldLog_keeps
    | with_reducible apply State.contentsLost_keeps
    | with_reducible apply State.logCheck_keeps
    | with_reducible apply State.mirrorGo_keeps
    | with_reducible apply State.writeMarker_keeps
    | split

theorem State.installRemaps_keeps {s : State} {n : Nat} (h_s : s.Keeps F I o T) (f_net : F .net = true) :
    (State.installRemaps s n).Keeps F I o T := by
  unfold State.installRemaps
  repeat' first
    | with_reducible assumption
    | with_reducible apply State.modAgent_keeps
    | split

theorem State.pinsGoOn_keeps {s : State} (h_s : s.Keeps F I o T) (f_eng : F .eng = true) (f_net : F .net = true)
    (f_sk : F .sk = true) :
    (State.pinsGoOn s).Keeps F I o T := by
  unfold State.pinsGoOn
  repeat' first
    | with_reducible assumption
    | (with_reducible refine State.each_keeps ?_ fun _ _ _ => ?_)
    | with_reducible apply State.nextMig_keeps
    | split

theorem State.copyUnit_keeps {s : State} {n : Nat} {unit : Nat} {frame : Nat} (h_s : s.Keeps F I o T)
    (f_fresh : F .fresh = true) (f_mem : F .mem = true) (f_sk : F .sk = true) (f_obs : F .obs = true) :
    (State.copyUnit s n unit frame).Keeps F I o T := by
  unfold State.copyUnit
  try dsimp only
  repeat' first
    | with_reducible assumption
    | with_reducible apply State.log_keeps
    | with_reducible apply State.modSk_keeps
    | with_reducible apply State.with_mem
    | refine State.Keeps.fst (by with_reducible assumption) ?_
    | refine State.Keeps.snd (by with_reducible assumption) ?_
    | refine State.Keeps.snd2 (by with_reducible assumption) ?_
    | refine State.Keeps.snd3 (by with_reducible assumption) ?_
    | split
    | with_reducible intro a_
    | dsimp only
    | with_reducible refine ⟨?_, ?_, ?_⟩
    | with_reducible rfl
    | apply Tab.wf_set
    | apply Tab.wf_filter
    | apply Tab.wf_modify
    | apply Memory.wf_put
    | apply Memory.wf_write
    | with_reducible refine State.Keeps.mem (F := F) (o := o) (T := T) ?_ (by assumption)
    | with_reducible refine State.Keeps.regs (F := F) (o := o) (T := T) ?_ (by assumption)
    | with_reducible refine State.Keeps.notices (F := F) (o := o) (T := T) ?_ (by assumption)
    | with_reducible refine State.Keeps.counters (F := F) (o := o) (T := T) ?_ (by assumption)
    | with_reducible refine State.Keeps.drops (F := F) (o := o) (T := T) ?_ (by assumption)
    | with_reducible refine State.Keeps.epoch (F := F) (o := o) (T := T) ?_ (by assumption)
    | with_reducible refine State.Keeps.generation (F := F) (o := o) (T := T) ?_ (by assumption)
    | with_reducible refine State.Keeps.prod (F := F) (o := o) (T := T) ?_ (by assumption)
    | with_reducible refine State.Keeps.log (F := F) (o := o) (T := T) ?_ (by assumption)
    | with_reducible refine State.Keeps.tiles (F := F) (I := I) (o := o) ?_
    | exact Nat.mod_lt _ (by decide)
    | (simp_all; done)
    | (simp_all; omega)

theorem State.addRemap_keeps {s : State} {n : Nat} {unit : Nat} {frame : Nat} (h_s : s.Keeps F I o T)
    (f_fresh : F .fresh = true) (f_notices : F .notices = true) (f_net : F .net = true) (f_obs : F .obs = true) :
    (State.addRemap s n unit frame).Keeps F I o T := by
  unfold State.addRemap
  try dsimp only
  repeat' first
    | with_reducible assumption
    | with_reducible apply State.count_keeps
    | with_reducible apply State.modAgent_keeps
    | with_reducible apply State.raise_keeps
    | with_reducible apply State.tally_keeps
    | refine State.Keeps.fst (by with_reducible assumption) ?_
    | refine State.Keeps.snd (by with_reducible assumption) ?_
    | refine State.Keeps.snd2 (by with_reducible assumption) ?_
    | refine State.Keeps.snd3 (by with_reducible assumption) ?_
    | split
    | with_reducible intro a_
    | dsimp only
    | with_reducible refine ⟨?_, ?_, ?_⟩
    | with_reducible rfl
    | apply Tab.wf_set
    | apply Tab.wf_filter
    | apply Tab.wf_modify
    | apply Memory.wf_put
    | apply Memory.wf_write
    | with_reducible refine State.Keeps.mem (F := F) (o := o) (T := T) ?_ (by assumption)
    | with_reducible refine State.Keeps.regs (F := F) (o := o) (T := T) ?_ (by assumption)
    | with_reducible refine State.Keeps.notices (F := F) (o := o) (T := T) ?_ (by assumption)
    | with_reducible refine State.Keeps.counters (F := F) (o := o) (T := T) ?_ (by assumption)
    | with_reducible refine State.Keeps.drops (F := F) (o := o) (T := T) ?_ (by assumption)
    | with_reducible refine State.Keeps.epoch (F := F) (o := o) (T := T) ?_ (by assumption)
    | with_reducible refine State.Keeps.generation (F := F) (o := o) (T := T) ?_ (by assumption)
    | with_reducible refine State.Keeps.prod (F := F) (o := o) (T := T) ?_ (by assumption)
    | with_reducible refine State.Keeps.log (F := F) (o := o) (T := T) ?_ (by assumption)
    | with_reducible refine State.Keeps.tiles (F := F) (I := I) (o := o) ?_
    | exact Nat.mod_lt _ (by decide)
    | (simp_all; done)
    | (simp_all; omega)

theorem State.freeBytes_keeps {s : State} {a n : Nat} (h_s : s.Keeps F I o T) (f_fresh : F .fresh = true)
    (f_mem : F .mem = true) : (s.freeBytes a n).Keeps F I o T := by
  unfold State.freeBytes
  refine State.each_keeps h_s fun s i h => ?_
  have h := State.draw_keeps h f_fresh
  exact State.with_mem h f_mem fun i => Memory.wf_put _ _ _ (h.mem i)

theorem State.refetch_keeps {s : State} {e : Nat × Nat × FSlot} (h_s : s.Keeps F I o T) (f_eng : F .eng = true)
    (f_net : F .net = true) :
    (State.refetch s e).Keeps F I o T := by
  unfold State.refetch
  repeat' first
    | with_reducible assumption
    | with_reducible apply State.modEngine_keeps
    | with_reducible apply State.queueMsg_keeps
    | split

theorem State.copyRow_keeps {s : State} {ch : Nat} {pos : Nat} {block : Nat} {td : TableDesc} {a : Nat}
    (h_s : s.Keeps F I o T) (f_mov : F .mov = true) :
    (State.copyRow s ch pos block td a).Keeps F I o T := by
  unfold State.copyRow
  repeat' first
    | with_reducible assumption
    | with_reducible apply State.queueHead_keeps
    | split

theorem State.unpark_keeps {s : State} {w : Nat} {c : ParkCause} (h_s : s.Keeps F I o T) (f_disp : F .disp = true) :
    (State.unpark s w c).Keeps F I o T := by
  unfold State.unpark
  repeat' first
    | with_reducible assumption
    | (with_reducible refine State.each_keeps ?_ fun _ _ _ => ?_)
    | with_reducible apply State.modWork_keeps
    | split

theorem State.takeCommits_keeps {s : State} {n : Nat} {partner : Nat} (h_s : s.Keeps F I o T)
    (f_notices : F .notices = true) (f_mem : F .mem = true) (f_disp : F .disp = true) (f_obs : F .obs = true) :
    (State.takeCommits s n partner).Keeps F I o T := by
  unfold State.takeCommits
  repeat' first
    | with_reducible assumption
    | (with_reducible refine State.each_keeps ?_ fun _ _ _ => ?_)
    | with_reducible apply State.count_keeps
    | with_reducible apply State.crateAcked_keeps
    | with_reducible apply State.markDone_keeps
    | with_reducible apply State.raise_keeps
    | with_reducible apply State.store_keeps
    | refine State.Keeps.fst (by with_reducible assumption) ?_
    | refine State.Keeps.snd (by with_reducible assumption) ?_
    | refine State.Keeps.snd2 (by with_reducible assumption) ?_
    | refine State.Keeps.snd3 (by with_reducible assumption) ?_
    | split
    | dsimp only

theorem State.dropHalf_keeps {s : State} {n : Nat} (h_s : s.Keeps F I o T) (f_eng : F .eng = true) :
    (State.dropHalf s n).Keeps F I o T := by
  unfold State.dropHalf
  repeat' first
    | with_reducible assumption
    | with_reducible apply State.eachEngine_keeps
    | split

theorem State.sendParts_keeps {s : State} {n : Nat} {d : Dir} {kind : Nat} {b : Bytes} (h_s : s.Keeps F I o T)
    (f_net : F .net = true) :
    (State.sendParts s n d kind b).Keeps F I o T := by
  unfold State.sendParts
  repeat' first
    | with_reducible assumption
    | (with_reducible refine State.each_keeps ?_ fun _ _ _ => ?_)
    | with_reducible apply State.drop_keeps
    | with_reducible apply State.sendMgmt_keeps
    | split

theorem State.mgmtIn_keeps {s : State} {n : Nat} {m : Msg} (h_s : s.Keeps F I o T) (f_fresh : F .fresh = true)
    (f_notices : F .notices = true) (f_mem : F .mem = true) (f_eng : F .eng = true) (f_net : F .net = true)
        (f_sk : F .sk = true) (f_obs : F .obs = true) :
    (State.mgmtIn s n m).Keeps F I o T := by
  unfold State.mgmtIn
  try dsimp only
  repeat' first
    | with_reducible assumption
    | with_reducible apply State.drop_keeps
    | with_reducible apply State.modAgent_keeps
    | with_reducible apply State.modSk_keeps
    | with_reducible apply State.pinsGoOn_keeps
    | with_reducible apply State.setLevel_keeps
    | with_reducible apply State.tally_keeps
    | with_reducible refine foldl_keeps (fun acc => State.Keeps acc F I o T) _ _ _ ?_ fun _ _ _ => ?_
    | with_reducible refine foldl_keeps (fun acc => State.Keeps acc.1 F I o T) _ _ _ ?_ fun _ _ _ => ?_
    | with_reducible refine foldl_keeps (fun acc => State.Keeps acc.2 F I o T) _ _ _ ?_ fun _ _ _ => ?_
    | with_reducible refine foldl_keeps (fun acc => State.Keeps acc.2.2 F I o T) _ _ _ ?_ fun _ _ _ => ?_
    | refine State.Keeps.fst (by with_reducible assumption) ?_
    | refine State.Keeps.snd (by with_reducible assumption) ?_
    | refine State.Keeps.snd2 (by with_reducible assumption) ?_
    | refine State.Keeps.snd3 (by with_reducible assumption) ?_
    | split
    | with_reducible intro a_
    | dsimp only
    | with_reducible rfl
    | (simp_all; done)

theorem State.tellPartner_keeps {s : State} {n : Nat} {unit : Nat} {frame : Nat} (h_s : s.Keeps F I o T)
    (f_net : F .net = true) :
    (State.tellPartner s n unit frame).Keeps F I o T := by
  unfold State.tellPartner
  repeat' first
    | with_reducible assumption
    | with_reducible apply State.sendMgmt_keeps
    | refine State.Keeps.fst (by with_reducible assumption) ?_
    | refine State.Keeps.snd (by with_reducible assumption) ?_
    | refine State.Keeps.snd2 (by with_reducible assumption) ?_
    | refine State.Keeps.snd3 (by with_reducible assumption) ?_
    | split
    | dsimp only

theorem State.takeRemap_keeps {s : State} {n : Nat} {unit : Nat} {frame : Nat} (h_s : s.Keeps F I o T)
    (f_fresh : F .fresh = true) (f_notices : F .notices = true) (f_mem : F .mem = true) (f_net : F .net = true)
        (f_sk : F .sk = true) (f_obs : F .obs = true) :
    (State.takeRemap s n unit frame).Keeps F I o T := by
  unfold State.takeRemap
  repeat' first
    | with_reducible assumption
    | with_reducible apply State.addRemap_keeps
    | with_reducible apply State.copyUnit_keeps
    | refine State.Keeps.fst (by with_reducible assumption) ?_
    | refine State.Keeps.snd (by with_reducible assumption) ?_
    | refine State.Keeps.snd2 (by with_reducible assumption) ?_
    | refine State.Keeps.snd3 (by with_reducible assumption) ?_
    | split
    | dsimp only

theorem State.takeRecovery_keeps {s : State} {n : Nat} {unit : Nat} {frame : Nat} {x : Nat} (h_s : s.Keeps F I o T)
    (f_fresh : F .fresh = true) (f_notices : F .notices = true) (f_mem : F .mem = true) (f_eng : F .eng = true)
        (f_net : F .net = true) (f_sk : F .sk = true) (f_obs : F .obs = true) :
    (State.takeRecovery s n unit frame x).Keeps F I o T := by
  unfold State.takeRecovery
  repeat' first
    | with_reducible assumption
    | (with_reducible refine State.each_keeps ?_ fun _ _ _ => ?_)
    | with_reducible apply State.modAgent_keeps
    | with_reducible apply State.refetch_keeps
    | with_reducible apply State.store_keeps
    | with_reducible apply State.takeRemap_keeps
    | refine State.Keeps.fst (by with_reducible assumption) ?_
    | refine State.Keeps.snd (by with_reducible assumption) ?_
    | refine State.Keeps.snd2 (by with_reducible assumption) ?_
    | refine State.Keeps.snd3 (by with_reducible assumption) ?_
    | split
    | dsimp only

theorem State.copyMig_keeps {s : State} {n : Nat} {g : Migration} (h_s : s.Keeps F I o T) (f_net : F .net = true)
    (f_mov : F .mov = true) :
    (State.copyMig s n g).Keeps F I o T := by
  unfold State.copyMig
  repeat' first
    | with_reducible assumption
    | with_reducible apply State.copyRow_keeps
    | with_reducible apply State.modAgent_keeps
    | split

theorem State.takeRemoval_keeps {s : State} {n : Nat} {p : Nat} {a : Nat} (h_s : s.Keeps F I o T)
    (f_net : F .net = true) :
    (State.takeRemoval s n p a).Keeps F I o T := by
  unfold State.takeRemoval
  repeat' first
    | with_reducible assumption
    | with_reducible apply State.modAgent_keeps
    | refine State.Keeps.fst (by with_reducible assumption) ?_
    | refine State.Keeps.snd (by with_reducible assumption) ?_
    | refine State.Keeps.snd2 (by with_reducible assumption) ?_
    | refine State.Keeps.snd3 (by with_reducible assumption) ?_
    | split
    | dsimp only

theorem State.mgmtOut_keeps {s : State} {n : Nat} {m : Msg} (h_s : s.Keeps F I o T) (f_fresh : F .fresh = true)
    (f_notices : F .notices = true) (f_mem : F .mem = true) (f_eng : F .eng = true) (f_net : F .net = true)
        (f_mov : F .mov = true) (f_sk : F .sk = true) (f_obs : F .obs = true) :
    (State.mgmtOut s n m).Keeps F I o T := by
  unfold State.mgmtOut
  repeat' first
    | with_reducible assumption
    | with_reducible apply State.copyMig_keeps
    | with_reducible apply State.drop_keeps
    | with_reducible apply State.modAgent_keeps
    | with_reducible apply State.takeRecovery_keeps
    | with_reducible apply State.takeRemap_keeps
    | with_reducible apply State.takeRemoval_keeps
    | refine State.Keeps.fst (by with_reducible assumption) ?_
    | refine State.Keeps.snd (by with_reducible assumption) ?_
    | refine State.Keeps.snd2 (by with_reducible assumption) ?_
    | refine State.Keeps.snd3 (by with_reducible assumption) ?_
    | split
    | dsimp only

theorem State.takeMgmt_keeps {s : State} {n : Nat} {d : Dir} (h_s : s.Keeps F I o T) (f_fresh : F .fresh = true)
    (f_notices : F .notices = true) (f_mem : F .mem = true) (f_eng : F .eng = true) (f_net : F .net = true)
        (f_mov : F .mov = true) (f_sk : F .sk = true) (f_obs : F .obs = true) :
    (State.takeMgmt s n d).Keeps F I o T := by
  unfold State.takeMgmt
  repeat' first
    | with_reducible assumption
    | (with_reducible refine State.each_keeps ?_ fun _ _ _ => ?_)
    | with_reducible apply State.mgmtIn_keeps
    | with_reducible apply State.mgmtOut_keeps
    | with_reducible apply State.pop_keeps
    | split

theorem State.waitMiss_keeps {s : State} {m : Nat} (h_s : s.Keeps F I o T) (f_porters : F .porters = true) :
    (State.waitMiss s m).Keeps F I o T := by
  unfold State.waitMiss
  repeat' first
    | with_reducible assumption
    | with_reducible apply State.modPorter_keeps
    | split

theorem Running.broken_keeps {r : Running} {s : State} (h_s : s.Keeps F I o T) (f_fresh : F .fresh = true)
    (f_wild : F .wild = true) (f_disp : F .disp = true) (f_eng : F .eng = true) (f_arr : F .arr = true)
        (f_net : F .net = true) (f_mov : F .mov = true) (f_peer : F .peer = true) (f_porters : F .porters = true)
            (f_obs : F .obs = true) :
    OutK F I o T (Running.broken r s) := by
  unfold Running.broken
  repeat' first
    | with_reducible assumption
    | with_reducible exact OutK.refused _
    | with_reducible apply OutK.next
    | with_reducible apply State.openWork_keeps
    | split

theorem State.insn_keeps {s : State} {m : Nat} {is : Nat → Bool} {f : Running → Out} (h_s : s.Keeps F I o T)
    (h_f : ∀ a0, OutK F I o T (f a0)) (f_fresh : F .fresh = true) (f_wild : F .wild = true)
        (f_disp : F .disp = true) (f_eng : F .eng = true) (f_arr : F .arr = true) (f_net : F .net = true)
            (f_mov : F .mov = true) (f_peer : F .peer = true) (f_porters : F .porters = true)
                (f_obs : F .obs = true) :
    OutK F I o T (State.insn s m is f) := by
  unfold State.insn
  repeat' first
    | with_reducible assumption
    | with_reducible exact OutK.refused _
    | with_reducible apply OutK.next
    | with_reducible apply State.miss_keeps
    | with_reducible apply State.openWork_keeps
    | with_reducible apply State.waitMiss_keeps
    | with_reducible apply h_f
    | split

theorem State.retireTo_keeps {s : State} {m : Nat} {pc : Nat} (h_s : s.Keeps F I o T)
    (f_porters : F .porters = true) (f_obs : F .obs = true) :
    (State.retireTo s m pc).Keeps F I o T := by
  unfold State.retireTo
  repeat' first
    | with_reducible assumption
    | with_reducible apply State.count_keeps
    | with_reducible apply State.modPorter_keeps
    | split

theorem State.retireReg_keeps {s : State} {m : Nat} {d : Nat} {v : Nat} (h_s : s.Keeps F I o T)
    (f_porters : F .porters = true) (f_obs : F .obs = true) :
    (State.retireReg s m d v).Keeps F I o T := by
  unfold State.retireReg
  repeat' first
    | with_reducible assumption
    | with_reducible apply State.modPorter_keeps
    | with_reducible apply State.retireTo_keeps
    | with_reducible apply State.setReg_keeps
    | split

theorem State.retireNext_keeps {s : State} {m : Nat} (h_s : s.Keeps F I o T) (f_porters : F .porters = true)
    (f_obs : F .obs = true) :
    (State.retireNext s m).Keeps F I o T := by
  unfold State.retireNext
  repeat' first
    | with_reducible assumption
    | with_reducible apply State.retireTo_keeps
    | split

theorem State.localLoad_keeps {s : State} {r : Running} {off : Nat} {n : Nat} (h_s : s.Keeps F I o T)
    (f_fresh : F .fresh = true) :
    (State.localLoad s r off n).2.Keeps F I o T := by
  unfold State.localLoad
  repeat' first
    | with_reducible assumption
    | with_reducible apply State.count_keeps
    | with_reducible apply State.draw_keeps
    | split

theorem State.porterWrite_keeps {s : State} {m : Nat} {w : Nat} {k : Work} {a : Nat} {b : Bytes}
    (h_s : s.Keeps F I o T) (f_wild : F .wild = true) (f_disp : F .disp = true) (f_eng : F .eng = true)
        (f_net : F .net = true) (f_mov : F .mov = true) (f_peer : F .peer = true) (f_porters : F .porters = true)
            (f_obs : F .obs = true) :
    (State.porterWrite s m w k a b).Keeps F I o T := by
  unfold State.porterWrite
  repeat' first
    | with_reducible assumption
    | with_reducible apply State.ownQueued_keeps
    | with_reducible apply State.sendWr_keeps
    | with_reducible apply State.struck_keeps
    | split

theorem State.cacheHit_keeps {s : State} {m : Nat} {l : DLine} (h_s : s.Keeps F I o T)
    (f_porters : F .porters = true) (f_obs : F .obs = true) :
    (State.cacheHit s m l).Keeps F I o T := by
  unfold State.cacheHit
  repeat' first
    | with_reducible assumption
    | with_reducible apply State.count_keeps
    | with_reducible apply State.modPorter_keeps
    | split

theorem State.cacheMiss_keeps {s : State} {m : Nat} {x : Miss} (h_s : s.Keeps F I o T)
    (f_porters : F .porters = true) (f_obs : F .obs = true) :
    (State.cacheMiss s m x).Keeps F I o T := by
  unfold State.cacheMiss
  repeat' first
    | with_reducible assumption
    | with_reducible apply State.count_keeps
    | with_reducible apply State.miss_keeps
    | with_reducible apply State.modPorter_keeps
    | with_reducible apply State.retireNext_keeps
    | split

theorem State.fillLine_keeps {s : State} {m : Nat} {w : Nat} {l : DLine} (h_s : s.Keeps F I o T)
    (f_wild : F .wild = true) (f_disp : F .disp = true) (f_eng : F .eng = true) (f_net : F .net = true)
        (f_mov : F .mov = true) (f_peer : F .peer = true) (f_porters : F .porters = true) (f_obs : F .obs = true) :
    (State.fillLine s m w l).Keeps F I o T := by
  unfold State.fillLine
  repeat' first
    | with_reducible assumption
    | with_reducible apply State.modPorter_keeps
    | with_reducible apply State.writeBack_keeps
    | split

theorem State.loadOp_keeps {s : State} {m : Nat} {major : Nat} {n : Nat} (h_s : s.Keeps F I o T)
    (f_fresh : F .fresh = true) (f_notices : F .notices = true) (f_mem : F .mem = true) (f_wild : F .wild = true)
        (f_disp : F .disp = true) (f_eng : F .eng = true) (f_arr : F .arr = true) (f_net : F .net = true)
            (f_mov : F .mov = true) (f_peer : F .peer = true) (f_porters : F .porters = true) (f_sk : F .sk = true)
                (f_obs : F .obs = true) :
    OutK F I o T (State.loadOp s m major n) := by
  unfold State.loadOp
  try dsimp only
  repeat' first
    | with_reducible assumption
    | with_reducible exact OutK.refused _
    | with_reducible apply OutK.next
    | with_reducible apply Running.broken_keeps
    | with_reducible apply State.cacheHit_keeps
    | with_reducible apply State.cacheMiss_keeps
    | with_reducible apply State.denied_keeps
    | with_reducible apply State.endWork_keeps
    | with_reducible apply State.insn_keeps
    | with_reducible apply State.localLoad_keeps
    | with_reducible apply State.miss_keeps
    | with_reducible apply State.modPorter_keeps
    | with_reducible apply State.retireReg_keeps
    | with_reducible apply State.rewindAndPark_keeps
    | with_reducible apply State.waitMiss_keeps
    | refine State.Keeps.fst (by with_reducible assumption) ?_
    | refine State.Keeps.snd (by with_reducible assumption) ?_
    | refine State.Keeps.snd2 (by with_reducible assumption) ?_
    | refine State.Keeps.snd3 (by with_reducible assumption) ?_
    | split
    | with_reducible intro a_
    | dsimp only
    | with_reducible rfl
    | (simp_all; done)

theorem State.storeOp_keeps {s : State} {m : Nat} {major : Nat} {n : Nat} (h_s : s.Keeps F I o T)
    (f_fresh : F .fresh = true) (f_notices : F .notices = true) (f_mem : F .mem = true) (f_wild : F .wild = true)
        (f_disp : F .disp = true) (f_eng : F .eng = true) (f_arr : F .arr = true) (f_net : F .net = true)
            (f_mov : F .mov = true) (f_peer : F .peer = true) (f_porters : F .porters = true) (f_sk : F .sk = true)
                (f_obs : F .obs = true) :
    OutK F I o T (State.storeOp s m major n) := by
  unfold State.storeOp
  try dsimp only
  repeat' first
    | with_reducible assumption
    | with_reducible exact OutK.refused _
    | with_reducible apply OutK.next
    | with_reducible apply Running.broken_keeps
    | with_reducible apply State.cacheHit_keeps
    | with_reducible apply State.cacheMiss_keeps
    | with_reducible apply State.checkStore_keeps
    | with_reducible apply State.count_keeps
    | with_reducible apply State.endWork_keeps
    | with_reducible apply State.insn_keeps
    | with_reducible apply State.miss_keeps
    | with_reducible apply State.modPorter_keeps
    | with_reducible apply State.porterWrite_keeps
    | with_reducible apply State.retireNext_keeps
    | with_reducible apply State.rewindAndPark_keeps
    | with_reducible apply State.store_keeps
    | with_reducible apply State.struck_keeps
    | with_reducible apply State.waitMiss_keeps
    | with_reducible refine foldl_keeps (fun acc => State.Keeps acc F I o T) _ _ _ ?_ fun _ _ _ => ?_
    | with_reducible refine foldl_keeps (fun acc => State.Keeps acc.1 F I o T) _ _ _ ?_ fun _ _ _ => ?_
    | with_reducible refine foldl_keeps (fun acc => State.Keeps acc.2 F I o T) _ _ _ ?_ fun _ _ _ => ?_
    | with_reducible refine foldl_keeps (fun acc => State.Keeps acc.2.2 F I o T) _ _ _ ?_ fun _ _ _ => ?_
    | refine State.Keeps.fst (by with_reducible assumption) ?_
    | refine State.Keeps.snd (by with_reducible assumption) ?_
    | refine State.Keeps.snd2 (by with_reducible assumption) ?_
    | refine State.Keeps.snd3 (by with_reducible assumption) ?_
    | split
    | with_reducible intro a_
    | dsimp only
    | with_reducible rfl
    | (simp_all; done)

theorem State.aluOp_keeps {s : State} {m : Nat} {func : Nat} {f : Nat → Nat → Nat} (h_s : s.Keeps F I o T)
    (f_fresh : F .fresh = true) (f_wild : F .wild = true) (f_disp : F .disp = true) (f_eng : F .eng = true)
        (f_arr : F .arr = true) (f_net : F .net = true) (f_mov : F .mov = true) (f_peer : F .peer = true)
            (f_porters : F .porters = true) (f_obs : F .obs = true) :
    OutK F I o T (State.aluOp s m func f) := by
  unfold State.aluOp
  try dsimp only
  repeat' first
    | with_reducible assumption
    | with_reducible exact OutK.refused _
    | with_reducible apply OutK.next
    | with_reducible apply State.insn_keeps
    | with_reducible apply State.retireReg_keeps
    | refine State.Keeps.fst (by with_reducible assumption) ?_
    | refine State.Keeps.snd (by with_reducible assumption) ?_
    | refine State.Keeps.snd2 (by with_reducible assumption) ?_
    | refine State.Keeps.snd3 (by with_reducible assumption) ?_
    | split
    | with_reducible intro a_
    | dsimp only
    | with_reducible rfl
    | (simp_all; done)

theorem State.shiftOp_keeps {s : State} {m : Nat} {func : Nat} {f : Nat → Nat → Nat} (h_s : s.Keeps F I o T)
    (f_fresh : F .fresh = true) (f_wild : F .wild = true) (f_disp : F .disp = true) (f_eng : F .eng = true)
        (f_arr : F .arr = true) (f_net : F .net = true) (f_mov : F .mov = true) (f_peer : F .peer = true)
            (f_porters : F .porters = true) (f_obs : F .obs = true) :
    OutK F I o T (State.shiftOp s m func f) := by
  unfold State.shiftOp
  try dsimp only
  repeat' first
    | with_reducible assumption
    | with_reducible exact OutK.refused _
    | with_reducible apply OutK.next
    | with_reducible apply State.draw_keeps
    | with_reducible apply State.insn_keeps
    | with_reducible apply State.retireReg_keeps
    | refine State.Keeps.fst (by with_reducible assumption) ?_
    | refine State.Keeps.snd (by with_reducible assumption) ?_
    | refine State.Keeps.snd2 (by with_reducible assumption) ?_
    | refine State.Keeps.snd3 (by with_reducible assumption) ?_
    | split
    | with_reducible intro a_
    | dsimp only
    | with_reducible rfl
    | (simp_all; done)

theorem State.immOp_keeps {s : State} {m : Nat} {major : Nat} {f : Nat → Nat → Nat} (h_s : s.Keeps F I o T)
    (f_fresh : F .fresh = true) (f_wild : F .wild = true) (f_disp : F .disp = true) (f_eng : F .eng = true)
        (f_arr : F .arr = true) (f_net : F .net = true) (f_mov : F .mov = true) (f_peer : F .peer = true)
            (f_porters : F .porters = true) (f_obs : F .obs = true) :
    OutK F I o T (State.immOp s m major f) := by
  unfold State.immOp
  try dsimp only
  repeat' first
    | with_reducible assumption
    | with_reducible exact OutK.refused _
    | with_reducible apply OutK.next
    | with_reducible apply State.insn_keeps
    | with_reducible apply State.retireReg_keeps
    | refine State.Keeps.fst (by with_reducible assumption) ?_
    | refine State.Keeps.snd (by with_reducible assumption) ?_
    | refine State.Keeps.snd2 (by with_reducible assumption) ?_
    | refine State.Keeps.snd3 (by with_reducible assumption) ?_
    | split
    | with_reducible intro a_
    | dsimp only
    | with_reducible rfl
    | (simp_all; done)

theorem State.branchOp_keeps {s : State} {m : Nat} {major : Nat} {f : Nat → Nat → Bool} (h_s : s.Keeps F I o T)
    (f_fresh : F .fresh = true) (f_wild : F .wild = true) (f_disp : F .disp = true) (f_eng : F .eng = true)
        (f_arr : F .arr = true) (f_net : F .net = true) (f_mov : F .mov = true) (f_peer : F .peer = true)
            (f_porters : F .porters = true) (f_obs : F .obs = true) :
    OutK F I o T (State.branchOp s m major f) := by
  unfold State.branchOp
  try dsimp only
  repeat' first
    | with_reducible assumption
    | with_reducible exact OutK.refused _
    | with_reducible apply OutK.next
    | with_reducible apply State.insn_keeps
    | with_reducible apply State.retireNext_keeps
    | with_reducible apply State.retireTo_keeps
    | refine State.Keeps.fst (by with_reducible assumption) ?_
    | refine State.Keeps.snd (by with_reducible assumption) ?_
    | refine State.Keeps.snd2 (by with_reducible assumption) ?_
    | refine State.Keeps.snd3 (by with_reducible assumption) ?_
    | split
    | with_reducible intro a_
    | dsimp only
    | with_reducible rfl
    | (simp_all; done)

theorem State.fpOp_keeps {s : State} {m : Nat} {op : Nat} {f : FFmt → Nat → Nat → Nat} (h_s : s.Keeps F I o T)
    (f_fresh : F .fresh = true) (f_wild : F .wild = true) (f_disp : F .disp = true) (f_eng : F .eng = true)
        (f_arr : F .arr = true) (f_net : F .net = true) (f_mov : F .mov = true) (f_peer : F .peer = true)
            (f_porters : F .porters = true) (f_obs : F .obs = true) :
    OutK F I o T (State.fpOp s m op f) := by
  unfold State.fpOp
  try dsimp only
  repeat' first
    | with_reducible assumption
    | with_reducible exact OutK.refused _
    | with_reducible apply OutK.next
    | with_reducible apply State.insn_keeps
    | with_reducible apply State.retireReg_keeps
    | refine State.Keeps.fst (by with_reducible assumption) ?_
    | refine State.Keeps.snd (by with_reducible assumption) ?_
    | refine State.Keeps.snd2 (by with_reducible assumption) ?_
    | refine State.Keeps.snd3 (by with_reducible assumption) ?_
    | split
    | with_reducible intro a_
    | dsimp only
    | with_reducible rfl
    | (simp_all; done)

theorem State.fcvtOp_keeps {s : State} {m : Nat} {op : Nat} {src : FFmt} {dst : FFmt} (h_s : s.Keeps F I o T)
    (f_fresh : F .fresh = true) (f_wild : F .wild = true) (f_disp : F .disp = true) (f_eng : F .eng = true)
        (f_arr : F .arr = true) (f_net : F .net = true) (f_mov : F .mov = true) (f_peer : F .peer = true)
            (f_porters : F .porters = true) (f_obs : F .obs = true) :
    OutK F I o T (State.fcvtOp s m op src dst) := by
  unfold State.fcvtOp
  try dsimp only
  repeat' first
    | with_reducible assumption
    | with_reducible exact OutK.refused _
    | with_reducible apply OutK.next
    | with_reducible apply State.insn_keeps
    | with_reducible apply State.retireReg_keeps
    | refine State.Keeps.fst (by with_reducible assumption) ?_
    | refine State.Keeps.snd (by with_reducible assumption) ?_
    | refine State.Keeps.snd2 (by with_reducible assumption) ?_
    | refine State.Keeps.snd3 (by with_reducible assumption) ?_
    | split
    | with_reducible intro a_
    | dsimp only
    | with_reducible rfl
    | (simp_all; done)

theorem State.cacheOp_keeps {s : State} {m : Nat} {func : Nat} {clean : Running → DLine → Bool} {drop : Running →
    DLine → Bool} (h_s : s.Keeps F I o T) (f_fresh : F .fresh = true) (f_wild : F .wild = true)
        (f_disp : F .disp = true) (f_eng : F .eng = true) (f_arr : F .arr = true) (f_net : F .net = true)
            (f_mov : F .mov = true) (f_peer : F .peer = true) (f_porters : F .porters = true)
                (f_obs : F .obs = true) :
    OutK F I o T (State.cacheOp s m func clean drop) := by
  unfold State.cacheOp
  try dsimp only
  repeat' first
    | with_reducible assumption
    | with_reducible exact OutK.refused _
    | with_reducible apply OutK.next
    | (with_reducible refine State.each_keeps ?_ fun _ _ _ => ?_)
    | with_reducible apply State.drop_keeps
    | with_reducible apply State.insn_keeps
    | with_reducible apply State.modPorter_keeps
    | with_reducible apply State.retireNext_keeps
    | with_reducible apply State.writeBack_keeps
    | refine State.Keeps.fst (by with_reducible assumption) ?_
    | refine State.Keeps.snd (by with_reducible assumption) ?_
    | refine State.Keeps.snd2 (by with_reducible assumption) ?_
    | refine State.Keeps.snd3 (by with_reducible assumption) ?_
    | split
    | with_reducible intro a_
    | dsimp only
    | with_reducible rfl
    | (simp_all; done)

theorem State.releaseShare_keeps {s : State} {w : Nat} {i : Nat} {f : Share → Share} (h_s : s.Keeps F I o T)
    (f_disp : F .disp = true) :
    (State.releaseShare s w i f).Keeps F I o T := by
  unfold State.releaseShare
  repeat' first
    | with_reducible assumption
    | with_reducible apply State.modWork_keeps
    | split

theorem State.leaveTickets_keeps {s : State} {m : Nat} (h_s : s.Keeps F I o T) (f_disp : F .disp = true)
    (f_mov : F .mov = true) :
    (State.leaveTickets s m).Keeps F I o T := by
  unfold State.leaveTickets
  repeat' first
    | with_reducible assumption
    | (with_reducible refine State.each_keeps ?_ fun _ _ _ => ?_)
    | with_reducible apply State.modMov_keeps
    | with_reducible apply State.modWork_keeps
    | split

theorem State.ticketDone_keeps {s : State} {m : Nat} {t : Nat} {auto : Bool} (h_s : s.Keeps F I o T)
    (f_porters : F .porters = true) (f_obs : F .obs = true) :
    (State.ticketDone s m t auto).Keeps F I o T := by
  unfold State.ticketDone
  repeat' first
    | with_reducible assumption
    | with_reducible apply State.modPorter_keeps
    | with_reducible apply State.retireNext_keeps
    | refine State.Keeps.fst (by with_reducible assumption) ?_
    | refine State.Keeps.snd (by with_reducible assumption) ?_
    | refine State.Keeps.snd2 (by with_reducible assumption) ?_
    | refine State.Keeps.snd3 (by with_reducible assumption) ?_
    | split
    | dsimp only

theorem State.opEnds_keeps {s : State} {w : Nat} (h_s : s.Keeps F I o T) (f_disp : F .disp = true)
    (f_eng : F .eng = true) (f_net : F .net = true) :
    (State.opEnds s w).Keeps F I o T := by
  unfold State.opEnds
  repeat' first
    | with_reducible assumption
    | with_reducible apply State.leave_keeps
    | with_reducible apply State.modWork_keeps
    | split

theorem State.wide_keeps {s : State} {m : Nat} {unit : Nat} {op : Nat} {ticket : Bool} {legal : Running → Bool} {f :
    Running → Nat → Nat → Out} (h_s : s.Keeps F I o T) (h_f : ∀ a0 a1 a2, OutK F I o T (f a0 a1 a2))
        (f_fresh : F .fresh = true) (f_wild : F .wild = true) (f_disp : F .disp = true) (f_eng : F .eng = true)
            (f_arr : F .arr = true) (f_net : F .net = true) (f_mov : F .mov = true) (f_peer : F .peer = true)
                (f_porters : F .porters = true) (f_obs : F .obs = true) :
    OutK F I o T (State.wide s m unit op ticket legal f) := by
  unfold State.wide
  try dsimp only
  repeat' first
    | with_reducible assumption
    | with_reducible exact OutK.refused _
    | with_reducible apply OutK.next
    | with_reducible apply Running.broken_keeps
    | with_reducible apply State.insn_keeps
    | with_reducible apply h_f
    | refine State.Keeps.fst (by with_reducible assumption) ?_
    | refine State.Keeps.snd (by with_reducible assumption) ?_
    | refine State.Keeps.snd2 (by with_reducible assumption) ?_
    | refine State.Keeps.snd3 (by with_reducible assumption) ?_
    | split
    | with_reducible intro a_
    | dsimp only
    | with_reducible rfl
    | (simp_all; done)

theorem State.retireWide_keeps {s : State} {m : Nat} {unit : Nat} {pc : Nat} (h_s : s.Keeps F I o T)
    (f_porters : F .porters = true) (f_obs : F .obs = true) :
    (State.retireWide s m unit pc).Keeps F I o T := by
  unfold State.retireWide
  repeat' first
    | with_reducible assumption
    | with_reducible apply State.count_keeps
    | with_reducible apply State.retireTo_keeps
    | split

theorem State.launched_keeps {s : State} {m : Nat} {unit : Nat} {t : Nat} {r : Running} (h_s : s.Keeps F I o T)
    (f_porters : F .porters = true) (f_obs : F .obs = true) :
    (State.launched s m unit t r).Keeps F I o T := by
  unfold State.launched
  repeat' first
    | with_reducible assumption
    | with_reducible apply State.modPorter_keeps
    | with_reducible apply State.retireWide_keeps
    | with_reducible apply State.setReg_keeps
    | split

theorem State.launchDesc_keeps {s : State} {r : Running} {f : Bytes → Out} (h_s : s.Keeps F I o T)
    (h_f : ∀ a0, OutK F I o T (f a0)) (f_fresh : F .fresh = true) (f_notices : F .notices = true)
        (f_mem : F .mem = true) (f_wild : F .wild = true) (f_disp : F .disp = true) (f_eng : F .eng = true)
            (f_arr : F .arr = true) (f_net : F .net = true) (f_mov : F .mov = true) (f_peer : F .peer = true)
                (f_porters : F .porters = true) (f_sk : F .sk = true) (f_obs : F .obs = true) :
    OutK F I o T (State.launchDesc s r f) := by
  unfold State.launchDesc
  repeat' first
    | with_reducible assumption
    | with_reducible exact OutK.refused _
    | with_reducible apply OutK.next
    | with_reducible apply Running.broken_keeps
    | with_reducible apply State.denied_keeps
    | with_reducible apply State.endWork_keeps
    | with_reducible apply State.rewindAndPark_keeps
    | with_reducible apply h_f
    | refine State.Keeps.fst (by with_reducible assumption) ?_
    | refine State.Keeps.snd (by with_reducible assumption) ?_
    | refine State.Keeps.snd2 (by with_reducible assumption) ?_
    | refine State.Keeps.snd3 (by with_reducible assumption) ?_
    | split
    | dsimp only

theorem State.launchOp_keeps {s : State} {m : Nat} {unit : Nat} {bad : TaskDesc → Bool} {start : Nat → TaskDesc →
    State → State} (h_s : s.Keeps F I o T) (h_start : ∀ a0 a1 a2, a2.Keeps F I o T → (start a0 a1 a2).Keeps F I o T)
        (f_fresh : F .fresh = true) (f_notices : F .notices = true) (f_mem : F .mem = true)
            (f_wild : F .wild = true) (f_disp : F .disp = true) (f_eng : F .eng = true) (f_arr : F .arr = true)
                (f_net : F .net = true) (f_mov : F .mov = true) (f_peer : F .peer = true)
                    (f_porters : F .porters = true) (f_sk : F .sk = true) (f_obs : F .obs = true) :
    OutK F I o T (State.launchOp s m unit bad start) := by
  unfold State.launchOp
  try dsimp only
  repeat' first
    | with_reducible assumption
    | with_reducible exact OutK.refused _
    | with_reducible apply OutK.next
    | with_reducible apply Running.broken_keeps
    | with_reducible apply State.checkOverlap_keeps
    | with_reducible apply State.launchDesc_keeps
    | with_reducible apply State.launched_keeps
    | with_reducible apply State.newWork_keeps
    | with_reducible apply State.wide_keeps
    | with_reducible apply h_start
    | refine State.Keeps.fst (by with_reducible assumption) ?_
    | refine State.Keeps.snd (by with_reducible assumption) ?_
    | refine State.Keeps.snd2 (by with_reducible assumption) ?_
    | refine State.Keeps.snd3 (by with_reducible assumption) ?_
    | split
    | with_reducible intro a_
    | dsimp only
    | with_reducible rfl
    | (simp_all; done)

theorem State.startScore_keeps {w : Nat} {d : TaskDesc} {s : State} (h_s : s.Keeps F I o T)
    (f_fresh : F .fresh = true) (f_notices : F .notices = true) (f_mem : F .mem = true) (f_wild : F .wild = true)
        (f_disp : F .disp = true) (f_eng : F .eng = true) (f_arr : F .arr = true) (f_net : F .net = true)
            (f_mov : F .mov = true) (f_hi : F .hi = true) (f_peer : F .peer = true) (f_porters : F .porters = true)
                (f_sk : F .sk = true) (f_obs : F .obs = true) :
    (State.startScore w d s).Keeps F I o T := by
  unfold State.startScore
  repeat' first
    | with_reducible assumption
    | with_reducible apply State.park_keeps
    | with_reducible apply State.startArray_keeps
    | with_reducible apply State.tryQload_keeps
    | refine State.Keeps.fst (by with_reducible assumption) ?_
    | refine State.Keeps.snd (by with_reducible assumption) ?_
    | refine State.Keeps.snd2 (by with_reducible assumption) ?_
    | refine State.Keeps.snd3 (by with_reducible assumption) ?_
    | split
    | dsimp only

theorem State.launchList_keeps {s : State} {m : Nat} {t : Nat} {ch : Nat} {r : Running} {addr : Nat} {built : Option
    Bytes} (h_s : s.Keeps F I o T) (f_fresh : F .fresh = true) (f_wild : F .wild = true) (f_disp : F .disp = true)
        (f_eng : F .eng = true) (f_arr : F .arr = true) (f_net : F .net = true) (f_mov : F .mov = true)
            (f_peer : F .peer = true) (f_porters : F .porters = true) (f_obs : F .obs = true) :
    OutK F I o T (State.launchList s m t ch r addr built) := by
  unfold State.launchList
  repeat' first
    | with_reducible assumption
    | with_reducible exact OutK.refused _
    | with_reducible apply OutK.next
    | with_reducible apply Running.broken_keeps
    | with_reducible apply State.launched_keeps
    | with_reducible apply State.queueHead_keeps
    | split

theorem State.semOp_keeps {s : State} {m : Nat} {op : Nat} {f : Running → Nat → Nat → Out} (h_s : s.Keeps F I o T)
    (h_f : ∀ a0 a1 a2, OutK F I o T (f a0 a1 a2)) (f_fresh : F .fresh = true) (f_wild : F .wild = true)
        (f_disp : F .disp = true) (f_eng : F .eng = true) (f_arr : F .arr = true) (f_net : F .net = true)
            (f_mov : F .mov = true) (f_peer : F .peer = true) (f_porters : F .porters = true)
                (f_obs : F .obs = true) :
    OutK F I o T (State.semOp s m op f) := by
  unfold State.semOp
  try dsimp only
  repeat' first
    | with_reducible assumption
    | with_reducible exact OutK.refused _
    | with_reducible apply OutK.next
    | with_reducible apply Running.broken_keeps
    | with_reducible apply State.wide_keeps
    | with_reducible apply h_f
    | refine State.Keeps.fst (by with_reducible assumption) ?_
    | refine State.Keeps.snd (by with_reducible assumption) ?_
    | refine State.Keeps.snd2 (by with_reducible assumption) ?_
    | refine State.Keeps.snd3 (by with_reducible assumption) ?_
    | split
    | with_reducible intro a_
    | dsimp only
    | with_reducible rfl
    | (simp_all; done)

theorem State.semWait_keeps {s : State} {m : Nat} {op : Nat} {fill : Bool} (h_s : s.Keeps F I o T)
    (f_fresh : F .fresh = true) (f_wild : F .wild = true) (f_disp : F .disp = true) (f_eng : F .eng = true)
        (f_arr : F .arr = true) (f_net : F .net = true) (f_mov : F .mov = true) (f_peer : F .peer = true)
            (f_porters : F .porters = true) (f_obs : F .obs = true) :
    OutK F I o T (State.semWait s m op fill) := by
  unfold State.semWait
  try dsimp only
  repeat' first
    | with_reducible assumption
    | with_reducible exact OutK.refused _
    | with_reducible apply OutK.next
    | with_reducible apply State.count_keeps
    | with_reducible apply State.modPorter_keeps
    | with_reducible apply State.retireWide_keeps
    | with_reducible apply State.semOp_keeps
    | with_reducible apply State.setSem_keeps
    | refine State.Keeps.fst (by with_reducible assumption) ?_
    | refine State.Keeps.snd (by with_reducible assumption) ?_
    | refine State.Keeps.snd2 (by with_reducible assumption) ?_
    | refine State.Keeps.snd3 (by with_reducible assumption) ?_
    | split
    | with_reducible intro a_
    | dsimp only
    | with_reducible rfl
    | (simp_all; done)

theorem State.semPost_keeps {s : State} {m : Nat} {op : Nat} {fill : Bool} (h_s : s.Keeps F I o T)
    (f_fresh : F .fresh = true) (f_wild : F .wild = true) (f_disp : F .disp = true) (f_eng : F .eng = true)
        (f_arr : F .arr = true) (f_net : F .net = true) (f_mov : F .mov = true) (f_peer : F .peer = true)
            (f_porters : F .porters = true) (f_obs : F .obs = true) :
    OutK F I o T (State.semPost s m op fill) := by
  unfold State.semPost
  try dsimp only
  repeat' first
    | with_reducible assumption
    | with_reducible exact OutK.refused _
    | with_reducible apply OutK.next
    | with_reducible apply Running.broken_keeps
    | with_reducible apply State.retireWide_keeps
    | with_reducible apply State.semOp_keeps
    | with_reducible apply State.setSem_keeps
    | refine State.Keeps.fst (by with_reducible assumption) ?_
    | refine State.Keeps.snd (by with_reducible assumption) ?_
    | refine State.Keeps.snd2 (by with_reducible assumption) ?_
    | refine State.Keeps.snd3 (by with_reducible assumption) ?_
    | split
    | with_reducible intro a_
    | dsimp only
    | with_reducible rfl
    | (simp_all; done)

theorem State.loadPin_keeps {s : State} {pos : Nat} {e : TableDesc × Nat × Nat} (h_s : s.Keeps F I o T)
    (f_mem : F .mem = true) (f_eng : F .eng = true) (f_net : F .net = true) :
    (State.loadPin s pos e).Keeps F I o T := by
  unfold State.loadPin
  repeat' first
    | with_reducible assumption
    | with_reducible apply State.modAgent_keeps
    | with_reducible apply State.modEngine_keeps
    | with_reducible apply State.writePlaced_keeps
    | split

theorem State.loadPins_keeps {s : State} {pos : Nat} (h_s : s.Keeps F I o T) (f_mem : F .mem = true)
    (f_eng : F .eng = true) (f_net : F .net = true) :
    (State.loadPins s pos).Keeps F I o T := by
  unfold State.loadPins
  repeat' first
    | with_reducible assumption
    | (with_reducible refine State.each_keeps ?_ fun _ _ _ => ?_)
    | with_reducible apply State.loadPin_keeps
    | split

theorem State.dropRefresh_keeps {s : State} {p : Nat} {n : Nat} (h_s : s.Keeps F I o T) (f_fresh : F .fresh = true)
    (f_mem : F .mem = true) (f_net : F .net = true) (f_obs : F .obs = true) :
    (State.dropRefresh s p n).Keeps F I o T := by
  unfold State.dropRefresh
  repeat' first
    | with_reducible assumption
    | with_reducible apply State.crateDone_keeps
    | with_reducible apply State.modAgent_keeps
    | with_reducible apply State.setCrate_keeps
    | refine State.Keeps.fst (by with_reducible assumption) ?_
    | refine State.Keeps.snd (by with_reducible assumption) ?_
    | refine State.Keeps.snd2 (by with_reducible assumption) ?_
    | refine State.Keeps.snd3 (by with_reducible assumption) ?_
    | split
    | dsimp only

theorem State.pinsBegin_keeps {s : State} {p : Nat} (h_s : s.Keeps F I o T) (f_eng : F .eng = true)
    (f_net : F .net = true) (f_mov : F .mov = true) :
    (State.pinsBegin s p).Keeps F I o T := by
  unfold State.pinsBegin
  repeat' first
    | with_reducible assumption
    | (with_reducible refine State.each_keeps ?_ fun _ _ _ => ?_)
    | with_reducible apply State.copyRow_keeps
    | with_reducible apply State.modAgent_keeps
    | with_reducible apply State.modEngine_keeps
    | split

theorem State.replayProgram_keeps {s : State} {m : Nat} {cause : Nat} (h_s : s.Keeps F I o T)
    (f_disp : F .disp = true) (f_eng : F .eng = true) (f_arr : F .arr = true) (f_net : F .net = true)
        (f_mov : F .mov = true) (f_peer : F .peer = true) (f_porters : F .porters = true) (f_obs : F .obs = true) :
    (State.replayProgram s m cause).Keeps F I o T := by
  unfold State.replayProgram
  repeat' first
    | with_reducible assumption
    | with_reducible apply State.count_keeps
    | with_reducible apply State.dropLists_keeps
    | with_reducible apply State.replayPorterTask_keeps
    | with_reducible apply State.stopPorter_keeps
    | split

theorem State.returnMail_keeps {s : State} {m : Nat} (h_s : s.Keeps F I o T) (f_disp : F .disp = true)
    (f_porters : F .porters = true) :
    (State.returnMail s m).Keeps F I o T := by
  unfold State.returnMail
  repeat' first
    | with_reducible assumption
    | (with_reducible refine State.each_keeps ?_ fun _ _ _ => ?_)
    | with_reducible apply State.modPorter_keeps
    | with_reducible apply State.modWork_keeps
    | split

theorem State.porterFault_keeps {s : State} {m : Nat} (h_s : s.Keeps F I o T) (f_fresh : F .fresh = true)
    (f_notices : F .notices = true) (f_mem : F .mem = true) (f_disp : F .disp = true) (f_eng : F .eng = true)
        (f_arr : F .arr = true) (f_net : F .net = true) (f_mov : F .mov = true) (f_peer : F .peer = true)
            (f_porters : F .porters = true) (f_sk : F .sk = true) (f_obs : F .obs = true) :
    (State.porterFault s m).Keeps F I o T := by
  unfold State.porterFault
  repeat' first
    | with_reducible assumption
    | (with_reducible refine State.each_keeps ?_ fun _ _ _ => ?_)
    | with_reducible apply State.modPorter_keeps
    | with_reducible apply State.park_keeps
    | with_reducible apply State.replayProgram_keeps
    | with_reducible apply State.report_keeps
    | with_reducible apply State.returnMail_keeps
    | with_reducible refine foldl_keeps (fun acc => State.Keeps acc F I o T) _ _ _ ?_ fun _ _ _ => ?_
    | with_reducible refine foldl_keeps (fun acc => State.Keeps acc.1 F I o T) _ _ _ ?_ fun _ _ _ => ?_
    | with_reducible refine foldl_keeps (fun acc => State.Keeps acc.2 F I o T) _ _ _ ?_ fun _ _ _ => ?_
    | with_reducible refine foldl_keeps (fun acc => State.Keeps acc.2.2 F I o T) _ _ _ ?_ fun _ _ _ => ?_
    | refine State.Keeps.fst (by with_reducible assumption) ?_
    | refine State.Keeps.snd (by with_reducible assumption) ?_
    | refine State.Keeps.snd2 (by with_reducible assumption) ?_
    | refine State.Keeps.snd3 (by with_reducible assumption) ?_
    | split
    | dsimp only

theorem State.arrayFault_keeps {s : State} {a : Nat} (h_s : s.Keeps F I o T) (f_fresh : F .fresh = true)
    (f_notices : F .notices = true) (f_mem : F .mem = true) (f_disp : F .disp = true) (f_eng : F .eng = true)
        (f_arr : F .arr = true) (f_net : F .net = true) (f_mov : F .mov = true) (f_peer : F .peer = true)
            (f_porters : F .porters = true) (f_sk : F .sk = true) (f_obs : F .obs = true) :
    (State.arrayFault s a).Keeps F I o T := by
  unfold State.arrayFault
  repeat' first
    | with_reducible assumption
    | (with_reducible refine State.each_keeps ?_ fun _ _ _ => ?_)
    | with_reducible apply State.count_keeps
    | with_reducible apply State.report_keeps
    | with_reducible apply State.rewindAndPark_keeps
    | with_reducible apply State.rewindBag_keeps
    | with_reducible apply State.setArray_keeps
    | split

theorem State.dieGone_keeps {s : State} {n : Nat} (h_s : s.Keeps F I o T) (f_fresh : F .fresh = true)
    (f_eng : F .eng = true) (f_net : F .net = true) (f_sk : F .sk = true) (f_obs : F .obs = true) :
    (State.dieGone s n).Keeps F I o T := by
  unfold State.dieGone
  repeat' first
    | with_reducible assumption
    | with_reducible apply State.count_keeps
    | with_reducible apply State.dropPart_keeps
    | with_reducible apply State.dropPending_keeps
    | with_reducible apply State.keepBank_keeps
    | with_reducible apply State.modAgent_keeps
    | with_reducible apply State.modLink_keeps
    | with_reducible apply State.tally_keeps
    | split

theorem State.coreLost_keeps {s : State} {unit : Nat} (h_s : s.Keeps F I o T) (f_fresh : F .fresh = true)
    (f_pwr : F .pwr = true) (f_notices : F .notices = true) (f_mem : F .mem = true) (f_eng : F .eng = true)
        (f_net : F .net = true) (f_sk : F .sk = true) (f_obs : F .obs = true) :
    (State.coreLost s unit).Keeps F I o T := by
  unfold State.coreLost
  split
  · exact h_s
  extract_lets ws s1
  have h1 : s1.Keeps F I o T := State.each_keeps h_s fun _ _ h => by
    apply State.dieGone_keeps <;> assumption
  clear_value s1
  have h2 : State.Keeps { s1 with pwr := { s1.pwr with stopped := true } } F I o T := State.with_pwr h1 f_pwr
  apply State.report_keeps h2 <;> assumption

theorem State.agentPower_keeps {s : State} {n : Nat} (h_s : s.Keeps F I o T) (f_net : F .net = true) :
    (State.agentPower s n).Keeps F I o T := by
  unfold State.agentPower
  repeat' first
    | with_reducible assumption
    | with_reducible apply State.modAgent_keeps
    | split

theorem State.agentStops_keeps {s : State} {n : Nat} (h_s : s.Keeps F I o T) (f_fresh : F .fresh = true)
    (f_notices : F .notices = true) (f_mem : F .mem = true) (f_disp : F .disp = true) (f_eng : F .eng = true)
        (f_arr : F .arr = true) (f_net : F .net = true) (f_mov : F .mov = true) (f_peer : F .peer = true)
            (f_porters : F .porters = true) (f_sk : F .sk = true) (f_obs : F .obs = true) :
    (State.agentStops s n).Keeps F I o T := by
  unfold State.agentStops
  repeat' first
    | with_reducible assumption
    | with_reducible apply State.agentPower_keeps
    | with_reducible apply State.hold_keeps
    | with_reducible apply State.linkDown_keeps
    | with_reducible apply State.modAgent_keeps
    | split

theorem State.countError_keeps {s : State} {st : ScrubStore} {bad : Bool} (h_s : s.Keeps F I o T)
    (f_fresh : F .fresh = true) (f_obs : F .obs = true) :
    (State.countError s st bad).Keeps F I o T := by
  unfold State.countError
  repeat' first
    | with_reducible assumption
    | with_reducible apply State.count_keeps
    | with_reducible apply State.tally_keeps
    | with_reducible apply State.tallyCorrected_keeps
    | with_reducible apply State.tallyDiscard_keeps
    | split

theorem State.countResidue_keeps {s : State} {u : Nat} (h_s : s.Keeps F I o T) (f_obs : F .obs = true) :
    (State.countResidue s u).Keeps F I o T := by
  unfold State.countResidue
  repeat' first
    | with_reducible assumption
    | with_reducible apply State.count_keeps
    | split

theorem State.checkPassed_keeps {s : State} {u : Nat} (h_s : s.Keeps F I o T) (f_fresh : F .fresh = true)
    (f_obs : F .obs = true) :
    (State.checkPassed s u).Keeps F I o T := by
  unfold State.checkPassed
  repeat' first
    | with_reducible assumption
    | with_reducible apply State.draw_keeps
    | with_reducible apply State.setUnit_keeps
    | split

theorem State.tallyCheck_keeps {s : State} {u : Nat} {event : Nat} {bag : Nat} (h_s : s.Keeps F I o T)
    (f_fresh : F .fresh = true) (f_obs : F .obs = true) :
    (State.tallyCheck s u event bag).Keeps F I o T := by
  unfold State.tallyCheck
  repeat' first
    | with_reducible assumption
    | with_reducible apply State.tally_keeps
    | split

theorem State.suspect_keeps {s : State} {u : Nat} (h_s : s.Keeps F I o T) (f_fresh : F .fresh = true)
    (f_notices : F .notices = true) (f_mem : F .mem = true) (f_sk : F .sk = true) (f_obs : F .obs = true) :
    (State.suspect s u).Keeps F I o T := by
  unfold State.suspect
  repeat' first
    | with_reducible assumption
    | with_reducible apply State.draw_keeps
    | with_reducible apply State.notice_keeps
    | with_reducible apply State.report_keeps
    | split

theorem State.larderError_keeps {s : State} {p : Nat} {block : Nat} (h_s : s.Keeps F I o T)
    (f_fresh : F .fresh = true) (f_mem : F .mem = true) (f_eng : F .eng = true) (f_net : F .net = true)
        (f_sk : F .sk = true) :
    (State.larderError s p block).Keeps F I o T := by
  unfold State.larderError
  repeat' first
    | with_reducible assumption
    | with_reducible apply State.cacheDrop_keeps
    | with_reducible apply State.draw_keeps
    | with_reducible apply State.freeBytes_keeps
    | with_reducible apply State.modEngine_keeps
    | with_reducible apply State.repin_keeps
    | with_reducible apply State.reportEvict_keeps
    | refine State.Keeps.fst (by with_reducible assumption) ?_
    | refine State.Keeps.snd (by with_reducible assumption) ?_
    | refine State.Keeps.snd2 (by with_reducible assumption) ?_
    | refine State.Keeps.snd3 (by with_reducible assumption) ?_
    | split
    | dsimp only

theorem State.skBack_keeps {s : State} (h_s : s.Keeps F I o T) (f_fresh : F .fresh = true)
    (f_notices : F .notices = true) (f_mem : F .mem = true) (f_wild : F .wild = true) (f_disp : F .disp = true)
        (f_eng : F .eng = true) (f_arr : F .arr = true) (f_net : F .net = true) (f_mov : F .mov = true)
            (f_hi : F .hi = true) (f_peer : F .peer = true) (f_porters : F .porters = true) (f_sk : F .sk = true)
                (f_obs : F .obs = true) :
    (State.skBack s).Keeps F I o T := by
  unfold State.skBack
  repeat' first
    | with_reducible assumption
    | with_reducible apply State.mbResume_keeps
    | with_reducible apply State.releasePeers_keeps
    | with_reducible apply State.sendWaiting_keeps
    | split

theorem State.logFw_keeps {s : State} {copy : Nat} {action : Nat} (h_s : s.Keeps F I o T)
    (f_fresh : F .fresh = true) (f_mem : F .mem = true) (f_sk : F .sk = true) (f_obs : F .obs = true) :
    (State.logFw s copy action).Keeps F I o T := by
  unfold State.logFw
  repeat' first
    | with_reducible assumption
    | with_reducible apply State.log_keeps
    | split

theorem State.skStarts_keeps {s : State} {copy : Nat} (h_s : s.Keeps F I o T) (f_fresh : F .fresh = true)
    (f_mem : F .mem = true) (f_sk : F .sk = true) (f_obs : F .obs = true) : (s.skStarts copy).Keeps F I o T := by
  unfold State.skStarts
  extract_lets from_ s1
  have h1 : s1.Keeps F I o T := State.count_keeps
    (State.modSk_keeps (f := fun k => { k with active := from_, up := k.copyOk from_ }.ceiled) h_s
        (fun a h => h) f_sk) f_obs
  clear_value s1
  split
  · exact h1
  · apply State.logFw_keeps <;> assumption

theorem State.command_keeps {s : State} {op : Nat} {mgmt : Bool} {f : State → State} (h_s : s.Keeps F I o T)
    (h_f : ∀ a0, a0.Keeps F I o T → (f a0).Keeps F I o T) (f_fresh : F .fresh = true)
        (f_notices : F .notices = true) (f_slots : F .slots = true) (f_peer : F .peer = true) (f_sk : F .sk = true) :
    (State.command s op mgmt f).Keeps F I o T := by
  unfold State.command
  repeat' first
    | with_reducible assumption
    | with_reducible apply State.endCmd_keeps
    | with_reducible apply h_f
    | split

theorem State.putSlot_keeps {s : State} {i : Nat} {img : Option Bytes} (h_s : s.Keeps F I o T)
    (f_mem : F .mem = true) :
    (State.putSlot s i img).Keeps F I o T := by
  unfold State.putSlot
  repeat' first
    | with_reducible assumption
    | with_reducible apply State.store_keeps
    | split

theorem State.beginStage_keeps {s : State} {mgmt : Bool} (h_s : s.Keeps F I o T) (f_fresh : F .fresh = true)
    (f_notices : F .notices = true) (f_slots : F .slots = true) (f_peer : F .peer = true) (f_sk : F .sk = true) :
    (State.beginStage s mgmt).Keeps F I o T := by
  unfold State.beginStage
  try dsimp only
  repeat' first
    | with_reducible assumption
    | with_reducible apply State.endCmd_keeps
    | with_reducible apply State.modSlots_keeps
    | refine State.Keeps.fst (by with_reducible assumption) ?_
    | refine State.Keeps.snd (by with_reducible assumption) ?_
    | refine State.Keeps.snd2 (by with_reducible assumption) ?_
    | refine State.Keeps.snd3 (by with_reducible assumption) ?_
    | split
    | with_reducible intro a_
    | dsimp only
    | with_reducible rfl
    | (simp_all; done)

theorem State.staged_keeps {s : State} {img : Bytes} (h_s : s.Keeps F I o T) (f_fresh : F .fresh = true)
    (f_mem : F .mem = true) (f_slots : F .slots = true) (f_sk : F .sk = true) (f_obs : F .obs = true) :
    (State.staged s img).1.Keeps F I o T := by
  unfold State.staged
  try dsimp only
  repeat' first
    | with_reducible assumption
    | with_reducible apply State.logImage_keeps
    | with_reducible apply State.modSlots_keeps
    | with_reducible apply State.putSlot_keeps
    | refine State.Keeps.fst (by with_reducible assumption) ?_
    | refine State.Keeps.snd (by with_reducible assumption) ?_
    | refine State.Keeps.snd2 (by with_reducible assumption) ?_
    | refine State.Keeps.snd3 (by with_reducible assumption) ?_
    | split
    | with_reducible intro a_
    | dsimp only
    | with_reducible rfl
    | (simp_all; done)

theorem State.stopRings_keeps {s : State} (h_s : s.Keeps F I o T) (f_regs : F .regs = true)
    (f_disp : F .disp = true) (f_mov : F .mov = true) (f_hi : F .hi = true) :
    (State.stopRings s).Keeps F I o T := by
  unfold State.stopRings
  repeat' first
    | with_reducible assumption
    | (with_reducible refine State.each_keeps ?_ fun _ _ _ => ?_)
    | with_reducible apply State.dropFetched_keeps
    | with_reducible apply State.setRingEn_keeps
    | split

theorem State.beginDrain_keeps {s : State} {c : CfgCmd} (h_s : s.Keeps F I o T) (f_regs : F .regs = true)
    (f_notices : F .notices = true) (f_slots : F .slots = true) (f_disp : F .disp = true) (f_mov : F .mov = true)
        (f_hi : F .hi = true) :
    (State.beginDrain s c).Keeps F I o T := by
  unfold State.beginDrain
  try dsimp only
  repeat' first
    | with_reducible assumption
    | with_reducible apply State.modSlots_keeps
    | with_reducible apply State.noteReady_keeps
    | with_reducible apply State.raise_keeps
    | with_reducible apply State.stopRings_keeps
    | refine State.Keeps.fst (by with_reducible assumption) ?_
    | refine State.Keeps.snd (by with_reducible assumption) ?_
    | refine State.Keeps.snd2 (by with_reducible assumption) ?_
    | refine State.Keeps.snd3 (by with_reducible assumption) ?_
    | split
    | with_reducible intro a_
    | dsimp only
    | with_reducible rfl
    | (simp_all; done)

theorem State.beginActivate_keeps {s : State} {op : Nat} {mgmt : Bool} (h_s : s.Keeps F I o T)
    (f_fresh : F .fresh = true) (f_regs : F .regs = true) (f_notices : F .notices = true)
        (f_slots : F .slots = true) (f_disp : F .disp = true) (f_mov : F .mov = true) (f_hi : F .hi = true)
            (f_peer : F .peer = true) (f_sk : F .sk = true) :
    (State.beginActivate s op mgmt).Keeps F I o T := by
  unfold State.beginActivate
  repeat' first
    | with_reducible assumption
    | with_reducible apply State.beginDrain_keeps
    | with_reducible apply State.endCmd_keeps
    | split

theorem State.beginRollback_keeps {s : State} {op : Nat} {mgmt : Bool} (h_s : s.Keeps F I o T)
    (f_fresh : F .fresh = true) (f_regs : F .regs = true) (f_notices : F .notices = true)
        (f_slots : F .slots = true) (f_disp : F .disp = true) (f_mov : F .mov = true) (f_hi : F .hi = true)
            (f_peer : F .peer = true) (f_sk : F .sk = true) :
    (State.beginRollback s op mgmt).Keeps F I o T := by
  unfold State.beginRollback
  repeat' first
    | with_reducible assumption
    | with_reducible apply State.beginDrain_keeps
    | with_reducible apply State.endCmd_keeps
    | split

theorem State.beginDigest_keeps {s : State} {mgmt : Bool} {digest : Bytes} (h_s : s.Keeps F I o T)
    (f_fresh : F .fresh = true) (f_regs : F .regs = true) (f_notices : F .notices = true)
        (f_slots : F .slots = true) (f_disp : F .disp = true) (f_mov : F .mov = true) (f_hi : F .hi = true)
            (f_peer : F .peer = true) (f_sk : F .sk = true) :
    (State.beginDigest s mgmt digest).Keeps F I o T := by
  unfold State.beginDigest
  repeat' first
    | with_reducible assumption
    | with_reducible apply State.beginActivate_keeps
    | with_reducible apply State.beginDrain_keeps
    | with_reducible apply State.beginRollback_keeps
    | with_reducible apply State.endCmd_keeps
    | with_reducible apply State.staged_keeps
    | refine State.Keeps.fst (by with_reducible assumption) ?_
    | refine State.Keeps.snd (by with_reducible assumption) ?_
    | refine State.Keeps.snd2 (by with_reducible assumption) ?_
    | refine State.Keeps.snd3 (by with_reducible assumption) ?_
    | split
    | dsimp only

theorem State.discardStaged_keeps {s : State} {mgmt : Bool} (h_s : s.Keeps F I o T) (f_fresh : F .fresh = true)
    (f_notices : F .notices = true) (f_slots : F .slots = true) (f_peer : F .peer = true) (f_sk : F .sk = true) :
    (State.discardStaged s mgmt).Keeps F I o T := by
  unfold State.discardStaged
  try dsimp only
  repeat' first
    | with_reducible assumption
    | with_reducible apply State.endCmd_keeps
    | with_reducible apply State.modSlots_keeps
    | with_reducible apply State.staged_keeps
    | refine State.Keeps.fst (by with_reducible assumption) ?_
    | refine State.Keeps.snd (by with_reducible assumption) ?_
    | refine State.Keeps.snd2 (by with_reducible assumption) ?_
    | refine State.Keeps.snd3 (by with_reducible assumption) ?_
    | split
    | with_reducible intro a_
    | dsimp only
    | with_reducible rfl
    | (simp_all; done)

theorem State.beginTeardown_keeps {s : State} {mgmt : Bool} (h_s : s.Keeps F I o T) (f_fresh : F .fresh = true)
    (f_regs : F .regs = true) (f_notices : F .notices = true) (f_slots : F .slots = true) (f_disp : F .disp = true)
        (f_mov : F .mov = true) (f_hi : F .hi = true) (f_peer : F .peer = true) (f_sk : F .sk = true) :
    (State.beginTeardown s mgmt).Keeps F I o T := by
  unfold State.beginTeardown
  repeat' first
    | with_reducible assumption
    | with_reducible apply State.beginDrain_keeps
    | with_reducible apply State.endCmd_keeps
    | split

theorem State.cfCommand_keeps {s : State} {op : Nat} (h_s : s.Keeps F I o T) (f_fresh : F .fresh = true)
    (f_regs : F .regs = true) (f_notices : F .notices = true) (f_slots : F .slots = true) (f_disp : F .disp = true)
        (f_mov : F .mov = true) (f_hi : F .hi = true) (f_peer : F .peer = true) (f_sk : F .sk = true) :
    (State.cfCommand s op).Keeps F I o T := by
  unfold State.cfCommand
  try dsimp only
  repeat' first
    | with_reducible assumption
    | with_reducible apply State.beginActivate_keeps
    | with_reducible apply State.beginDigest_keeps
    | with_reducible apply State.beginRollback_keeps
    | with_reducible apply State.beginStage_keeps
    | with_reducible apply State.beginTeardown_keeps
    | with_reducible apply State.command_keeps
    | with_reducible apply State.discardStaged_keeps
    | refine State.Keeps.fst (by with_reducible assumption) ?_
    | refine State.Keeps.snd (by with_reducible assumption) ?_
    | refine State.Keeps.snd2 (by with_reducible assumption) ?_
    | refine State.Keeps.snd3 (by with_reducible assumption) ?_
    | split
    | with_reducible intro a_
    | dsimp only
    | with_reducible rfl
    | (simp_all; done)

theorem State.dropParked_keeps {s : State} (h_s : s.Keeps F I o T) (f_disp : F .disp = true) (f_eng : F .eng = true)
    (f_net : F .net = true) :
    (State.dropParked s).Keeps F I o T := by
  unfold State.dropParked
  repeat' first
    | with_reducible assumption
    | (with_reducible refine State.each_keeps ?_ fun _ _ _ => ?_)
    | with_reducible apply State.forget_keeps
    | split

theorem State.clear_keeps {s : State} (h_s : s.Keeps F I o T) (f_regs : F .regs = true) (f_disp : F .disp = true)
    (f_eng : F .eng = true) (f_arr : F .arr = true) (f_net : F .net = true) (f_mov : F .mov = true)
        (f_sk : F .sk = true) (f_obs : F .obs = true) : s.clear.Keeps F I o T := by
  unfold State.clear
  extract_lets s1 s2 s3 s4 s5 s6 s7
  have h1 : s1.Keeps F I o T := State.eachEngine_keeps h_s f_eng
  clear_value s1
  have h2 : s2.Keeps F I o T := State.each_keeps h1 fun s n h => State.modAgent_keeps h f_net
  clear_value s2
  have h3 : s3.Keeps F I o T := State.modMov_keeps h2 f_mov
  clear_value s3
  have h4 : s4.Keeps F I o T := State.modDisp_keeps h3 f_disp
  clear_value s4
  have h5 : s5.Keeps F I o T := State.modObs_keeps h4 (fun a h1 h2 h3 => ⟨h1, rfl, Nat.two_pow_pos 32⟩) f_obs
  clear_value s5
  have h6 : s6.Keeps F I o T := State.each_keeps h5 fun s u h => by
    dsimp only
    split
    · exact h
    · exact State.tallyLost_keeps (State.setFifo_keeps h f_obs) f_obs
  clear_value s6
  have h7 : s7.Keeps F I o T := State.modSk_keeps h6 (fun a h => h) f_sk
  clear_value s7
  exact State.setReg_keeps (State.with_arr h7 f_arr) f_regs

theorem State.swapSlots_keeps {s : State} {swap : Nat} (h_s : s.Keeps F I o T) (f_slots : F .slots = true) :
    (State.swapSlots s swap).Keeps F I o T := by
  unfold State.swapSlots
  try dsimp only
  repeat' first
    | with_reducible assumption
    | with_reducible apply State.modSlots_keeps
    | with_reducible apply State.staged_keeps
    | refine State.Keeps.fst (by with_reducible assumption) ?_
    | refine State.Keeps.snd (by with_reducible assumption) ?_
    | refine State.Keeps.snd2 (by with_reducible assumption) ?_
    | refine State.Keeps.snd3 (by with_reducible assumption) ?_
    | split
    | with_reducible intro a_
    | dsimp only
    | with_reducible rfl
    | (simp_all; done)

theorem State.openArea_keeps {s : State} {area : Wild} {rs : List Wild} (h_s : s.Keeps F I o T)
    (f_wild : F .wild = true) :
    (State.openArea s area rs).Keeps F I o T := by
  unfold State.openArea
  repeat' first
    | with_reducible assumption
    | with_reducible apply State.openBytes_keeps
    | refine State.Keeps.fst (by with_reducible assumption) ?_
    | refine State.Keeps.snd (by with_reducible assumption) ?_
    | refine State.Keeps.snd2 (by with_reducible assumption) ?_
    | refine State.Keeps.snd3 (by with_reducible assumption) ?_
    | split
    | dsimp only

theorem State.imageOverlaps_keeps {s : State} {c : Cfg} (h_s : s.Keeps F I o T) (f_wild : F .wild = true) :
    (State.imageOverlaps s c).Keeps F I o T := by
  unfold State.imageOverlaps
  repeat' first
    | with_reducible assumption
    | (with_reducible refine State.each_keeps ?_ fun _ _ _ => ?_)
    | with_reducible apply State.openArea_keeps
    | refine State.Keeps.fst (by with_reducible assumption) ?_
    | refine State.Keeps.snd (by with_reducible assumption) ?_
    | refine State.Keeps.snd2 (by with_reducible assumption) ?_
    | refine State.Keeps.snd3 (by with_reducible assumption) ?_
    | split
    | dsimp only

theorem State.loadImage_keeps {s : State} {img : Bytes} (h_s : s.Keeps F I o T) (f_fresh : F .fresh = true)
    (f_mem : F .mem = true) (f_wild : F .wild = true) (f_slots : F .slots = true) (f_cfg : F .cfg = true)
        (f_disp : F .disp = true) (f_eng : F .eng = true) (f_arr : F .arr = true) (f_net : F .net = true) :
    (State.loadImage s img).Keeps F I o T := by
  unfold State.loadImage
  extract_lets c s0 ar s1 s2 s3 s4
  have h0 : s0.Keeps F I o T := by apply State.imageOverlaps_keeps h_s <;> assumption
  clear_value s0
  have h1 : s1.Keeps F I o T := State.with_arr (State.with_cfg (v := c) h0 f_cfg) f_arr
  clear_value s1
  have h2 : s2.Keeps F I o T := State.modDisp_keeps h1 f_disp
  clear_value s2
  have h3 : s3.Keeps F I o T := State.each_keeps h2 fun _ _ h => by apply State.loadPins_keeps h <;> assumption
  clear_value s3
  have h4 : s4.Keeps F I o T := State.each_keeps h3 fun _ _ h => by apply State.writeMarker_keeps h <;> assumption
  clear_value s4
  apply State.modSlots_keeps h4 <;> first | assumption | exact fun a h => h

theorem State.startLocks_keeps {s : State} (h_s : s.Keeps F I o T) (f_slots : F .slots = true)
    (f_mov : F .mov = true) :
    (State.startLocks s).Keeps F I o T := by
  unfold State.startLocks
  try dsimp only
  repeat' first
    | with_reducible assumption
    | (with_reducible refine State.each_keeps ?_ fun _ _ _ => ?_)
    | with_reducible apply State.modSlots_keeps
    | with_reducible apply State.setFault_keeps
    | refine State.Keeps.fst (by with_reducible assumption) ?_
    | refine State.Keeps.snd (by with_reducible assumption) ?_
    | refine State.Keeps.snd2 (by with_reducible assumption) ?_
    | refine State.Keeps.snd3 (by with_reducible assumption) ?_
    | split
    | with_reducible intro a_
    | dsimp only
    | with_reducible rfl
    | (simp_all; done)

theorem State.scrubRange_keeps {s : State} {keep : List (Nat × Nat)} {r : Nat × Nat} (h_s : s.Keeps F I o T)
    (f_mem : F .mem = true) :
    (s.scrubRange keep r).Keeps F I o T :=
  State.with_mem h_s f_mem fun i => Tab.wf_filter _ _ _ (h_s.mem i)

theorem State.snapRelease_keeps {s : State} (h_s : s.Keeps F I o T) (f_obs : F .obs = true) :
    (State.snapRelease s).Keeps F I o T := by
  unfold State.snapRelease
  repeat' first
    | with_reducible assumption
    | with_reducible apply State.modSnap_keeps
    | split

theorem State.snapWrite_keeps {s : State} {release : Bool} {fire : Bool} (h_s : s.Keeps F I o T)
    (f_fresh : F .fresh = true) (f_notices : F .notices = true) (f_mem : F .mem = true) (f_sk : F .sk = true)
        (f_obs : F .obs = true) :
    (State.snapWrite s release fire).Keeps F I o T := by
  unfold State.snapWrite
  repeat' first
    | with_reducible assumption
    | with_reducible apply State.snapRelease_keeps
    | with_reducible apply State.trigger_keeps
    | split

theorem State.foundFull_keeps {s : State} (h_s : s.Keeps F I o T) (f_notices : F .notices = true)
    (f_obs : F .obs = true) :
    (State.foundFull s).Keeps F I o T := by
  unfold State.foundFull
  try dsimp only
  repeat' first
    | with_reducible assumption
    | with_reducible apply State.modObs_keeps
    | with_reducible apply State.raise_keeps
    | refine State.Keeps.fst (by with_reducible assumption) ?_
    | refine State.Keeps.snd (by with_reducible assumption) ?_
    | refine State.Keeps.snd2 (by with_reducible assumption) ?_
    | refine State.Keeps.snd3 (by with_reducible assumption) ?_
    | split
    | with_reducible intro a_
    | dsimp only
    | with_reducible rfl
    | (simp_all; done)

theorem State.wildAction_keeps {s : State} {off : Nat} {v : Nat} (h_s : s.Keeps F I o T) (f_fresh : F .fresh = true)
    (f_regs : F .regs = true) (f_notices : F .notices = true) (f_mem : F .mem = true) (f_wild : F .wild = true)
        (f_slots : F .slots = true) (f_disp : F .disp = true) (f_eng : F .eng = true) (f_arr : F .arr = true)
            (f_net : F .net = true) (f_mov : F .mov = true) (f_hi : F .hi = true) (f_peer : F .peer = true)
                (f_porters : F .porters = true) (f_sk : F .sk = true) (f_obs : F .obs = true) :
    (State.wildAction s off v).Keeps F I o T := by
  unfold State.wildAction
  repeat' first
    | with_reducible assumption
    | with_reducible apply State.abortChan_keeps
    | with_reducible apply State.abortEvery_keeps
    | with_reducible apply State.abortRing_keeps
    | with_reducible apply State.cfCommand_keeps
    | with_reducible apply State.headWrite_keeps
    | with_reducible apply State.mbCommand_keeps
    | with_reducible apply State.snapWrite_keeps
    | split

theorem State.wildAccess_keeps {s : State} {off : Nat} (h_s : s.Keeps F I o T) (f_fresh : F .fresh = true)
    (f_regs : F .regs = true) (f_notices : F .notices = true) (f_mem : F .mem = true) (f_wild : F .wild = true)
        (f_slots : F .slots = true) (f_disp : F .disp = true) (f_eng : F .eng = true) (f_arr : F .arr = true)
            (f_net : F .net = true) (f_mov : F .mov = true) (f_hi : F .hi = true) (f_peer : F .peer = true)
                (f_porters : F .porters = true) (f_sk : F .sk = true) (f_obs : F .obs = true) :
    (State.wildAccess s off).Keeps F I o T := by
  unfold State.wildAccess
  try dsimp only
  repeat' first
    | with_reducible assumption
    | with_reducible apply State.draw_keeps
    | with_reducible apply State.modSlots_keeps
    | with_reducible apply State.scramble_keeps
    | with_reducible apply State.setRing_keeps
    | with_reducible apply State.startConn_keeps
    | with_reducible apply State.wildAction_keeps
    | with_reducible apply State.wildRing_keeps
    | refine State.Keeps.fst (by with_reducible assumption) ?_
    | refine State.Keeps.snd (by with_reducible assumption) ?_
    | refine State.Keeps.snd2 (by with_reducible assumption) ?_
    | refine State.Keeps.snd3 (by with_reducible assumption) ?_
    | split
    | with_reducible intro a_
    | dsimp only
    | with_reducible rfl
    | (simp_all; done)

theorem State.action_keeps {s : State} {off : Nat} {f : State → State} (h_s : s.Keeps F I o T)
    (h_f : ∀ a0, a0.Keeps F I o T → (f a0).Keeps F I o T) (f_fresh : F .fresh = true) (f_regs : F .regs = true)
        (f_notices : F .notices = true) (f_mem : F .mem = true) (f_wild : F .wild = true)
            (f_slots : F .slots = true) (f_disp : F .disp = true) (f_eng : F .eng = true) (f_arr : F .arr = true)
                (f_net : F .net = true) (f_mov : F .mov = true) (f_hi : F .hi = true) (f_peer : F .peer = true)
                    (f_porters : F .porters = true) (f_sk : F .sk = true) (f_obs : F .obs = true) :
    (State.action s off f).Keeps F I o T := by
  unfold State.action
  repeat' first
    | with_reducible assumption
    | with_reducible apply State.wildAccess_keeps
    | with_reducible apply h_f
    | split

theorem State.pageWrite_keeps {s : State} {page : Nat} {off : Nat} {size : Nat} {data : Word}
    (h_s : s.Keeps F I o T) (f_fresh : F .fresh = true) (f_notices : F .notices = true) (f_wild : F .wild = true)
        (f_disp : F .disp = true) (f_eng : F .eng = true) (f_arr : F .arr = true) (f_net : F .net = true)
            (f_mov : F .mov = true) (f_peer : F .peer = true) (f_porters : F .porters = true)
                (f_obs : F .obs = true) :
    (State.pageWrite s page off size data).Keeps F I o T := by
  unfold State.pageWrite
  try dsimp only
  repeat' first
    | with_reducible assumption
    | with_reducible apply State.class0Write_keeps
    | with_reducible apply State.cqCons_keeps
    | with_reducible apply State.onRing_keeps
    | with_reducible apply State.sqProd_keeps
    | refine State.Keeps.fst (by with_reducible assumption) ?_
    | refine State.Keeps.snd (by with_reducible assumption) ?_
    | refine State.Keeps.snd2 (by with_reducible assumption) ?_
    | refine State.Keeps.snd3 (by with_reducible assumption) ?_
    | split
    | with_reducible intro a_
    | dsimp only
    | with_reducible rfl
    | (simp_all; done)

theorem State.registerWrite_keeps {s : State} {o' : Nat} {size : Nat} {data : Word} (h_s : s.Keeps F I o T)
    (f_fresh : F .fresh = true) (f_regs : F .regs = true) (f_notices : F .notices = true) (f_mem : F .mem = true)
        (f_wild : F .wild = true) (f_slots : F .slots = true) (f_disp : F .disp = true) (f_eng : F .eng = true)
            (f_arr : F .arr = true) (f_net : F .net = true) (f_mov : F .mov = true) (f_hi : F .hi = true)
                (f_peer : F .peer = true) (f_porters : F .porters = true) (f_sk : F .sk = true)
                    (f_obs : F .obs = true) :
    (State.registerWrite s o' size data).Keeps F I o T := by
  unfold State.registerWrite
  repeat' first
    | with_reducible assumption
    | with_reducible apply State.mbCommand_keeps
    | with_reducible apply State.pageWrite_keeps
    | with_reducible apply State.setBits_keeps
    | with_reducible apply State.wildAccess_keeps
    | refine State.Keeps.fst (by with_reducible assumption) ?_
    | refine State.Keeps.snd (by with_reducible assumption) ?_
    | refine State.Keeps.snd2 (by with_reducible assumption) ?_
    | refine State.Keeps.snd3 (by with_reducible assumption) ?_
    | split
    | dsimp only

theorem State.w1cClear_keeps {s : State} {o' : Nat} {size : Nat} {data : Word} {hwSet : Word}
    (h_s : s.Keeps F I o T) (f_fresh : F .fresh = true) (f_notices : F .notices = true) (f_arr : F .arr = true) :
    (State.w1cClear s o' size data hwSet).Keeps F I o T := by
  unfold State.w1cClear
  repeat' first
    | with_reducible assumption
    | with_reducible apply State.draw_keeps
    | with_reducible apply State.lower_keeps
    | with_reducible apply State.raise_keeps
    | with_reducible apply State.setArray_keeps
    | refine State.Keeps.fst (by with_reducible assumption) ?_
    | refine State.Keeps.snd (by with_reducible assumption) ?_
    | refine State.Keeps.snd2 (by with_reducible assumption) ?_
    | refine State.Keeps.snd3 (by with_reducible assumption) ?_
    | split
    | dsimp only

theorem State.sinkWrite_keeps {s : State} {size : Nat} {data : Word} (h_s : s.Keeps F I o T)
    (f_fresh : F .fresh = true) (f_regs : F .regs = true) (f_notices : F .notices = true) (f_mem : F .mem = true)
        (f_wild : F .wild = true) (f_slots : F .slots = true) (f_disp : F .disp = true) (f_eng : F .eng = true)
            (f_arr : F .arr = true) (f_net : F .net = true) (f_mov : F .mov = true) (f_hi : F .hi = true)
                (f_peer : F .peer = true) (f_porters : F .porters = true) (f_sk : F .sk = true)
                    (f_obs : F .obs = true) :
    (State.sinkWrite s size data).Keeps F I o T := by
  unfold State.sinkWrite
  repeat' first
    | with_reducible assumption
    | with_reducible apply State.setReg_keeps
    | with_reducible apply State.wildAccess_keeps
    | refine State.Keeps.fst (by with_reducible assumption) ?_
    | refine State.Keeps.snd (by with_reducible assumption) ?_
    | refine State.Keeps.snd2 (by with_reducible assumption) ?_
    | refine State.Keeps.snd3 (by with_reducible assumption) ?_
    | split
    | dsimp only

theorem State.connWrite_keeps {s : State} {c : Nat} {ctl : Word} (h_s : s.Keeps F I o T) (f_fresh : F .fresh = true)
    (f_regs : F .regs = true) (f_notices : F .notices = true) (f_mem : F .mem = true) (f_wild : F .wild = true)
        (f_slots : F .slots = true) (f_disp : F .disp = true) (f_eng : F .eng = true) (f_arr : F .arr = true)
            (f_net : F .net = true) (f_mov : F .mov = true) (f_hi : F .hi = true) (f_peer : F .peer = true)
                (f_porters : F .porters = true) (f_sk : F .sk = true) (f_obs : F .obs = true) :
    (State.connWrite s c ctl).Keeps F I o T := by
  unfold State.connWrite
  repeat' first
    | with_reducible assumption
    | with_reducible apply State.setReg_keeps
    | with_reducible apply State.startConn_keeps
    | with_reducible apply State.wildAccess_keeps
    | refine State.Keeps.fst (by with_reducible assumption) ?_
    | refine State.Keeps.snd (by with_reducible assumption) ?_
    | refine State.Keeps.snd2 (by with_reducible assumption) ?_
    | refine State.Keeps.snd3 (by with_reducible assumption) ?_
    | split
    | dsimp only

theorem State.runTarget_keeps {s : State} {c : Instr} (h_s : s.Keeps F I o T) (f_fresh : F .fresh = true)
    (f_regs : F .regs = true) (f_notices : F .notices = true) (f_mem : F .mem = true) (f_wild : F .wild = true)
        (f_slots : F .slots = true) (f_disp : F .disp = true) (f_eng : F .eng = true) (f_arr : F .arr = true)
            (f_net : F .net = true) (f_mov : F .mov = true) (f_hi : F .hi = true) (f_peer : F .peer = true)
                (f_porters : F .porters = true) (f_sk : F .sk = true) (f_obs : F .obs = true) :
                    (s.runTarget c).Keeps F I o T := by
  cases c
  case registerWrite off size data =>
    change State.Keeps (s.registerWrite off.toNat size data) F I o T
    repeat' first
      | with_reducible assumption
      | with_reducible exact OutK.refused _
      | with_reducible apply OutK.next
      | with_reducible exact OptK.none
      | with_reducible apply OptK.some
      | with_reducible apply State.registerWrite_keeps
      | refine State.Keeps.fst (by with_reducible assumption) ?_
      | refine State.Keeps.snd (by with_reducible assumption) ?_
      | refine State.Keeps.snd2 (by with_reducible assumption) ?_
      | refine State.Keeps.snd3 (by with_reducible assumption) ?_
      | split
      | with_reducible intro a_
      | dsimp only
  case w1cClear off size data hwSet =>
    change State.Keeps (s.w1cClear off.toNat size data hwSet) F I o T
    repeat' first
      | with_reducible assumption
      | with_reducible exact OutK.refused _
      | with_reducible apply OutK.next
      | with_reducible exact OptK.none
      | with_reducible apply OptK.some
      | with_reducible apply State.w1cClear_keeps
      | refine State.Keeps.fst (by with_reducible assumption) ?_
      | refine State.Keeps.snd (by with_reducible assumption) ?_
      | refine State.Keeps.snd2 (by with_reducible assumption) ?_
      | refine State.Keeps.snd3 (by with_reducible assumption) ?_
      | split
      | with_reducible intro a_
      | dsimp only
  case sqProd page size data =>
    change State.Keeps (s.pageWrite page 0 size data) F I o T
    repeat' first
      | with_reducible assumption
      | with_reducible exact OutK.refused _
      | with_reducible apply OutK.next
      | with_reducible exact OptK.none
      | with_reducible apply OptK.some
      | with_reducible apply State.pageWrite_keeps
      | refine State.Keeps.fst (by with_reducible assumption) ?_
      | refine State.Keeps.snd (by with_reducible assumption) ?_
      | refine State.Keeps.snd2 (by with_reducible assumption) ?_
      | refine State.Keeps.snd3 (by with_reducible assumption) ?_
      | split
      | with_reducible intro a_
      | dsimp only
  case cqCons page size data =>
    change State.Keeps (s.pageWrite page 8 size data) F I o T
    repeat' first
      | with_reducible assumption
      | with_reducible exact OutK.refused _
      | with_reducible apply OutK.next
      | with_reducible exact OptK.none
      | with_reducible apply OptK.some
      | with_reducible apply State.pageWrite_keeps
      | refine State.Keeps.fst (by with_reducible assumption) ?_
      | refine State.Keeps.snd (by with_reducible assumption) ?_
      | refine State.Keeps.snd2 (by with_reducible assumption) ?_
      | refine State.Keeps.snd3 (by with_reducible assumption) ?_
      | split
      | with_reducible intro a_
      | dsimp only
  case class0Pool page y bytes =>
    change State.Keeps (s.class0Write page bytes false) F I o T
    repeat' first
      | with_reducible assumption
      | with_reducible exact OutK.refused _
      | with_reducible apply OutK.next
      | with_reducible exact OptK.none
      | with_reducible apply OptK.some
      | with_reducible apply State.class0Write_keeps
      | refine State.Keeps.fst (by with_reducible assumption) ?_
      | refine State.Keeps.snd (by with_reducible assumption) ?_
      | refine State.Keeps.snd2 (by with_reducible assumption) ?_
      | refine State.Keeps.snd3 (by with_reducible assumption) ?_
      | split
      | with_reducible intro a_
      | dsimp only
  case class0Score page y bytes =>
    change State.Keeps (s.class0Write page bytes true) F I o T
    repeat' first
      | with_reducible assumption
      | with_reducible exact OutK.refused _
      | with_reducible apply OutK.next
      | with_reducible exact OptK.none
      | with_reducible apply OptK.some
      | with_reducible apply State.class0Write_keeps
      | refine State.Keeps.fst (by with_reducible assumption) ?_
      | refine State.Keeps.snd (by with_reducible assumption) ?_
      | refine State.Keeps.snd2 (by with_reducible assumption) ?_
      | refine State.Keeps.snd3 (by with_reducible assumption) ?_
      | split
      | with_reducible intro a_
      | dsimp only
  case rgCtlEnSet r =>
    change State.Keeps (s.action (Reg.rgCtl r) fun s => s.ringOn r) F I o T
    repeat' first
      | with_reducible assumption
      | with_reducible exact OutK.refused _
      | with_reducible apply OutK.next
      | with_reducible exact OptK.none
      | with_reducible apply OptK.some
      | with_reducible apply State.action_keeps
      | with_reducible apply State.ringOn_keeps
      | refine State.Keeps.fst (by with_reducible assumption) ?_
      | refine State.Keeps.snd (by with_reducible assumption) ?_
      | refine State.Keeps.snd2 (by with_reducible assumption) ?_
      | refine State.Keeps.snd3 (by with_reducible assumption) ?_
      | split
      | with_reducible intro a_
      | dsimp only
  case rgCtlEnClear r =>
    change State.Keeps (s.action (Reg.rgCtl r) fun s => s.ringOff r) F I o T
    repeat' first
      | with_reducible assumption
      | with_reducible exact OutK.refused _
      | with_reducible apply OutK.next
      | with_reducible exact OptK.none
      | with_reducible apply OptK.some
      | with_reducible apply State.action_keeps
      | with_reducible apply State.ringOff_keeps
      | refine State.Keeps.fst (by with_reducible assumption) ?_
      | refine State.Keeps.snd (by with_reducible assumption) ?_
      | refine State.Keeps.snd2 (by with_reducible assumption) ?_
      | refine State.Keeps.snd3 (by with_reducible assumption) ?_
      | split
      | with_reducible intro a_
      | dsimp only
  case rgAbort r slot all =>
    change State.Keeps (s.action (Reg.rgSq r + 0x28) fun s => s.abortRing r slot.toNat all) F I o T
    repeat' first
      | with_reducible assumption
      | with_reducible exact OutK.refused _
      | with_reducible apply OutK.next
      | with_reducible exact OptK.none
      | with_reducible apply OptK.some
      | with_reducible apply State.action_keeps
      | with_reducible apply State.abortRing_keeps
      | refine State.Keeps.fst (by with_reducible assumption) ?_
      | refine State.Keeps.snd (by with_reducible assumption) ?_
      | refine State.Keeps.snd2 (by with_reducible assumption) ?_
      | refine State.Keeps.snd3 (by with_reducible assumption) ?_
      | split
      | with_reducible intro a_
      | dsimp only
  case abortAll =>
    change State.Keeps (s.action Reg.fnCtl State.abortEvery) F I o T
    repeat' first
      | with_reducible assumption
      | with_reducible exact OutK.refused _
      | with_reducible apply OutK.next
      | with_reducible exact OptK.none
      | with_reducible apply OptK.some
      | with_reducible apply State.action_keeps
      | with_reducible apply State.abortEvery_keeps
      | refine State.Keeps.fst (by with_reducible assumption) ?_
      | refine State.Keeps.snd (by with_reducible assumption) ?_
      | refine State.Keeps.snd2 (by with_reducible assumption) ?_
      | refine State.Keeps.snd3 (by with_reducible assumption) ?_
      | split
      | with_reducible intro a_
      | dsimp only
  case mvChHead ch addr =>
    change State.Keeps (s.action (Reg.mvHead ch) fun s => s.headWrite ch addr.toNat) F I o T
    repeat' first
      | with_reducible assumption
      | with_reducible exact OutK.refused _
      | with_reducible apply OutK.next
      | with_reducible exact OptK.none
      | with_reducible apply OptK.some
      | with_reducible apply State.action_keeps
      | with_reducible apply State.headWrite_keeps
      | refine State.Keeps.fst (by with_reducible assumption) ?_
      | refine State.Keeps.snd (by with_reducible assumption) ?_
      | refine State.Keeps.snd2 (by with_reducible assumption) ?_
      | refine State.Keeps.snd3 (by with_reducible assumption) ?_
      | split
      | with_reducible intro a_
      | dsimp only
  case mvChAbort ch =>
    change State.Keeps (s.action (Reg.mvCtl ch) fun s => s.abortChan ch) F I o T
    repeat' first
      | with_reducible assumption
      | with_reducible exact OutK.refused _
      | with_reducible apply OutK.next
      | with_reducible exact OptK.none
      | with_reducible apply OptK.some
      | with_reducible apply State.action_keeps
      | with_reducible apply State.abortChan_keeps
      | refine State.Keeps.fst (by with_reducible assumption) ?_
      | refine State.Keeps.snd (by with_reducible assumption) ?_
      | refine State.Keeps.snd2 (by with_reducible assumption) ?_
      | refine State.Keeps.snd3 (by with_reducible assumption) ?_
      | split
      | with_reducible intro a_
      | dsimp only
  case stage =>
    change State.Keeps (s.cfCommand 1) F I o T
    repeat' first
      | with_reducible assumption
      | with_reducible exact OutK.refused _
      | with_reducible apply OutK.next
      | with_reducible exact OptK.none
      | with_reducible apply OptK.some
      | with_reducible apply State.cfCommand_keeps
      | refine State.Keeps.fst (by with_reducible assumption) ?_
      | refine State.Keeps.snd (by with_reducible assumption) ?_
      | refine State.Keeps.snd2 (by with_reducible assumption) ?_
      | refine State.Keeps.snd3 (by with_reducible assumption) ?_
      | split
      | with_reducible intro a_
      | dsimp only
  case activate =>
    change State.Keeps (s.cfCommand 2) F I o T
    repeat' first
      | with_reducible assumption
      | with_reducible exact OutK.refused _
      | with_reducible apply OutK.next
      | with_reducible exact OptK.none
      | with_reducible apply OptK.some
      | with_reducible apply State.cfCommand_keeps
      | refine State.Keeps.fst (by with_reducible assumption) ?_
      | refine State.Keeps.snd (by with_reducible assumption) ?_
      | refine State.Keeps.snd2 (by with_reducible assumption) ?_
      | refine State.Keeps.snd3 (by with_reducible assumption) ?_
      | split
      | with_reducible intro a_
      | dsimp only
  case rollback =>
    change State.Keeps (s.cfCommand 3) F I o T
    repeat' first
      | with_reducible assumption
      | with_reducible exact OutK.refused _
      | with_reducible apply OutK.next
      | with_reducible exact OptK.none
      | with_reducible apply OptK.some
      | with_reducible apply State.cfCommand_keeps
      | refine State.Keeps.fst (by with_reducible assumption) ?_
      | refine State.Keeps.snd (by with_reducible assumption) ?_
      | refine State.Keeps.snd2 (by with_reducible assumption) ?_
      | refine State.Keeps.snd3 (by with_reducible assumption) ?_
      | split
      | with_reducible intro a_
      | dsimp only
  case activateDigest =>
    change State.Keeps (s.cfCommand 4) F I o T
    repeat' first
      | with_reducible assumption
      | with_reducible exact OutK.refused _
      | with_reducible apply OutK.next
      | with_reducible exact OptK.none
      | with_reducible apply OptK.some
      | with_reducible apply State.cfCommand_keeps
      | refine State.Keeps.fst (by with_reducible assumption) ?_
      | refine State.Keeps.snd (by with_reducible assumption) ?_
      | refine State.Keeps.snd2 (by with_reducible assumption) ?_
      | refine State.Keeps.snd3 (by with_reducible assumption) ?_
      | split
      | with_reducible intro a_
      | dsimp only
  case discard =>
    change State.Keeps (s.cfCommand 5) F I o T
    repeat' first
      | with_reducible assumption
      | with_reducible exact OutK.refused _
      | with_reducible apply OutK.next
      | with_reducible exact OptK.none
      | with_reducible apply OptK.some
      | with_reducible apply State.cfCommand_keeps
      | refine State.Keeps.fst (by with_reducible assumption) ?_
      | refine State.Keeps.snd (by with_reducible assumption) ?_
      | refine State.Keeps.snd2 (by with_reducible assumption) ?_
      | refine State.Keeps.snd3 (by with_reducible assumption) ?_
      | split
      | with_reducible intro a_
      | dsimp only
  case teardown =>
    change State.Keeps (s.cfCommand 6) F I o T
    repeat' first
      | with_reducible assumption
      | with_reducible exact OutK.refused _
      | with_reducible apply OutK.next
      | with_reducible exact OptK.none
      | with_reducible apply OptK.some
      | with_reducible apply State.cfCommand_keeps
      | refine State.Keeps.fst (by with_reducible assumption) ?_
      | refine State.Keeps.snd (by with_reducible assumption) ?_
      | refine State.Keeps.snd2 (by with_reducible assumption) ?_
      | refine State.Keeps.snd3 (by with_reducible assumption) ?_
      | split
      | with_reducible intro a_
      | dsimp only
  case fire release =>
    change State.Keeps (s.action Reg.obSnapTrig fun s => s.snapWrite release true) F I o T
    repeat' first
      | with_reducible assumption
      | with_reducible exact OutK.refused _
      | with_reducible apply OutK.next
      | with_reducible exact OptK.none
      | with_reducible apply OptK.some
      | with_reducible apply State.action_keeps
      | with_reducible apply State.snapWrite_keeps
      | refine State.Keeps.fst (by with_reducible assumption) ?_
      | refine State.Keeps.snd (by with_reducible assumption) ?_
      | refine State.Keeps.snd2 (by with_reducible assumption) ?_
      | refine State.Keeps.snd3 (by with_reducible assumption) ?_
      | split
      | with_reducible intro a_
      | dsimp only
  case snapRelease =>
    change State.Keeps (s.action Reg.obSnapTrig fun s => s.snapWrite true false) F I o T
    repeat' first
      | with_reducible assumption
      | with_reducible exact OutK.refused _
      | with_reducible apply OutK.next
      | with_reducible exact OptK.none
      | with_reducible apply OptK.some
      | with_reducible apply State.action_keeps
      | with_reducible apply State.snapWrite_keeps
      | refine State.Keeps.fst (by with_reducible assumption) ?_
      | refine State.Keeps.snd (by with_reducible assumption) ?_
      | refine State.Keeps.snd2 (by with_reducible assumption) ?_
      | refine State.Keeps.snd3 (by with_reducible assumption) ?_
      | split
      | with_reducible intro a_
      | dsimp only
  case obSinkPtr size data =>
    change State.Keeps (s.action Reg.obSinkPtr fun s => s.sinkWrite size data) F I o T
    repeat' first
      | with_reducible assumption
      | with_reducible exact OutK.refused _
      | with_reducible apply OutK.next
      | with_reducible exact OptK.none
      | with_reducible apply OptK.some
      | with_reducible apply State.action_keeps
      | with_reducible apply State.sinkWrite_keeps
      | refine State.Keeps.fst (by with_reducible assumption) ?_
      | refine State.Keeps.snd (by with_reducible assumption) ?_
      | refine State.Keeps.snd2 (by with_reducible assumption) ?_
      | refine State.Keeps.snd3 (by with_reducible assumption) ?_
      | split
      | with_reducible intro a_
      | dsimp only
  case skMbLogRead =>
    change State.Keeps (s.action Reg.mbCmd fun s => s.mbCommand 1) F I o T
    repeat' first
      | with_reducible assumption
      | with_reducible exact OutK.refused _
      | with_reducible apply OutK.next
      | with_reducible exact OptK.none
      | with_reducible apply OptK.some
      | with_reducible apply State.action_keeps
      | with_reducible apply State.mbCommand_keeps
      | refine State.Keeps.fst (by with_reducible assumption) ?_
      | refine State.Keeps.snd (by with_reducible assumption) ?_
      | refine State.Keeps.snd2 (by with_reducible assumption) ?_
      | refine State.Keeps.snd3 (by with_reducible assumption) ?_
      | split
      | with_reducible intro a_
      | dsimp only
  case skMbSensors =>
    change State.Keeps (s.action Reg.mbCmd fun s => s.mbCommand 2) F I o T
    repeat' first
      | with_reducible assumption
      | with_reducible exact OutK.refused _
      | with_reducible apply OutK.next
      | with_reducible exact OptK.none
      | with_reducible apply OptK.some
      | with_reducible apply State.action_keeps
      | with_reducible apply State.mbCommand_keeps
      | refine State.Keeps.fst (by with_reducible assumption) ?_
      | refine State.Keeps.snd (by with_reducible assumption) ?_
      | refine State.Keeps.snd2 (by with_reducible assumption) ?_
      | refine State.Keeps.snd3 (by with_reducible assumption) ?_
      | split
      | with_reducible intro a_
      | dsimp only
  case skMbFwInfo =>
    change State.Keeps (s.action Reg.mbCmd fun s => s.mbCommand 3) F I o T
    repeat' first
      | with_reducible assumption
      | with_reducible exact OutK.refused _
      | with_reducible apply OutK.next
      | with_reducible exact OptK.none
      | with_reducible apply OptK.some
      | with_reducible apply State.action_keeps
      | with_reducible apply State.mbCommand_keeps
      | refine State.Keeps.fst (by with_reducible assumption) ?_
      | refine State.Keeps.snd (by with_reducible assumption) ?_
      | refine State.Keeps.snd2 (by with_reducible assumption) ?_
      | refine State.Keeps.snd3 (by with_reducible assumption) ?_
      | split
      | with_reducible intro a_
      | dsimp only
  case skMbReports =>
    change State.Keeps (s.action Reg.mbCmd fun s => s.mbCommand 4) F I o T
    repeat' first
      | with_reducible assumption
      | with_reducible exact OutK.refused _
      | with_reducible apply OutK.next
      | with_reducible exact OptK.none
      | with_reducible apply OptK.some
      | with_reducible apply State.action_keeps
      | with_reducible apply State.mbCommand_keeps
      | refine State.Keeps.fst (by with_reducible assumption) ?_
      | refine State.Keeps.snd (by with_reducible assumption) ?_
      | refine State.Keeps.snd2 (by with_reducible assumption) ?_
      | refine State.Keeps.snd3 (by with_reducible assumption) ?_
      | split
      | with_reducible intro a_
      | dsimp only
  case pwCnValidSet c ctl =>
    change State.Keeps (s.action (Reg.pwCn c + 0x10) fun s => s.connWrite c ctl) F I o T
    repeat' first
      | with_reducible assumption
      | with_reducible exact OutK.refused _
      | with_reducible apply OutK.next
      | with_reducible exact OptK.none
      | with_reducible apply OptK.some
      | with_reducible apply State.action_keeps
      | with_reducible apply State.connWrite_keeps
      | refine State.Keeps.fst (by with_reducible assumption) ?_
      | refine State.Keeps.snd (by with_reducible assumption) ?_
      | refine State.Keeps.snd2 (by with_reducible assumption) ?_
      | refine State.Keeps.snd3 (by with_reducible assumption) ?_
      | split
      | with_reducible intro a_
      | dsimp only
  all_goals exact h_s

theorem State.resumeTarget_keeps {s : State} {n : Nat} (h_s : s.Keeps F I o T) (f_fresh : F .fresh = true)
    (f_pwr : F .pwr = true) (f_host : F .host = true) (f_regs : F .regs = true) (f_notices : F .notices = true)
        (f_mem : F .mem = true) (f_wild : F .wild = true) (f_slots : F .slots = true) (f_disp : F .disp = true)
            (f_eng : F .eng = true) (f_arr : F .arr = true) (f_net : F .net = true) (f_mov : F .mov = true)
                (f_hi : F .hi = true) (f_peer : F .peer = true) (f_porters : F .porters = true)
                    (f_sk : F .sk = true) (f_obs : F .obs = true) : (s.resumeTarget n).Keeps F I o T := by
  induction n generalizing s with
  | zero => exact h_s
  | succ n ih =>
    unfold State.resumeTarget
    split
    · split
      · exact h_s
      · refine ih ?_
        apply State.runTarget_keeps <;> try assumption
        have h1 := State.with_pwr (v := { s.pwr with wcred := s.pwr.wcred + targetBeats ‹Instr› }) h_s f_pwr
        exact State.with_host (v := { s.host with waiting := ‹List Instr› }) h1 f_host h_s.epoch
    · exact h_s

theorem State.atTarget_keeps {s : State} {c : Instr} (h_s : s.Keeps F I o T) (h_c : (s.runTarget c).Keeps F I o T)
    (f_pwr : F .pwr = true) (f_host : F .host = true) : OutK F I o T (s.atTarget c) := by
  unfold State.atTarget
  extract_lets n
  split
  · exact OutK.next h_s
  split
  · have h1 := State.with_pwr (v := { s.pwr with wcred := s.pwr.wcred - n }) h_s f_pwr
    exact OutK.next (State.with_host (v := { s.host with waiting := s.host.waiting ++ [c] }) h1 f_host h_s.epoch)
  · exact OutK.next h_c

theorem State.lateActions_keeps {s : State} (h_s : s.Keeps F I o T) (f_fresh : F .fresh = true)
    (f_regs : F .regs = true) (f_notices : F .notices = true) (f_mem : F .mem = true) (f_wild : F .wild = true)
        (f_slots : F .slots = true) (f_disp : F .disp = true) (f_eng : F .eng = true) (f_arr : F .arr = true)
            (f_net : F .net = true) (f_mov : F .mov = true) (f_hi : F .hi = true) (f_peer : F .peer = true)
                (f_porters : F .porters = true) (f_sk : F .sk = true) (f_obs : F .obs = true) :
    (State.lateActions s).Keeps F I o T := by
  unfold State.lateActions
  try dsimp only
  repeat' first
    | with_reducible assumption
    | (with_reducible refine State.each_keeps ?_ fun _ _ _ => ?_)
    | with_reducible apply State.modSlots_keeps
    | with_reducible apply State.wildAction_keeps
    | refine State.Keeps.fst (by with_reducible assumption) ?_
    | refine State.Keeps.snd (by with_reducible assumption) ?_
    | refine State.Keeps.snd2 (by with_reducible assumption) ?_
    | refine State.Keeps.snd3 (by with_reducible assumption) ?_
    | split
    | with_reducible intro a_
    | dsimp only
    | with_reducible rfl
    | (simp_all; done)

theorem State.resume_keeps {s : State} {c : CfgCmd} (h_s : s.Keeps F I o T) (f_fresh : F .fresh = true)
    (f_regs : F .regs = true) (f_notices : F .notices = true) (f_mem : F .mem = true) (f_wild : F .wild = true)
        (f_slots : F .slots = true) (f_disp : F .disp = true) (f_eng : F .eng = true) (f_arr : F .arr = true)
            (f_net : F .net = true) (f_mov : F .mov = true) (f_hi : F .hi = true) (f_peer : F .peer = true)
                (f_porters : F .porters = true) (f_sk : F .sk = true) (f_obs : F .obs = true) :
    (State.resume s c).Keeps F I o T := by
  unfold State.resume
  try dsimp only
  repeat' first
    | with_reducible assumption
    | (with_reducible refine State.each_keeps ?_ fun _ _ _ => ?_)
    | with_reducible apply State.beginStage_keeps
    | with_reducible apply State.count_keeps
    | with_reducible apply State.endCmd_keeps
    | with_reducible apply State.lateActions_keeps
    | with_reducible apply State.log_keeps
    | with_reducible apply State.modSlots_keeps
    | with_reducible apply State.noteReady_keeps
    | with_reducible apply State.rampAll_keeps
    | with_reducible apply State.releasePeers_keeps
    | refine State.Keeps.fst (by with_reducible assumption) ?_
    | refine State.Keeps.snd (by with_reducible assumption) ?_
    | refine State.Keeps.snd2 (by with_reducible assumption) ?_
    | refine State.Keeps.snd3 (by with_reducible assumption) ?_
    | split
    | with_reducible intro a_
    | dsimp only
    | with_reducible refine ⟨?_, ?_, ?_⟩
    | with_reducible rfl
    | apply Tab.wf_set
    | apply Tab.wf_filter
    | apply Tab.wf_modify
    | apply Memory.wf_put
    | apply Memory.wf_write
    | with_reducible refine State.Keeps.mem (F := F) (o := o) (T := T) ?_ (by assumption)
    | with_reducible refine State.Keeps.regs (F := F) (o := o) (T := T) ?_ (by assumption)
    | with_reducible refine State.Keeps.notices (F := F) (o := o) (T := T) ?_ (by assumption)
    | with_reducible refine State.Keeps.counters (F := F) (o := o) (T := T) ?_ (by assumption)
    | with_reducible refine State.Keeps.drops (F := F) (o := o) (T := T) ?_ (by assumption)
    | with_reducible refine State.Keeps.epoch (F := F) (o := o) (T := T) ?_ (by assumption)
    | with_reducible refine State.Keeps.generation (F := F) (o := o) (T := T) ?_ (by assumption)
    | with_reducible refine State.Keeps.prod (F := F) (o := o) (T := T) ?_ (by assumption)
    | with_reducible refine State.Keeps.log (F := F) (o := o) (T := T) ?_ (by assumption)
    | with_reducible refine State.Keeps.tiles (F := F) (I := I) (o := o) ?_
    | exact Nat.mod_lt _ (by decide)
    | (simp_all; done)
    | (simp_all; omega)

theorem State.restartFails_keeps {s : State} {status : Nat} (h_s : s.Keeps F I o T) (f_fresh : F .fresh = true)
    (f_regs : F .regs = true) (f_notices : F .notices = true) (f_mem : F .mem = true) (f_wild : F .wild = true)
        (f_slots : F .slots = true) (f_disp : F .disp = true) (f_eng : F .eng = true) (f_arr : F .arr = true)
            (f_net : F .net = true) (f_mov : F .mov = true) (f_hi : F .hi = true) (f_peer : F .peer = true)
                (f_porters : F .porters = true) (f_sk : F .sk = true) (f_obs : F .obs = true) :
    (State.restartFails s status).Keeps F I o T := by
  unfold State.restartFails
  try dsimp only
  repeat' first
    | with_reducible assumption
    | with_reducible apply State.endCmd_keeps
    | with_reducible apply State.lateActions_keeps
    | with_reducible apply State.log_keeps
    | with_reducible apply State.modSlots_keeps
    | refine State.Keeps.fst (by with_reducible assumption) ?_
    | refine State.Keeps.snd (by with_reducible assumption) ?_
    | refine State.Keeps.snd2 (by with_reducible assumption) ?_
    | refine State.Keeps.snd3 (by with_reducible assumption) ?_
    | split
    | with_reducible intro a_
    | dsimp only
    | with_reducible rfl
    | (simp_all; done)

theorem State.tearDown_keeps {s : State} {c : CfgCmd} (h_s : s.Keeps F I o T) (f_fresh : F .fresh = true)
    (f_regs : F .regs = true) (f_notices : F .notices = true) (f_mem : F .mem = true) (f_wild : F .wild = true)
        (f_slots : F .slots = true) (f_cfg : F .cfg = true) (f_disp : F .disp = true) (f_eng : F .eng = true)
            (f_arr : F .arr = true) (f_net : F .net = true) (f_mov : F .mov = true) (f_hi : F .hi = true)
                (f_peer : F .peer = true) (f_porters : F .porters = true) (f_sk : F .sk = true)
                    (f_obs : F .obs = true) : (s.tearDown c).Keeps F I o T := by
  have h1 : (s.clear.swapSlots 3).Keeps F I o T := by
    repeat' first
      | with_reducible assumption
      | with_reducible exact OutK.refused _
      | with_reducible apply OutK.next
      | with_reducible exact OptK.none
      | with_reducible apply OptK.some
      | with_reducible apply State.swapSlots_keeps
      | with_reducible apply State.clear_keeps
      | refine State.Keeps.fst (by with_reducible assumption) ?_
      | refine State.Keeps.snd (by with_reducible assumption) ?_
      | refine State.Keeps.snd2 (by with_reducible assumption) ?_
      | refine State.Keeps.snd3 (by with_reducible assumption) ?_
      | split
      | with_reducible intro a_
      | dsimp only
  have h2 := State.with_cfg (v := Cfg.empty) h1 f_cfg
  have h3 := State.modSlots_keeps (f := fun l => { l with cmd := none, scrubbing := true })
    (s := State.lateActions { s.clear.swapSlots 3 with cfg := Cfg.empty })
    (by apply State.lateActions_keeps h2 <;> assumption) (fun a h => h) f_slots
  unfold State.tearDown
  dsimp only
  repeat' first
      | with_reducible assumption
      | with_reducible exact OutK.refused _
      | with_reducible apply OutK.next
      | with_reducible exact OptK.none
      | with_reducible apply OptK.some
      | with_reducible apply State.noteReady_keeps
      | with_reducible apply State.endCmd_keeps
      | with_reducible apply State.releasePeers_keeps
      | refine State.Keeps.fst (by with_reducible assumption) ?_
      | refine State.Keeps.snd (by with_reducible assumption) ?_
      | refine State.Keeps.snd2 (by with_reducible assumption) ?_
      | refine State.Keeps.snd3 (by with_reducible assumption) ?_
      | split
      | with_reducible intro a_
      | dsimp only

theorem State.failUpdate_keeps {s : State} {code : Nat} (h_s : s.Keeps F I o T) (f_fresh : F .fresh = true)
    (f_peer : F .peer = true) (f_sk : F .sk = true) :
    (State.failUpdate s code).Keeps F I o T := by
  unfold State.failUpdate
  repeat' first
    | with_reducible assumption
    | with_reducible apply State.draw_keeps
    | with_reducible apply State.respond_keeps
    | split

theorem State.asked_keeps {s : State} {f : Out} (h_s : s.Keeps F I o T) (h_f : OutK F I o T f) :
    OutK F I o T (State.asked s f) := by
  unfold State.asked
  repeat' first
    | with_reducible assumption
    | with_reducible exact OutK.refused _
    | with_reducible apply OutK.next
    | split

theorem State.pldm_keeps {s : State} {cmd : Nat} {status : Nat} {body : Bytes} (h_s : s.Keeps F I o T)
    (f_sk : F .sk = true) :
    (State.pldm s cmd status body).Keeps F I o T := by
  unfold State.pldm
  try dsimp only
  repeat' first
    | with_reducible assumption
    | with_reducible apply State.modSk_keeps
    | refine State.Keeps.fst (by with_reducible assumption) ?_
    | refine State.Keeps.snd (by with_reducible assumption) ?_
    | refine State.Keeps.snd2 (by with_reducible assumption) ?_
    | refine State.Keeps.snd3 (by with_reducible assumption) ?_
    | split
    | with_reducible intro a_
    | dsimp only
    | with_reducible rfl
    | (simp_all; done)

theorem State.pldmRefuse_keeps {s : State} {cmd : Nat} (h_s : s.Keeps F I o T) (f_fresh : F .fresh = true)
    (f_sk : F .sk = true) :
    (State.pldmRefuse s cmd).Keeps F I o T := by
  unfold State.pldmRefuse
  repeat' first
    | with_reducible assumption
    | with_reducible apply State.draw_keeps
    | with_reducible apply State.pldm_keeps
    | split

theorem State.modUpdate_keeps {s : State} {f : Update → Update} (h_s : s.Keeps F I o T) (f_sk : F .sk = true) :
    (State.modUpdate s f).Keeps F I o T := by
  unfold State.modUpdate
  try dsimp only
  repeat' first
    | with_reducible assumption
    | with_reducible apply State.modSk_keeps
    | refine State.Keeps.fst (by with_reducible assumption) ?_
    | refine State.Keeps.snd (by with_reducible assumption) ?_
    | refine State.Keeps.snd2 (by with_reducible assumption) ?_
    | refine State.Keeps.snd3 (by with_reducible assumption) ?_
    | split
    | with_reducible intro a_
    | dsimp only
    | with_reducible rfl
    | (simp_all; done)

theorem State.askData_keeps {s : State} (h_s : s.Keeps F I o T) (f_fresh : F .fresh = true) (f_sk : F .sk = true) :
    (State.askData s).Keeps F I o T := by
  unfold State.askData
  repeat' first
    | with_reducible assumption
    | with_reducible apply State.draw_keeps
    | with_reducible apply State.pldm_keeps
    | refine State.Keeps.fst (by with_reducible assumption) ?_
    | refine State.Keeps.snd (by with_reducible assumption) ?_
    | refine State.Keeps.snd2 (by with_reducible assumption) ?_
    | refine State.Keeps.snd3 (by with_reducible assumption) ?_
    | split
    | dsimp only

theorem State.firmwareWritten_keeps {s : State} {signer : Nat} {svn : Nat} {sigOk : Bool} (h_s : s.Keeps F I o T)
    (f_fresh : F .fresh = true) (f_mem : F .mem = true) (f_sk : F .sk = true) (f_obs : F .obs = true) :
    (State.firmwareWritten s signer svn sigOk).Keeps F I o T := by
  unfold State.firmwareWritten
  try dsimp only
  repeat' first
    | with_reducible assumption
    | with_reducible apply State.logFw_keeps
    | with_reducible apply State.modSk_keeps
    | with_reducible apply State.modUpdate_keeps
    | with_reducible apply State.pldm_keeps
    | with_reducible apply State.pldmRefuse_keeps
    | refine State.Keeps.fst (by with_reducible assumption) ?_
    | refine State.Keeps.snd (by with_reducible assumption) ?_
    | refine State.Keeps.snd2 (by with_reducible assumption) ?_
    | refine State.Keeps.snd3 (by with_reducible assumption) ?_
    | split
    | with_reducible intro a_
    | dsimp only
    | with_reducible rfl
    | (simp_all; done)

theorem State.imageWritten_keeps {s : State} {img : Bytes} (h_s : s.Keeps F I o T) (f_fresh : F .fresh = true)
    (f_notices : F .notices = true) (f_mem : F .mem = true) (f_slots : F .slots = true) (f_sk : F .sk = true)
        (f_obs : F .obs = true) :
    (State.imageWritten s img).Keeps F I o T := by
  unfold State.imageWritten
  repeat' first
    | with_reducible assumption
    | with_reducible apply State.modUpdate_keeps
    | with_reducible apply State.pldm_keeps
    | with_reducible apply State.pldmRefuse_keeps
    | with_reducible apply State.raise_keeps
    | with_reducible apply State.staged_keeps
    | refine State.Keeps.fst (by with_reducible assumption) ?_
    | refine State.Keeps.snd (by with_reducible assumption) ?_
    | refine State.Keeps.snd2 (by with_reducible assumption) ?_
    | refine State.Keeps.snd3 (by with_reducible assumption) ?_
    | split
    | dsimp only

theorem State.idle_keeps {s : State} (h_s : s.Keeps F I o T) (f_sk : F .sk = true) :
    (State.idle s).Keeps F I o T := by
  unfold State.idle
  try dsimp only
  repeat' first
    | with_reducible assumption
    | with_reducible apply State.modSk_keeps
    | refine State.Keeps.fst (by with_reducible assumption) ?_
    | refine State.Keeps.snd (by with_reducible assumption) ?_
    | refine State.Keeps.snd2 (by with_reducible assumption) ?_
    | refine State.Keeps.snd3 (by with_reducible assumption) ?_
    | split
    | with_reducible intro a_
    | dsimp only
    | with_reducible rfl
    | (simp_all; done)

theorem State.endRefreshes_keeps {s : State} (h_s : s.Keeps F I o T) (f_mem : F .mem = true) :
    (State.endRefreshes s).Keeps F I o T := by
  unfold State.endRefreshes
  repeat' first
    | with_reducible assumption
    | (with_reducible refine State.each_keeps ?_ fun _ _ _ => ?_)
    | with_reducible apply State.markDone_keeps
    | split

theorem State.bankZero_keeps {s : State} {n : Nat} (h_s : s.Keeps F I o T) (f_obs : F .obs = true) :
    (State.bankZero s n).Keeps F I o T := by
  unfold State.bankZero
  try dsimp only
  repeat' first
    | with_reducible assumption
    | with_reducible apply State.with_obs
    | refine State.Keeps.fst (by with_reducible assumption) ?_
    | refine State.Keeps.snd (by with_reducible assumption) ?_
    | refine State.Keeps.snd2 (by with_reducible assumption) ?_
    | refine State.Keeps.snd3 (by with_reducible assumption) ?_
    | split
    | with_reducible intro a_
    | dsimp only
    | with_reducible refine ⟨?_, ?_, ?_⟩
    | with_reducible rfl
    | apply Tab.wf_set
    | apply Tab.wf_filter
    | apply Tab.wf_modify
    | apply Memory.wf_put
    | apply Memory.wf_write
    | with_reducible refine State.Keeps.mem (F := F) (o := o) (T := T) ?_ (by assumption)
    | with_reducible refine State.Keeps.regs (F := F) (o := o) (T := T) ?_ (by assumption)
    | with_reducible refine State.Keeps.notices (F := F) (o := o) (T := T) ?_ (by assumption)
    | with_reducible refine State.Keeps.counters (F := F) (o := o) (T := T) ?_ (by assumption)
    | with_reducible refine State.Keeps.drops (F := F) (o := o) (T := T) ?_ (by assumption)
    | with_reducible refine State.Keeps.epoch (F := F) (o := o) (T := T) ?_ (by assumption)
    | with_reducible refine State.Keeps.generation (F := F) (o := o) (T := T) ?_ (by assumption)
    | with_reducible refine State.Keeps.prod (F := F) (o := o) (T := T) ?_ (by assumption)
    | with_reducible refine State.Keeps.log (F := F) (o := o) (T := T) ?_ (by assumption)
    | with_reducible refine State.Keeps.tiles (F := F) (I := I) (o := o) ?_
    | exact Nat.mod_lt _ (by decide)
    | (simp_all; done)
    | (simp_all; omega)

theorem State.skStarted_keeps {s : State} {rec : Option IntegrationRecord} (h_s : s.Keeps F I o T)
    (f_fresh : F .fresh = true) (f_notices : F .notices = true) (f_mem : F .mem = true) (f_wild : F .wild = true)
        (f_disp : F .disp = true) (f_eng : F .eng = true) (f_arr : F .arr = true) (f_net : F .net = true)
            (f_mov : F .mov = true) (f_hi : F .hi = true) (f_peer : F .peer = true) (f_porters : F .porters = true)
                (f_sk : F .sk = true) (f_obs : F .obs = true) :
    (s.skStarted rec).Keeps F I o T := by
  have h1 := State.modSk_keeps (f := fun k => { k with up := true, record := rec }.ceiled) h_s
      (fun a h => h) f_sk
  have h2 := State.modMov_keeps (f := fun m => { m with stackBase := loadBases rec }) h1 f_mov
  unfold State.skStarted
  dsimp only
  repeat' first
      | with_reducible assumption
      | with_reducible exact OutK.refused _
      | with_reducible apply OutK.next
      | with_reducible exact OptK.none
      | with_reducible apply OptK.some
      | with_reducible apply State.skBack_keeps
      | refine State.Keeps.fst (by with_reducible assumption) ?_
      | refine State.Keeps.snd (by with_reducible assumption) ?_
      | refine State.Keeps.snd2 (by with_reducible assumption) ?_
      | refine State.Keeps.snd3 (by with_reducible assumption) ?_
      | split
      | with_reducible intro a_
      | dsimp only

end Sys2Proof.Machine
end

