-- ==== Sys2Proof/Laws/State.lean ====
section
/-! SUPPORT. What each update of a part leaves of every other part, and what a read after it gives. -/

namespace Sys2Proof.Machine

open Sys2Proof

variable (s : State)

@[simp] theorem State.setRing_pending (r : Nat) (v : Ring) : (s.setRing r v).pending = s.pending := rfl
@[simp] theorem State.setRing_fresh (r : Nat) (v : Ring) : (s.setRing r v).fresh = s.fresh := rfl
@[simp] theorem State.setRing_pwr (r : Nat) (v : Ring) : (s.setRing r v).pwr = s.pwr := rfl
@[simp] theorem State.setRing_host (r : Nat) (v : Ring) : (s.setRing r v).host = s.host := rfl
@[simp] theorem State.setRing_regs (r : Nat) (v : Ring) : (s.setRing r v).regs = s.regs := rfl
@[simp] theorem State.setRing_notices (r : Nat) (v : Ring) : (s.setRing r v).notices = s.notices := rfl
@[simp] theorem State.setRing_mem (r : Nat) (v : Ring) : (s.setRing r v).mem = s.mem := rfl
@[simp] theorem State.setRing_wild (r : Nat) (v : Ring) : (s.setRing r v).wild = s.wild := rfl
@[simp] theorem State.setRing_slots (r : Nat) (v : Ring) : (s.setRing r v).slots = s.slots := rfl
@[simp] theorem State.setRing_cfg (r : Nat) (v : Ring) : (s.setRing r v).cfg = s.cfg := rfl
@[simp] theorem State.setRing_eng (r : Nat) (v : Ring) : (s.setRing r v).eng = s.eng := rfl
@[simp] theorem State.setRing_arr (r : Nat) (v : Ring) : (s.setRing r v).arr = s.arr := rfl
@[simp] theorem State.setRing_net (r : Nat) (v : Ring) : (s.setRing r v).net = s.net := rfl
@[simp] theorem State.setRing_mov (r : Nat) (v : Ring) : (s.setRing r v).mov = s.mov := rfl
@[simp] theorem State.setRing_hi (r : Nat) (v : Ring) : (s.setRing r v).hi = s.hi := rfl
@[simp] theorem State.setRing_peer (r : Nat) (v : Ring) : (s.setRing r v).peer = s.peer := rfl
@[simp] theorem State.setRing_porters (r : Nat) (v : Ring) : (s.setRing r v).porters = s.porters := rfl
@[simp] theorem State.setRing_sk (r : Nat) (v : Ring) : (s.setRing r v).sk = s.sk := rfl
@[simp] theorem State.setRing_obs (r : Nat) (v : Ring) : (s.setRing r v).obs = s.obs := rfl
@[simp] theorem State.setRing_ring_get (r : Nat) (v : Ring) (x : Nat) : (s.setRing r v).ring x = if x = r then v else s.ring x := by
  simp [State.ring, State.setRing]

@[simp] theorem State.setWork_pending (w : Nat) (v : Work) : (s.setWork w v).pending = s.pending := rfl
@[simp] theorem State.setWork_fresh (w : Nat) (v : Work) : (s.setWork w v).fresh = s.fresh := rfl
@[simp] theorem State.setWork_pwr (w : Nat) (v : Work) : (s.setWork w v).pwr = s.pwr := rfl
@[simp] theorem State.setWork_host (w : Nat) (v : Work) : (s.setWork w v).host = s.host := rfl
@[simp] theorem State.setWork_regs (w : Nat) (v : Work) : (s.setWork w v).regs = s.regs := rfl
@[simp] theorem State.setWork_notices (w : Nat) (v : Work) : (s.setWork w v).notices = s.notices := rfl
@[simp] theorem State.setWork_mem (w : Nat) (v : Work) : (s.setWork w v).mem = s.mem := rfl
@[simp] theorem State.setWork_wild (w : Nat) (v : Work) : (s.setWork w v).wild = s.wild := rfl
@[simp] theorem State.setWork_slots (w : Nat) (v : Work) : (s.setWork w v).slots = s.slots := rfl
@[simp] theorem State.setWork_cfg (w : Nat) (v : Work) : (s.setWork w v).cfg = s.cfg := rfl
@[simp] theorem State.setWork_eng (w : Nat) (v : Work) : (s.setWork w v).eng = s.eng := rfl
@[simp] theorem State.setWork_arr (w : Nat) (v : Work) : (s.setWork w v).arr = s.arr := rfl
@[simp] theorem State.setWork_net (w : Nat) (v : Work) : (s.setWork w v).net = s.net := rfl
@[simp] theorem State.setWork_mov (w : Nat) (v : Work) : (s.setWork w v).mov = s.mov := rfl
@[simp] theorem State.setWork_hi (w : Nat) (v : Work) : (s.setWork w v).hi = s.hi := rfl
@[simp] theorem State.setWork_peer (w : Nat) (v : Work) : (s.setWork w v).peer = s.peer := rfl
@[simp] theorem State.setWork_porters (w : Nat) (v : Work) : (s.setWork w v).porters = s.porters := rfl
@[simp] theorem State.setWork_sk (w : Nat) (v : Work) : (s.setWork w v).sk = s.sk := rfl
@[simp] theorem State.setWork_obs (w : Nat) (v : Work) : (s.setWork w v).obs = s.obs := rfl
@[simp] theorem State.setWork_work_get (w : Nat) (v : Work) (x : Nat) : (s.setWork w v).work x = if x = w then some v else s.work x := by
  simp [State.work, State.setWork]

@[simp] theorem State.dropWork_pending (w : Nat) : (s.dropWork w).pending = s.pending := rfl
@[simp] theorem State.dropWork_fresh (w : Nat) : (s.dropWork w).fresh = s.fresh := rfl
@[simp] theorem State.dropWork_pwr (w : Nat) : (s.dropWork w).pwr = s.pwr := rfl
@[simp] theorem State.dropWork_host (w : Nat) : (s.dropWork w).host = s.host := rfl
@[simp] theorem State.dropWork_regs (w : Nat) : (s.dropWork w).regs = s.regs := rfl
@[simp] theorem State.dropWork_notices (w : Nat) : (s.dropWork w).notices = s.notices := rfl
@[simp] theorem State.dropWork_mem (w : Nat) : (s.dropWork w).mem = s.mem := rfl
@[simp] theorem State.dropWork_wild (w : Nat) : (s.dropWork w).wild = s.wild := rfl
@[simp] theorem State.dropWork_slots (w : Nat) : (s.dropWork w).slots = s.slots := rfl
@[simp] theorem State.dropWork_cfg (w : Nat) : (s.dropWork w).cfg = s.cfg := rfl
@[simp] theorem State.dropWork_eng (w : Nat) : (s.dropWork w).eng = s.eng := rfl
@[simp] theorem State.dropWork_arr (w : Nat) : (s.dropWork w).arr = s.arr := rfl
@[simp] theorem State.dropWork_net (w : Nat) : (s.dropWork w).net = s.net := rfl
@[simp] theorem State.dropWork_mov (w : Nat) : (s.dropWork w).mov = s.mov := rfl
@[simp] theorem State.dropWork_hi (w : Nat) : (s.dropWork w).hi = s.hi := rfl
@[simp] theorem State.dropWork_peer (w : Nat) : (s.dropWork w).peer = s.peer := rfl
@[simp] theorem State.dropWork_porters (w : Nat) : (s.dropWork w).porters = s.porters := rfl
@[simp] theorem State.dropWork_sk (w : Nat) : (s.dropWork w).sk = s.sk := rfl
@[simp] theorem State.dropWork_obs (w : Nat) : (s.dropWork w).obs = s.obs := rfl
@[simp] theorem State.dropWork_work_get (w : Nat) (x : Nat) : (s.dropWork w).work x = if x = w then none else s.work x := by
  simp [State.work, State.dropWork]

@[simp] theorem State.setScatter_pending (i : Nat) (v : Option Scatter) : (s.setScatter i v).pending = s.pending := rfl
@[simp] theorem State.setScatter_fresh (i : Nat) (v : Option Scatter) : (s.setScatter i v).fresh = s.fresh := rfl
@[simp] theorem State.setScatter_pwr (i : Nat) (v : Option Scatter) : (s.setScatter i v).pwr = s.pwr := rfl
@[simp] theorem State.setScatter_host (i : Nat) (v : Option Scatter) : (s.setScatter i v).host = s.host := rfl
@[simp] theorem State.setScatter_regs (i : Nat) (v : Option Scatter) : (s.setScatter i v).regs = s.regs := rfl
@[simp] theorem State.setScatter_notices (i : Nat) (v : Option Scatter) : (s.setScatter i v).notices = s.notices := rfl
@[simp] theorem State.setScatter_mem (i : Nat) (v : Option Scatter) : (s.setScatter i v).mem = s.mem := rfl
@[simp] theorem State.setScatter_wild (i : Nat) (v : Option Scatter) : (s.setScatter i v).wild = s.wild := rfl
@[simp] theorem State.setScatter_slots (i : Nat) (v : Option Scatter) : (s.setScatter i v).slots = s.slots := rfl
@[simp] theorem State.setScatter_cfg (i : Nat) (v : Option Scatter) : (s.setScatter i v).cfg = s.cfg := rfl
@[simp] theorem State.setScatter_eng (i : Nat) (v : Option Scatter) : (s.setScatter i v).eng = s.eng := rfl
@[simp] theorem State.setScatter_arr (i : Nat) (v : Option Scatter) : (s.setScatter i v).arr = s.arr := rfl
@[simp] theorem State.setScatter_net (i : Nat) (v : Option Scatter) : (s.setScatter i v).net = s.net := rfl
@[simp] theorem State.setScatter_mov (i : Nat) (v : Option Scatter) : (s.setScatter i v).mov = s.mov := rfl
@[simp] theorem State.setScatter_hi (i : Nat) (v : Option Scatter) : (s.setScatter i v).hi = s.hi := rfl
@[simp] theorem State.setScatter_peer (i : Nat) (v : Option Scatter) : (s.setScatter i v).peer = s.peer := rfl
@[simp] theorem State.setScatter_porters (i : Nat) (v : Option Scatter) : (s.setScatter i v).porters = s.porters := rfl
@[simp] theorem State.setScatter_sk (i : Nat) (v : Option Scatter) : (s.setScatter i v).sk = s.sk := rfl
@[simp] theorem State.setScatter_obs (i : Nat) (v : Option Scatter) : (s.setScatter i v).obs = s.obs := rfl
@[simp] theorem State.setScatter_scatter_get (i : Nat) (v : Option Scatter) (x : Nat) : (s.setScatter i v).scatter x = if x = i then v else s.scatter x := by
  simp [State.scatter, State.setScatter]

@[simp] theorem State.setEngine_pending (p : Nat) (v : Engine) : (s.setEngine p v).pending = s.pending := rfl
@[simp] theorem State.setEngine_fresh (p : Nat) (v : Engine) : (s.setEngine p v).fresh = s.fresh := rfl
@[simp] theorem State.setEngine_pwr (p : Nat) (v : Engine) : (s.setEngine p v).pwr = s.pwr := rfl
@[simp] theorem State.setEngine_host (p : Nat) (v : Engine) : (s.setEngine p v).host = s.host := rfl
@[simp] theorem State.setEngine_regs (p : Nat) (v : Engine) : (s.setEngine p v).regs = s.regs := rfl
@[simp] theorem State.setEngine_notices (p : Nat) (v : Engine) : (s.setEngine p v).notices = s.notices := rfl
@[simp] theorem State.setEngine_mem (p : Nat) (v : Engine) : (s.setEngine p v).mem = s.mem := rfl
@[simp] theorem State.setEngine_wild (p : Nat) (v : Engine) : (s.setEngine p v).wild = s.wild := rfl
@[simp] theorem State.setEngine_slots (p : Nat) (v : Engine) : (s.setEngine p v).slots = s.slots := rfl
@[simp] theorem State.setEngine_cfg (p : Nat) (v : Engine) : (s.setEngine p v).cfg = s.cfg := rfl
@[simp] theorem State.setEngine_disp (p : Nat) (v : Engine) : (s.setEngine p v).disp = s.disp := rfl
@[simp] theorem State.setEngine_arr (p : Nat) (v : Engine) : (s.setEngine p v).arr = s.arr := rfl
@[simp] theorem State.setEngine_net (p : Nat) (v : Engine) : (s.setEngine p v).net = s.net := rfl
@[simp] theorem State.setEngine_mov (p : Nat) (v : Engine) : (s.setEngine p v).mov = s.mov := rfl
@[simp] theorem State.setEngine_hi (p : Nat) (v : Engine) : (s.setEngine p v).hi = s.hi := rfl
@[simp] theorem State.setEngine_peer (p : Nat) (v : Engine) : (s.setEngine p v).peer = s.peer := rfl
@[simp] theorem State.setEngine_porters (p : Nat) (v : Engine) : (s.setEngine p v).porters = s.porters := rfl
@[simp] theorem State.setEngine_sk (p : Nat) (v : Engine) : (s.setEngine p v).sk = s.sk := rfl
@[simp] theorem State.setEngine_obs (p : Nat) (v : Engine) : (s.setEngine p v).obs = s.obs := rfl
@[simp] theorem State.setEngine_engine_get (p : Nat) (v : Engine) (x : Nat) : (s.setEngine p v).engine x = if x = p then v else s.engine x := by
  simp [State.engine, State.setEngine]

@[simp] theorem State.modEngine_pending (p : Nat) (f : Engine → Engine) : (s.modEngine p f).pending = s.pending := rfl
@[simp] theorem State.modEngine_fresh (p : Nat) (f : Engine → Engine) : (s.modEngine p f).fresh = s.fresh := rfl
@[simp] theorem State.modEngine_pwr (p : Nat) (f : Engine → Engine) : (s.modEngine p f).pwr = s.pwr := rfl
@[simp] theorem State.modEngine_host (p : Nat) (f : Engine → Engine) : (s.modEngine p f).host = s.host := rfl
@[simp] theorem State.modEngine_regs (p : Nat) (f : Engine → Engine) : (s.modEngine p f).regs = s.regs := rfl
@[simp] theorem State.modEngine_notices (p : Nat) (f : Engine → Engine) : (s.modEngine p f).notices = s.notices := rfl
@[simp] theorem State.modEngine_mem (p : Nat) (f : Engine → Engine) : (s.modEngine p f).mem = s.mem := rfl
@[simp] theorem State.modEngine_wild (p : Nat) (f : Engine → Engine) : (s.modEngine p f).wild = s.wild := rfl
@[simp] theorem State.modEngine_slots (p : Nat) (f : Engine → Engine) : (s.modEngine p f).slots = s.slots := rfl
@[simp] theorem State.modEngine_cfg (p : Nat) (f : Engine → Engine) : (s.modEngine p f).cfg = s.cfg := rfl
@[simp] theorem State.modEngine_disp (p : Nat) (f : Engine → Engine) : (s.modEngine p f).disp = s.disp := rfl
@[simp] theorem State.modEngine_arr (p : Nat) (f : Engine → Engine) : (s.modEngine p f).arr = s.arr := rfl
@[simp] theorem State.modEngine_net (p : Nat) (f : Engine → Engine) : (s.modEngine p f).net = s.net := rfl
@[simp] theorem State.modEngine_mov (p : Nat) (f : Engine → Engine) : (s.modEngine p f).mov = s.mov := rfl
@[simp] theorem State.modEngine_hi (p : Nat) (f : Engine → Engine) : (s.modEngine p f).hi = s.hi := rfl
@[simp] theorem State.modEngine_peer (p : Nat) (f : Engine → Engine) : (s.modEngine p f).peer = s.peer := rfl
@[simp] theorem State.modEngine_porters (p : Nat) (f : Engine → Engine) : (s.modEngine p f).porters = s.porters := rfl
@[simp] theorem State.modEngine_sk (p : Nat) (f : Engine → Engine) : (s.modEngine p f).sk = s.sk := rfl
@[simp] theorem State.modEngine_obs (p : Nat) (f : Engine → Engine) : (s.modEngine p f).obs = s.obs := rfl
@[simp] theorem State.modEngine_engine_get (p : Nat) (f : Engine → Engine) (x : Nat) : (s.modEngine p f).engine x = if x = p then f (s.engine p) else s.engine x := by
  simp [State.engine, State.modEngine, State.setEngine, State.engine]

@[simp] theorem State.setArray_pending (a : Nat) (v : ArraySt) : (s.setArray a v).pending = s.pending := rfl
@[simp] theorem State.setArray_fresh (a : Nat) (v : ArraySt) : (s.setArray a v).fresh = s.fresh := rfl
@[simp] theorem State.setArray_pwr (a : Nat) (v : ArraySt) : (s.setArray a v).pwr = s.pwr := rfl
@[simp] theorem State.setArray_host (a : Nat) (v : ArraySt) : (s.setArray a v).host = s.host := rfl
@[simp] theorem State.setArray_regs (a : Nat) (v : ArraySt) : (s.setArray a v).regs = s.regs := rfl
@[simp] theorem State.setArray_notices (a : Nat) (v : ArraySt) : (s.setArray a v).notices = s.notices := rfl
@[simp] theorem State.setArray_mem (a : Nat) (v : ArraySt) : (s.setArray a v).mem = s.mem := rfl
@[simp] theorem State.setArray_wild (a : Nat) (v : ArraySt) : (s.setArray a v).wild = s.wild := rfl
@[simp] theorem State.setArray_slots (a : Nat) (v : ArraySt) : (s.setArray a v).slots = s.slots := rfl
@[simp] theorem State.setArray_cfg (a : Nat) (v : ArraySt) : (s.setArray a v).cfg = s.cfg := rfl
@[simp] theorem State.setArray_disp (a : Nat) (v : ArraySt) : (s.setArray a v).disp = s.disp := rfl
@[simp] theorem State.setArray_eng (a : Nat) (v : ArraySt) : (s.setArray a v).eng = s.eng := rfl
@[simp] theorem State.setArray_net (a : Nat) (v : ArraySt) : (s.setArray a v).net = s.net := rfl
@[simp] theorem State.setArray_mov (a : Nat) (v : ArraySt) : (s.setArray a v).mov = s.mov := rfl
@[simp] theorem State.setArray_hi (a : Nat) (v : ArraySt) : (s.setArray a v).hi = s.hi := rfl
@[simp] theorem State.setArray_peer (a : Nat) (v : ArraySt) : (s.setArray a v).peer = s.peer := rfl
@[simp] theorem State.setArray_porters (a : Nat) (v : ArraySt) : (s.setArray a v).porters = s.porters := rfl
@[simp] theorem State.setArray_sk (a : Nat) (v : ArraySt) : (s.setArray a v).sk = s.sk := rfl
@[simp] theorem State.setArray_obs (a : Nat) (v : ArraySt) : (s.setArray a v).obs = s.obs := rfl
@[simp] theorem State.setArray_array_get (a : Nat) (v : ArraySt) (x : Nat) : (s.setArray a v).array x = if x = a then v else s.array x := by
  simp [State.array, State.setArray]

@[simp] theorem State.setSem_pending (p : Nat) (v : Sem) : (s.setSem p v).pending = s.pending := rfl
@[simp] theorem State.setSem_fresh (p : Nat) (v : Sem) : (s.setSem p v).fresh = s.fresh := rfl
@[simp] theorem State.setSem_pwr (p : Nat) (v : Sem) : (s.setSem p v).pwr = s.pwr := rfl
@[simp] theorem State.setSem_host (p : Nat) (v : Sem) : (s.setSem p v).host = s.host := rfl
@[simp] theorem State.setSem_regs (p : Nat) (v : Sem) : (s.setSem p v).regs = s.regs := rfl
@[simp] theorem State.setSem_notices (p : Nat) (v : Sem) : (s.setSem p v).notices = s.notices := rfl
@[simp] theorem State.setSem_mem (p : Nat) (v : Sem) : (s.setSem p v).mem = s.mem := rfl
@[simp] theorem State.setSem_wild (p : Nat) (v : Sem) : (s.setSem p v).wild = s.wild := rfl
@[simp] theorem State.setSem_slots (p : Nat) (v : Sem) : (s.setSem p v).slots = s.slots := rfl
@[simp] theorem State.setSem_cfg (p : Nat) (v : Sem) : (s.setSem p v).cfg = s.cfg := rfl
@[simp] theorem State.setSem_disp (p : Nat) (v : Sem) : (s.setSem p v).disp = s.disp := rfl
@[simp] theorem State.setSem_eng (p : Nat) (v : Sem) : (s.setSem p v).eng = s.eng := rfl
@[simp] theorem State.setSem_net (p : Nat) (v : Sem) : (s.setSem p v).net = s.net := rfl
@[simp] theorem State.setSem_mov (p : Nat) (v : Sem) : (s.setSem p v).mov = s.mov := rfl
@[simp] theorem State.setSem_hi (p : Nat) (v : Sem) : (s.setSem p v).hi = s.hi := rfl
@[simp] theorem State.setSem_peer (p : Nat) (v : Sem) : (s.setSem p v).peer = s.peer := rfl
@[simp] theorem State.setSem_porters (p : Nat) (v : Sem) : (s.setSem p v).porters = s.porters := rfl
@[simp] theorem State.setSem_sk (p : Nat) (v : Sem) : (s.setSem p v).sk = s.sk := rfl
@[simp] theorem State.setSem_obs (p : Nat) (v : Sem) : (s.setSem p v).obs = s.obs := rfl
@[simp] theorem State.setSem_sem_get (p : Nat) (v : Sem) (x : Nat) : (s.setSem p v).sem x = if x = p then v else s.sem x := by
  simp [State.sem, State.setSem]

@[simp] theorem State.setAgent_pending (n : Nat) (v : Agent) : (s.setAgent n v).pending = s.pending := rfl
@[simp] theorem State.setAgent_fresh (n : Nat) (v : Agent) : (s.setAgent n v).fresh = s.fresh := rfl
@[simp] theorem State.setAgent_pwr (n : Nat) (v : Agent) : (s.setAgent n v).pwr = s.pwr := rfl
@[simp] theorem State.setAgent_host (n : Nat) (v : Agent) : (s.setAgent n v).host = s.host := rfl
@[simp] theorem State.setAgent_regs (n : Nat) (v : Agent) : (s.setAgent n v).regs = s.regs := rfl
@[simp] theorem State.setAgent_notices (n : Nat) (v : Agent) : (s.setAgent n v).notices = s.notices := rfl
@[simp] theorem State.setAgent_mem (n : Nat) (v : Agent) : (s.setAgent n v).mem = s.mem := rfl
@[simp] theorem State.setAgent_wild (n : Nat) (v : Agent) : (s.setAgent n v).wild = s.wild := rfl
@[simp] theorem State.setAgent_slots (n : Nat) (v : Agent) : (s.setAgent n v).slots = s.slots := rfl
@[simp] theorem State.setAgent_cfg (n : Nat) (v : Agent) : (s.setAgent n v).cfg = s.cfg := rfl
@[simp] theorem State.setAgent_disp (n : Nat) (v : Agent) : (s.setAgent n v).disp = s.disp := rfl
@[simp] theorem State.setAgent_eng (n : Nat) (v : Agent) : (s.setAgent n v).eng = s.eng := rfl
@[simp] theorem State.setAgent_arr (n : Nat) (v : Agent) : (s.setAgent n v).arr = s.arr := rfl
@[simp] theorem State.setAgent_mov (n : Nat) (v : Agent) : (s.setAgent n v).mov = s.mov := rfl
@[simp] theorem State.setAgent_hi (n : Nat) (v : Agent) : (s.setAgent n v).hi = s.hi := rfl
@[simp] theorem State.setAgent_peer (n : Nat) (v : Agent) : (s.setAgent n v).peer = s.peer := rfl
@[simp] theorem State.setAgent_porters (n : Nat) (v : Agent) : (s.setAgent n v).porters = s.porters := rfl
@[simp] theorem State.setAgent_sk (n : Nat) (v : Agent) : (s.setAgent n v).sk = s.sk := rfl
@[simp] theorem State.setAgent_obs (n : Nat) (v : Agent) : (s.setAgent n v).obs = s.obs := rfl
@[simp] theorem State.setAgent_agent_get (n : Nat) (v : Agent) (x : Nat) : (s.setAgent n v).agent x = if x = n then v else s.agent x := by
  simp [State.agent, State.setAgent]

@[simp] theorem State.modAgent_pending (n : Nat) (f : Agent → Agent) : (s.modAgent n f).pending = s.pending := rfl
@[simp] theorem State.modAgent_fresh (n : Nat) (f : Agent → Agent) : (s.modAgent n f).fresh = s.fresh := rfl
@[simp] theorem State.modAgent_pwr (n : Nat) (f : Agent → Agent) : (s.modAgent n f).pwr = s.pwr := rfl
@[simp] theorem State.modAgent_host (n : Nat) (f : Agent → Agent) : (s.modAgent n f).host = s.host := rfl
@[simp] theorem State.modAgent_regs (n : Nat) (f : Agent → Agent) : (s.modAgent n f).regs = s.regs := rfl
@[simp] theorem State.modAgent_notices (n : Nat) (f : Agent → Agent) : (s.modAgent n f).notices = s.notices := rfl
@[simp] theorem State.modAgent_mem (n : Nat) (f : Agent → Agent) : (s.modAgent n f).mem = s.mem := rfl
@[simp] theorem State.modAgent_wild (n : Nat) (f : Agent → Agent) : (s.modAgent n f).wild = s.wild := rfl
@[simp] theorem State.modAgent_slots (n : Nat) (f : Agent → Agent) : (s.modAgent n f).slots = s.slots := rfl
@[simp] theorem State.modAgent_cfg (n : Nat) (f : Agent → Agent) : (s.modAgent n f).cfg = s.cfg := rfl
@[simp] theorem State.modAgent_disp (n : Nat) (f : Agent → Agent) : (s.modAgent n f).disp = s.disp := rfl
@[simp] theorem State.modAgent_eng (n : Nat) (f : Agent → Agent) : (s.modAgent n f).eng = s.eng := rfl
@[simp] theorem State.modAgent_arr (n : Nat) (f : Agent → Agent) : (s.modAgent n f).arr = s.arr := rfl
@[simp] theorem State.modAgent_mov (n : Nat) (f : Agent → Agent) : (s.modAgent n f).mov = s.mov := rfl
@[simp] theorem State.modAgent_hi (n : Nat) (f : Agent → Agent) : (s.modAgent n f).hi = s.hi := rfl
@[simp] theorem State.modAgent_peer (n : Nat) (f : Agent → Agent) : (s.modAgent n f).peer = s.peer := rfl
@[simp] theorem State.modAgent_porters (n : Nat) (f : Agent → Agent) : (s.modAgent n f).porters = s.porters := rfl
@[simp] theorem State.modAgent_sk (n : Nat) (f : Agent → Agent) : (s.modAgent n f).sk = s.sk := rfl
@[simp] theorem State.modAgent_obs (n : Nat) (f : Agent → Agent) : (s.modAgent n f).obs = s.obs := rfl
@[simp] theorem State.modAgent_agent_get (n : Nat) (f : Agent → Agent) (x : Nat) : (s.modAgent n f).agent x = if x = n then f (s.agent n) else s.agent x := by
  simp [State.agent, State.modAgent, State.setAgent, State.agent]

@[simp] theorem State.setLink_pending (n : Nat) (v : Link) : (s.setLink n v).pending = s.pending := rfl
@[simp] theorem State.setLink_fresh (n : Nat) (v : Link) : (s.setLink n v).fresh = s.fresh := rfl
@[simp] theorem State.setLink_pwr (n : Nat) (v : Link) : (s.setLink n v).pwr = s.pwr := rfl
@[simp] theorem State.setLink_host (n : Nat) (v : Link) : (s.setLink n v).host = s.host := rfl
@[simp] theorem State.setLink_regs (n : Nat) (v : Link) : (s.setLink n v).regs = s.regs := rfl
@[simp] theorem State.setLink_notices (n : Nat) (v : Link) : (s.setLink n v).notices = s.notices := rfl
@[simp] theorem State.setLink_mem (n : Nat) (v : Link) : (s.setLink n v).mem = s.mem := rfl
@[simp] theorem State.setLink_wild (n : Nat) (v : Link) : (s.setLink n v).wild = s.wild := rfl
@[simp] theorem State.setLink_slots (n : Nat) (v : Link) : (s.setLink n v).slots = s.slots := rfl
@[simp] theorem State.setLink_cfg (n : Nat) (v : Link) : (s.setLink n v).cfg = s.cfg := rfl
@[simp] theorem State.setLink_disp (n : Nat) (v : Link) : (s.setLink n v).disp = s.disp := rfl
@[simp] theorem State.setLink_eng (n : Nat) (v : Link) : (s.setLink n v).eng = s.eng := rfl
@[simp] theorem State.setLink_arr (n : Nat) (v : Link) : (s.setLink n v).arr = s.arr := rfl
@[simp] theorem State.setLink_mov (n : Nat) (v : Link) : (s.setLink n v).mov = s.mov := rfl
@[simp] theorem State.setLink_hi (n : Nat) (v : Link) : (s.setLink n v).hi = s.hi := rfl
@[simp] theorem State.setLink_peer (n : Nat) (v : Link) : (s.setLink n v).peer = s.peer := rfl
@[simp] theorem State.setLink_porters (n : Nat) (v : Link) : (s.setLink n v).porters = s.porters := rfl
@[simp] theorem State.setLink_sk (n : Nat) (v : Link) : (s.setLink n v).sk = s.sk := rfl
@[simp] theorem State.setLink_obs (n : Nat) (v : Link) : (s.setLink n v).obs = s.obs := rfl
@[simp] theorem State.setLink_link_get (n : Nat) (v : Link) (x : Nat) : (s.setLink n v).link x = if x = n then v else s.link x := by
  simp [State.link, State.setLink]

@[simp] theorem State.modLink_pending (n : Nat) (f : Link → Link) : (s.modLink n f).pending = s.pending := rfl
@[simp] theorem State.modLink_fresh (n : Nat) (f : Link → Link) : (s.modLink n f).fresh = s.fresh := rfl
@[simp] theorem State.modLink_pwr (n : Nat) (f : Link → Link) : (s.modLink n f).pwr = s.pwr := rfl
@[simp] theorem State.modLink_host (n : Nat) (f : Link → Link) : (s.modLink n f).host = s.host := rfl
@[simp] theorem State.modLink_regs (n : Nat) (f : Link → Link) : (s.modLink n f).regs = s.regs := rfl
@[simp] theorem State.modLink_notices (n : Nat) (f : Link → Link) : (s.modLink n f).notices = s.notices := rfl
@[simp] theorem State.modLink_mem (n : Nat) (f : Link → Link) : (s.modLink n f).mem = s.mem := rfl
@[simp] theorem State.modLink_wild (n : Nat) (f : Link → Link) : (s.modLink n f).wild = s.wild := rfl
@[simp] theorem State.modLink_slots (n : Nat) (f : Link → Link) : (s.modLink n f).slots = s.slots := rfl
@[simp] theorem State.modLink_cfg (n : Nat) (f : Link → Link) : (s.modLink n f).cfg = s.cfg := rfl
@[simp] theorem State.modLink_disp (n : Nat) (f : Link → Link) : (s.modLink n f).disp = s.disp := rfl
@[simp] theorem State.modLink_eng (n : Nat) (f : Link → Link) : (s.modLink n f).eng = s.eng := rfl
@[simp] theorem State.modLink_arr (n : Nat) (f : Link → Link) : (s.modLink n f).arr = s.arr := rfl
@[simp] theorem State.modLink_mov (n : Nat) (f : Link → Link) : (s.modLink n f).mov = s.mov := rfl
@[simp] theorem State.modLink_hi (n : Nat) (f : Link → Link) : (s.modLink n f).hi = s.hi := rfl
@[simp] theorem State.modLink_peer (n : Nat) (f : Link → Link) : (s.modLink n f).peer = s.peer := rfl
@[simp] theorem State.modLink_porters (n : Nat) (f : Link → Link) : (s.modLink n f).porters = s.porters := rfl
@[simp] theorem State.modLink_sk (n : Nat) (f : Link → Link) : (s.modLink n f).sk = s.sk := rfl
@[simp] theorem State.modLink_obs (n : Nat) (f : Link → Link) : (s.modLink n f).obs = s.obs := rfl
@[simp] theorem State.modLink_link_get (n : Nat) (f : Link → Link) (x : Nat) : (s.modLink n f).link x = if x = n then f (s.link n) else s.link x := by
  simp [State.link, State.modLink, State.setLink, State.link]

@[simp] theorem State.setChan_pending (c : Nat) (v : Chan) : (s.setChan c v).pending = s.pending := rfl
@[simp] theorem State.setChan_fresh (c : Nat) (v : Chan) : (s.setChan c v).fresh = s.fresh := rfl
@[simp] theorem State.setChan_pwr (c : Nat) (v : Chan) : (s.setChan c v).pwr = s.pwr := rfl
@[simp] theorem State.setChan_host (c : Nat) (v : Chan) : (s.setChan c v).host = s.host := rfl
@[simp] theorem State.setChan_regs (c : Nat) (v : Chan) : (s.setChan c v).regs = s.regs := rfl
@[simp] theorem State.setChan_notices (c : Nat) (v : Chan) : (s.setChan c v).notices = s.notices := rfl
@[simp] theorem State.setChan_mem (c : Nat) (v : Chan) : (s.setChan c v).mem = s.mem := rfl
@[simp] theorem State.setChan_wild (c : Nat) (v : Chan) : (s.setChan c v).wild = s.wild := rfl
@[simp] theorem State.setChan_slots (c : Nat) (v : Chan) : (s.setChan c v).slots = s.slots := rfl
@[simp] theorem State.setChan_cfg (c : Nat) (v : Chan) : (s.setChan c v).cfg = s.cfg := rfl
@[simp] theorem State.setChan_disp (c : Nat) (v : Chan) : (s.setChan c v).disp = s.disp := rfl
@[simp] theorem State.setChan_eng (c : Nat) (v : Chan) : (s.setChan c v).eng = s.eng := rfl
@[simp] theorem State.setChan_arr (c : Nat) (v : Chan) : (s.setChan c v).arr = s.arr := rfl
@[simp] theorem State.setChan_net (c : Nat) (v : Chan) : (s.setChan c v).net = s.net := rfl
@[simp] theorem State.setChan_hi (c : Nat) (v : Chan) : (s.setChan c v).hi = s.hi := rfl
@[simp] theorem State.setChan_peer (c : Nat) (v : Chan) : (s.setChan c v).peer = s.peer := rfl
@[simp] theorem State.setChan_porters (c : Nat) (v : Chan) : (s.setChan c v).porters = s.porters := rfl
@[simp] theorem State.setChan_sk (c : Nat) (v : Chan) : (s.setChan c v).sk = s.sk := rfl
@[simp] theorem State.setChan_obs (c : Nat) (v : Chan) : (s.setChan c v).obs = s.obs := rfl
@[simp] theorem State.setChan_chan_get (c : Nat) (v : Chan) (x : Nat) : (s.setChan c v).chan x = if x = c then v else s.chan x := by
  simp [State.chan, State.setChan]

@[simp] theorem State.modChan_pending (c : Nat) (f : Chan → Chan) : (s.modChan c f).pending = s.pending := rfl
@[simp] theorem State.modChan_fresh (c : Nat) (f : Chan → Chan) : (s.modChan c f).fresh = s.fresh := rfl
@[simp] theorem State.modChan_pwr (c : Nat) (f : Chan → Chan) : (s.modChan c f).pwr = s.pwr := rfl
@[simp] theorem State.modChan_host (c : Nat) (f : Chan → Chan) : (s.modChan c f).host = s.host := rfl
@[simp] theorem State.modChan_regs (c : Nat) (f : Chan → Chan) : (s.modChan c f).regs = s.regs := rfl
@[simp] theorem State.modChan_notices (c : Nat) (f : Chan → Chan) : (s.modChan c f).notices = s.notices := rfl
@[simp] theorem State.modChan_mem (c : Nat) (f : Chan → Chan) : (s.modChan c f).mem = s.mem := rfl
@[simp] theorem State.modChan_wild (c : Nat) (f : Chan → Chan) : (s.modChan c f).wild = s.wild := rfl
@[simp] theorem State.modChan_slots (c : Nat) (f : Chan → Chan) : (s.modChan c f).slots = s.slots := rfl
@[simp] theorem State.modChan_cfg (c : Nat) (f : Chan → Chan) : (s.modChan c f).cfg = s.cfg := rfl
@[simp] theorem State.modChan_disp (c : Nat) (f : Chan → Chan) : (s.modChan c f).disp = s.disp := rfl
@[simp] theorem State.modChan_eng (c : Nat) (f : Chan → Chan) : (s.modChan c f).eng = s.eng := rfl
@[simp] theorem State.modChan_arr (c : Nat) (f : Chan → Chan) : (s.modChan c f).arr = s.arr := rfl
@[simp] theorem State.modChan_net (c : Nat) (f : Chan → Chan) : (s.modChan c f).net = s.net := rfl
@[simp] theorem State.modChan_hi (c : Nat) (f : Chan → Chan) : (s.modChan c f).hi = s.hi := rfl
@[simp] theorem State.modChan_peer (c : Nat) (f : Chan → Chan) : (s.modChan c f).peer = s.peer := rfl
@[simp] theorem State.modChan_porters (c : Nat) (f : Chan → Chan) : (s.modChan c f).porters = s.porters := rfl
@[simp] theorem State.modChan_sk (c : Nat) (f : Chan → Chan) : (s.modChan c f).sk = s.sk := rfl
@[simp] theorem State.modChan_obs (c : Nat) (f : Chan → Chan) : (s.modChan c f).obs = s.obs := rfl
@[simp] theorem State.modChan_chan_get (c : Nat) (f : Chan → Chan) (x : Nat) : (s.modChan c f).chan x = if x = c then f (s.chan c) else s.chan x := by
  simp [State.chan, State.modChan, State.setChan, State.chan]

@[simp] theorem State.setHiChan_pending (c : Nat) (v : HiChan) : (s.setHiChan c v).pending = s.pending := rfl
@[simp] theorem State.setHiChan_fresh (c : Nat) (v : HiChan) : (s.setHiChan c v).fresh = s.fresh := rfl
@[simp] theorem State.setHiChan_pwr (c : Nat) (v : HiChan) : (s.setHiChan c v).pwr = s.pwr := rfl
@[simp] theorem State.setHiChan_host (c : Nat) (v : HiChan) : (s.setHiChan c v).host = s.host := rfl
@[simp] theorem State.setHiChan_regs (c : Nat) (v : HiChan) : (s.setHiChan c v).regs = s.regs := rfl
@[simp] theorem State.setHiChan_notices (c : Nat) (v : HiChan) : (s.setHiChan c v).notices = s.notices := rfl
@[simp] theorem State.setHiChan_mem (c : Nat) (v : HiChan) : (s.setHiChan c v).mem = s.mem := rfl
@[simp] theorem State.setHiChan_wild (c : Nat) (v : HiChan) : (s.setHiChan c v).wild = s.wild := rfl
@[simp] theorem State.setHiChan_slots (c : Nat) (v : HiChan) : (s.setHiChan c v).slots = s.slots := rfl
@[simp] theorem State.setHiChan_cfg (c : Nat) (v : HiChan) : (s.setHiChan c v).cfg = s.cfg := rfl
@[simp] theorem State.setHiChan_disp (c : Nat) (v : HiChan) : (s.setHiChan c v).disp = s.disp := rfl
@[simp] theorem State.setHiChan_eng (c : Nat) (v : HiChan) : (s.setHiChan c v).eng = s.eng := rfl
@[simp] theorem State.setHiChan_arr (c : Nat) (v : HiChan) : (s.setHiChan c v).arr = s.arr := rfl
@[simp] theorem State.setHiChan_net (c : Nat) (v : HiChan) : (s.setHiChan c v).net = s.net := rfl
@[simp] theorem State.setHiChan_mov (c : Nat) (v : HiChan) : (s.setHiChan c v).mov = s.mov := rfl
@[simp] theorem State.setHiChan_peer (c : Nat) (v : HiChan) : (s.setHiChan c v).peer = s.peer := rfl
@[simp] theorem State.setHiChan_porters (c : Nat) (v : HiChan) : (s.setHiChan c v).porters = s.porters := rfl
@[simp] theorem State.setHiChan_sk (c : Nat) (v : HiChan) : (s.setHiChan c v).sk = s.sk := rfl
@[simp] theorem State.setHiChan_obs (c : Nat) (v : HiChan) : (s.setHiChan c v).obs = s.obs := rfl
@[simp] theorem State.setHiChan_hiChan_get (c : Nat) (v : HiChan) (x : Nat) : (s.setHiChan c v).hiChan x = if x = c then v else s.hiChan x := by
  simp [State.hiChan, State.setHiChan]

@[simp] theorem State.setConn_pending (c : Nat) (v : Conn) : (s.setConn c v).pending = s.pending := rfl
@[simp] theorem State.setConn_fresh (c : Nat) (v : Conn) : (s.setConn c v).fresh = s.fresh := rfl
@[simp] theorem State.setConn_pwr (c : Nat) (v : Conn) : (s.setConn c v).pwr = s.pwr := rfl
@[simp] theorem State.setConn_host (c : Nat) (v : Conn) : (s.setConn c v).host = s.host := rfl
@[simp] theorem State.setConn_regs (c : Nat) (v : Conn) : (s.setConn c v).regs = s.regs := rfl
@[simp] theorem State.setConn_notices (c : Nat) (v : Conn) : (s.setConn c v).notices = s.notices := rfl
@[simp] theorem State.setConn_mem (c : Nat) (v : Conn) : (s.setConn c v).mem = s.mem := rfl
@[simp] theorem State.setConn_wild (c : Nat) (v : Conn) : (s.setConn c v).wild = s.wild := rfl
@[simp] theorem State.setConn_slots (c : Nat) (v : Conn) : (s.setConn c v).slots = s.slots := rfl
@[simp] theorem State.setConn_cfg (c : Nat) (v : Conn) : (s.setConn c v).cfg = s.cfg := rfl
@[simp] theorem State.setConn_disp (c : Nat) (v : Conn) : (s.setConn c v).disp = s.disp := rfl
@[simp] theorem State.setConn_eng (c : Nat) (v : Conn) : (s.setConn c v).eng = s.eng := rfl
@[simp] theorem State.setConn_arr (c : Nat) (v : Conn) : (s.setConn c v).arr = s.arr := rfl
@[simp] theorem State.setConn_net (c : Nat) (v : Conn) : (s.setConn c v).net = s.net := rfl
@[simp] theorem State.setConn_mov (c : Nat) (v : Conn) : (s.setConn c v).mov = s.mov := rfl
@[simp] theorem State.setConn_hi (c : Nat) (v : Conn) : (s.setConn c v).hi = s.hi := rfl
@[simp] theorem State.setConn_porters (c : Nat) (v : Conn) : (s.setConn c v).porters = s.porters := rfl
@[simp] theorem State.setConn_sk (c : Nat) (v : Conn) : (s.setConn c v).sk = s.sk := rfl
@[simp] theorem State.setConn_obs (c : Nat) (v : Conn) : (s.setConn c v).obs = s.obs := rfl
@[simp] theorem State.setConn_conn_get (c : Nat) (v : Conn) (x : Nat) : (s.setConn c v).conn x = if x = c then v else s.conn x := by
  simp [State.conn, State.setConn]

@[simp] theorem State.setPort_pending (p : Nat) (v : PeerPort) : (s.setPort p v).pending = s.pending := rfl
@[simp] theorem State.setPort_fresh (p : Nat) (v : PeerPort) : (s.setPort p v).fresh = s.fresh := rfl
@[simp] theorem State.setPort_pwr (p : Nat) (v : PeerPort) : (s.setPort p v).pwr = s.pwr := rfl
@[simp] theorem State.setPort_host (p : Nat) (v : PeerPort) : (s.setPort p v).host = s.host := rfl
@[simp] theorem State.setPort_regs (p : Nat) (v : PeerPort) : (s.setPort p v).regs = s.regs := rfl
@[simp] theorem State.setPort_notices (p : Nat) (v : PeerPort) : (s.setPort p v).notices = s.notices := rfl
@[simp] theorem State.setPort_mem (p : Nat) (v : PeerPort) : (s.setPort p v).mem = s.mem := rfl
@[simp] theorem State.setPort_wild (p : Nat) (v : PeerPort) : (s.setPort p v).wild = s.wild := rfl
@[simp] theorem State.setPort_slots (p : Nat) (v : PeerPort) : (s.setPort p v).slots = s.slots := rfl
@[simp] theorem State.setPort_cfg (p : Nat) (v : PeerPort) : (s.setPort p v).cfg = s.cfg := rfl
@[simp] theorem State.setPort_disp (p : Nat) (v : PeerPort) : (s.setPort p v).disp = s.disp := rfl
@[simp] theorem State.setPort_eng (p : Nat) (v : PeerPort) : (s.setPort p v).eng = s.eng := rfl
@[simp] theorem State.setPort_arr (p : Nat) (v : PeerPort) : (s.setPort p v).arr = s.arr := rfl
@[simp] theorem State.setPort_net (p : Nat) (v : PeerPort) : (s.setPort p v).net = s.net := rfl
@[simp] theorem State.setPort_mov (p : Nat) (v : PeerPort) : (s.setPort p v).mov = s.mov := rfl
@[simp] theorem State.setPort_hi (p : Nat) (v : PeerPort) : (s.setPort p v).hi = s.hi := rfl
@[simp] theorem State.setPort_porters (p : Nat) (v : PeerPort) : (s.setPort p v).porters = s.porters := rfl
@[simp] theorem State.setPort_sk (p : Nat) (v : PeerPort) : (s.setPort p v).sk = s.sk := rfl
@[simp] theorem State.setPort_obs (p : Nat) (v : PeerPort) : (s.setPort p v).obs = s.obs := rfl
@[simp] theorem State.setPort_port_get (p : Nat) (v : PeerPort) (x : Nat) : (s.setPort p v).port x = if x = p then v else s.port x := by
  simp [State.port, State.setPort]

@[simp] theorem State.setPorter_pending (m : Nat) (v : Porter) : (s.setPorter m v).pending = s.pending := rfl
@[simp] theorem State.setPorter_fresh (m : Nat) (v : Porter) : (s.setPorter m v).fresh = s.fresh := rfl
@[simp] theorem State.setPorter_pwr (m : Nat) (v : Porter) : (s.setPorter m v).pwr = s.pwr := rfl
@[simp] theorem State.setPorter_host (m : Nat) (v : Porter) : (s.setPorter m v).host = s.host := rfl
@[simp] theorem State.setPorter_regs (m : Nat) (v : Porter) : (s.setPorter m v).regs = s.regs := rfl
@[simp] theorem State.setPorter_notices (m : Nat) (v : Porter) : (s.setPorter m v).notices = s.notices := rfl
@[simp] theorem State.setPorter_mem (m : Nat) (v : Porter) : (s.setPorter m v).mem = s.mem := rfl
@[simp] theorem State.setPorter_wild (m : Nat) (v : Porter) : (s.setPorter m v).wild = s.wild := rfl
@[simp] theorem State.setPorter_slots (m : Nat) (v : Porter) : (s.setPorter m v).slots = s.slots := rfl
@[simp] theorem State.setPorter_cfg (m : Nat) (v : Porter) : (s.setPorter m v).cfg = s.cfg := rfl
@[simp] theorem State.setPorter_disp (m : Nat) (v : Porter) : (s.setPorter m v).disp = s.disp := rfl
@[simp] theorem State.setPorter_eng (m : Nat) (v : Porter) : (s.setPorter m v).eng = s.eng := rfl
@[simp] theorem State.setPorter_arr (m : Nat) (v : Porter) : (s.setPorter m v).arr = s.arr := rfl
@[simp] theorem State.setPorter_net (m : Nat) (v : Porter) : (s.setPorter m v).net = s.net := rfl
@[simp] theorem State.setPorter_mov (m : Nat) (v : Porter) : (s.setPorter m v).mov = s.mov := rfl
@[simp] theorem State.setPorter_hi (m : Nat) (v : Porter) : (s.setPorter m v).hi = s.hi := rfl
@[simp] theorem State.setPorter_peer (m : Nat) (v : Porter) : (s.setPorter m v).peer = s.peer := rfl
@[simp] theorem State.setPorter_sk (m : Nat) (v : Porter) : (s.setPorter m v).sk = s.sk := rfl
@[simp] theorem State.setPorter_obs (m : Nat) (v : Porter) : (s.setPorter m v).obs = s.obs := rfl
@[simp] theorem State.setPorter_porter_get (m : Nat) (v : Porter) (x : Nat) : (s.setPorter m v).porter x = if x = m then v else s.porter x := by
  simp [State.porter, State.setPorter]

@[simp] theorem State.modPorter_pending (m : Nat) (f : Porter → Porter) : (s.modPorter m f).pending = s.pending := rfl
@[simp] theorem State.modPorter_fresh (m : Nat) (f : Porter → Porter) : (s.modPorter m f).fresh = s.fresh := rfl
@[simp] theorem State.modPorter_pwr (m : Nat) (f : Porter → Porter) : (s.modPorter m f).pwr = s.pwr := rfl
@[simp] theorem State.modPorter_host (m : Nat) (f : Porter → Porter) : (s.modPorter m f).host = s.host := rfl
@[simp] theorem State.modPorter_regs (m : Nat) (f : Porter → Porter) : (s.modPorter m f).regs = s.regs := rfl
@[simp] theorem State.modPorter_notices (m : Nat) (f : Porter → Porter) : (s.modPorter m f).notices = s.notices := rfl
@[simp] theorem State.modPorter_mem (m : Nat) (f : Porter → Porter) : (s.modPorter m f).mem = s.mem := rfl
@[simp] theorem State.modPorter_wild (m : Nat) (f : Porter → Porter) : (s.modPorter m f).wild = s.wild := rfl
@[simp] theorem State.modPorter_slots (m : Nat) (f : Porter → Porter) : (s.modPorter m f).slots = s.slots := rfl
@[simp] theorem State.modPorter_cfg (m : Nat) (f : Porter → Porter) : (s.modPorter m f).cfg = s.cfg := rfl
@[simp] theorem State.modPorter_disp (m : Nat) (f : Porter → Porter) : (s.modPorter m f).disp = s.disp := rfl
@[simp] theorem State.modPorter_eng (m : Nat) (f : Porter → Porter) : (s.modPorter m f).eng = s.eng := rfl
@[simp] theorem State.modPorter_arr (m : Nat) (f : Porter → Porter) : (s.modPorter m f).arr = s.arr := rfl
@[simp] theorem State.modPorter_net (m : Nat) (f : Porter → Porter) : (s.modPorter m f).net = s.net := rfl
@[simp] theorem State.modPorter_mov (m : Nat) (f : Porter → Porter) : (s.modPorter m f).mov = s.mov := rfl
@[simp] theorem State.modPorter_hi (m : Nat) (f : Porter → Porter) : (s.modPorter m f).hi = s.hi := rfl
@[simp] theorem State.modPorter_peer (m : Nat) (f : Porter → Porter) : (s.modPorter m f).peer = s.peer := rfl
@[simp] theorem State.modPorter_sk (m : Nat) (f : Porter → Porter) : (s.modPorter m f).sk = s.sk := rfl
@[simp] theorem State.modPorter_obs (m : Nat) (f : Porter → Porter) : (s.modPorter m f).obs = s.obs := rfl
@[simp] theorem State.modPorter_porter_get (m : Nat) (f : Porter → Porter) (x : Nat) : (s.modPorter m f).porter x = if x = m then f (s.porter m) else s.porter x := by
  simp [State.porter, State.modPorter, State.setPorter, State.porter]

@[simp] theorem State.setFifo_pending (u : Nat) (v : Fifo) : (s.setFifo u v).pending = s.pending := rfl
@[simp] theorem State.setFifo_fresh (u : Nat) (v : Fifo) : (s.setFifo u v).fresh = s.fresh := rfl
@[simp] theorem State.setFifo_pwr (u : Nat) (v : Fifo) : (s.setFifo u v).pwr = s.pwr := rfl
@[simp] theorem State.setFifo_host (u : Nat) (v : Fifo) : (s.setFifo u v).host = s.host := rfl
@[simp] theorem State.setFifo_regs (u : Nat) (v : Fifo) : (s.setFifo u v).regs = s.regs := rfl
@[simp] theorem State.setFifo_notices (u : Nat) (v : Fifo) : (s.setFifo u v).notices = s.notices := rfl
@[simp] theorem State.setFifo_mem (u : Nat) (v : Fifo) : (s.setFifo u v).mem = s.mem := rfl
@[simp] theorem State.setFifo_wild (u : Nat) (v : Fifo) : (s.setFifo u v).wild = s.wild := rfl
@[simp] theorem State.setFifo_slots (u : Nat) (v : Fifo) : (s.setFifo u v).slots = s.slots := rfl
@[simp] theorem State.setFifo_cfg (u : Nat) (v : Fifo) : (s.setFifo u v).cfg = s.cfg := rfl
@[simp] theorem State.setFifo_disp (u : Nat) (v : Fifo) : (s.setFifo u v).disp = s.disp := rfl
@[simp] theorem State.setFifo_eng (u : Nat) (v : Fifo) : (s.setFifo u v).eng = s.eng := rfl
@[simp] theorem State.setFifo_arr (u : Nat) (v : Fifo) : (s.setFifo u v).arr = s.arr := rfl
@[simp] theorem State.setFifo_net (u : Nat) (v : Fifo) : (s.setFifo u v).net = s.net := rfl
@[simp] theorem State.setFifo_mov (u : Nat) (v : Fifo) : (s.setFifo u v).mov = s.mov := rfl
@[simp] theorem State.setFifo_hi (u : Nat) (v : Fifo) : (s.setFifo u v).hi = s.hi := rfl
@[simp] theorem State.setFifo_peer (u : Nat) (v : Fifo) : (s.setFifo u v).peer = s.peer := rfl
@[simp] theorem State.setFifo_porters (u : Nat) (v : Fifo) : (s.setFifo u v).porters = s.porters := rfl
@[simp] theorem State.setFifo_sk (u : Nat) (v : Fifo) : (s.setFifo u v).sk = s.sk := rfl
@[simp] theorem State.setFifo_fifo_get (u : Nat) (v : Fifo) (x : Nat) : (s.setFifo u v).fifo x = if x = u then v else s.fifo x := by
  simp [State.fifo, State.setFifo]

@[simp] theorem State.setUnit_pending (u : Nat) (v : UnitHealth) : (s.setUnit u v).pending = s.pending := rfl
@[simp] theorem State.setUnit_fresh (u : Nat) (v : UnitHealth) : (s.setUnit u v).fresh = s.fresh := rfl
@[simp] theorem State.setUnit_pwr (u : Nat) (v : UnitHealth) : (s.setUnit u v).pwr = s.pwr := rfl
@[simp] theorem State.setUnit_host (u : Nat) (v : UnitHealth) : (s.setUnit u v).host = s.host := rfl
@[simp] theorem State.setUnit_regs (u : Nat) (v : UnitHealth) : (s.setUnit u v).regs = s.regs := rfl
@[simp] theorem State.setUnit_notices (u : Nat) (v : UnitHealth) : (s.setUnit u v).notices = s.notices := rfl
@[simp] theorem State.setUnit_mem (u : Nat) (v : UnitHealth) : (s.setUnit u v).mem = s.mem := rfl
@[simp] theorem State.setUnit_wild (u : Nat) (v : UnitHealth) : (s.setUnit u v).wild = s.wild := rfl
@[simp] theorem State.setUnit_slots (u : Nat) (v : UnitHealth) : (s.setUnit u v).slots = s.slots := rfl
@[simp] theorem State.setUnit_cfg (u : Nat) (v : UnitHealth) : (s.setUnit u v).cfg = s.cfg := rfl
@[simp] theorem State.setUnit_disp (u : Nat) (v : UnitHealth) : (s.setUnit u v).disp = s.disp := rfl
@[simp] theorem State.setUnit_eng (u : Nat) (v : UnitHealth) : (s.setUnit u v).eng = s.eng := rfl
@[simp] theorem State.setUnit_arr (u : Nat) (v : UnitHealth) : (s.setUnit u v).arr = s.arr := rfl
@[simp] theorem State.setUnit_net (u : Nat) (v : UnitHealth) : (s.setUnit u v).net = s.net := rfl
@[simp] theorem State.setUnit_mov (u : Nat) (v : UnitHealth) : (s.setUnit u v).mov = s.mov := rfl
@[simp] theorem State.setUnit_hi (u : Nat) (v : UnitHealth) : (s.setUnit u v).hi = s.hi := rfl
@[simp] theorem State.setUnit_peer (u : Nat) (v : UnitHealth) : (s.setUnit u v).peer = s.peer := rfl
@[simp] theorem State.setUnit_porters (u : Nat) (v : UnitHealth) : (s.setUnit u v).porters = s.porters := rfl
@[simp] theorem State.setUnit_sk (u : Nat) (v : UnitHealth) : (s.setUnit u v).sk = s.sk := rfl
@[simp] theorem State.setUnit_unit_get (u : Nat) (v : UnitHealth) (x : Nat) : (s.setUnit u v).unit x = if x = u then v else s.unit x := by
  simp [State.unit, State.setUnit]

@[simp] theorem State.setTc_pending (e : Nat) (v : Option TcEnt) : (s.setTc e v).pending = s.pending := rfl
@[simp] theorem State.setTc_fresh (e : Nat) (v : Option TcEnt) : (s.setTc e v).fresh = s.fresh := rfl
@[simp] theorem State.setTc_pwr (e : Nat) (v : Option TcEnt) : (s.setTc e v).pwr = s.pwr := rfl
@[simp] theorem State.setTc_host (e : Nat) (v : Option TcEnt) : (s.setTc e v).host = s.host := rfl
@[simp] theorem State.setTc_regs (e : Nat) (v : Option TcEnt) : (s.setTc e v).regs = s.regs := rfl
@[simp] theorem State.setTc_notices (e : Nat) (v : Option TcEnt) : (s.setTc e v).notices = s.notices := rfl
@[simp] theorem State.setTc_mem (e : Nat) (v : Option TcEnt) : (s.setTc e v).mem = s.mem := rfl
@[simp] theorem State.setTc_wild (e : Nat) (v : Option TcEnt) : (s.setTc e v).wild = s.wild := rfl
@[simp] theorem State.setTc_slots (e : Nat) (v : Option TcEnt) : (s.setTc e v).slots = s.slots := rfl
@[simp] theorem State.setTc_cfg (e : Nat) (v : Option TcEnt) : (s.setTc e v).cfg = s.cfg := rfl
@[simp] theorem State.setTc_disp (e : Nat) (v : Option TcEnt) : (s.setTc e v).disp = s.disp := rfl
@[simp] theorem State.setTc_eng (e : Nat) (v : Option TcEnt) : (s.setTc e v).eng = s.eng := rfl
@[simp] theorem State.setTc_arr (e : Nat) (v : Option TcEnt) : (s.setTc e v).arr = s.arr := rfl
@[simp] theorem State.setTc_net (e : Nat) (v : Option TcEnt) : (s.setTc e v).net = s.net := rfl
@[simp] theorem State.setTc_hi (e : Nat) (v : Option TcEnt) : (s.setTc e v).hi = s.hi := rfl
@[simp] theorem State.setTc_peer (e : Nat) (v : Option TcEnt) : (s.setTc e v).peer = s.peer := rfl
@[simp] theorem State.setTc_porters (e : Nat) (v : Option TcEnt) : (s.setTc e v).porters = s.porters := rfl
@[simp] theorem State.setTc_sk (e : Nat) (v : Option TcEnt) : (s.setTc e v).sk = s.sk := rfl
@[simp] theorem State.setTc_obs (e : Nat) (v : Option TcEnt) : (s.setTc e v).obs = s.obs := rfl
@[simp] theorem State.setTc_tcEnt_get (e : Nat) (v : Option TcEnt) (x : Nat) : (s.setTc e v).tcEnt x = if x = e then v else s.tcEnt x := by
  simp [State.tcEnt, State.setTc]

@[simp] theorem State.setFault_pending (e : Nat) (v : Option FaultEnt) : (s.setFault e v).pending = s.pending := rfl
@[simp] theorem State.setFault_fresh (e : Nat) (v : Option FaultEnt) : (s.setFault e v).fresh = s.fresh := rfl
@[simp] theorem State.setFault_pwr (e : Nat) (v : Option FaultEnt) : (s.setFault e v).pwr = s.pwr := rfl
@[simp] theorem State.setFault_host (e : Nat) (v : Option FaultEnt) : (s.setFault e v).host = s.host := rfl
@[simp] theorem State.setFault_regs (e : Nat) (v : Option FaultEnt) : (s.setFault e v).regs = s.regs := rfl
@[simp] theorem State.setFault_notices (e : Nat) (v : Option FaultEnt) : (s.setFault e v).notices = s.notices := rfl
@[simp] theorem State.setFault_mem (e : Nat) (v : Option FaultEnt) : (s.setFault e v).mem = s.mem := rfl
@[simp] theorem State.setFault_wild (e : Nat) (v : Option FaultEnt) : (s.setFault e v).wild = s.wild := rfl
@[simp] theorem State.setFault_slots (e : Nat) (v : Option FaultEnt) : (s.setFault e v).slots = s.slots := rfl
@[simp] theorem State.setFault_cfg (e : Nat) (v : Option FaultEnt) : (s.setFault e v).cfg = s.cfg := rfl
@[simp] theorem State.setFault_disp (e : Nat) (v : Option FaultEnt) : (s.setFault e v).disp = s.disp := rfl
@[simp] theorem State.setFault_eng (e : Nat) (v : Option FaultEnt) : (s.setFault e v).eng = s.eng := rfl
@[simp] theorem State.setFault_arr (e : Nat) (v : Option FaultEnt) : (s.setFault e v).arr = s.arr := rfl
@[simp] theorem State.setFault_net (e : Nat) (v : Option FaultEnt) : (s.setFault e v).net = s.net := rfl
@[simp] theorem State.setFault_hi (e : Nat) (v : Option FaultEnt) : (s.setFault e v).hi = s.hi := rfl
@[simp] theorem State.setFault_peer (e : Nat) (v : Option FaultEnt) : (s.setFault e v).peer = s.peer := rfl
@[simp] theorem State.setFault_porters (e : Nat) (v : Option FaultEnt) : (s.setFault e v).porters = s.porters := rfl
@[simp] theorem State.setFault_sk (e : Nat) (v : Option FaultEnt) : (s.setFault e v).sk = s.sk := rfl
@[simp] theorem State.setFault_obs (e : Nat) (v : Option FaultEnt) : (s.setFault e v).obs = s.obs := rfl
@[simp] theorem State.setFault_faultEnt_get (e : Nat) (v : Option FaultEnt) (x : Nat) : (s.setFault e v).faultEnt x = if x = e then v else s.faultEnt x := by
  simp [State.faultEnt, State.setFault]

@[simp] theorem State.setFrame_pending (n : Nat) (v : FrameSt) : (s.setFrame n v).pending = s.pending := rfl
@[simp] theorem State.setFrame_fresh (n : Nat) (v : FrameSt) : (s.setFrame n v).fresh = s.fresh := rfl
@[simp] theorem State.setFrame_pwr (n : Nat) (v : FrameSt) : (s.setFrame n v).pwr = s.pwr := rfl
@[simp] theorem State.setFrame_host (n : Nat) (v : FrameSt) : (s.setFrame n v).host = s.host := rfl
@[simp] theorem State.setFrame_regs (n : Nat) (v : FrameSt) : (s.setFrame n v).regs = s.regs := rfl
@[simp] theorem State.setFrame_notices (n : Nat) (v : FrameSt) : (s.setFrame n v).notices = s.notices := rfl
@[simp] theorem State.setFrame_mem (n : Nat) (v : FrameSt) : (s.setFrame n v).mem = s.mem := rfl
@[simp] theorem State.setFrame_wild (n : Nat) (v : FrameSt) : (s.setFrame n v).wild = s.wild := rfl
@[simp] theorem State.setFrame_slots (n : Nat) (v : FrameSt) : (s.setFrame n v).slots = s.slots := rfl
@[simp] theorem State.setFrame_cfg (n : Nat) (v : FrameSt) : (s.setFrame n v).cfg = s.cfg := rfl
@[simp] theorem State.setFrame_disp (n : Nat) (v : FrameSt) : (s.setFrame n v).disp = s.disp := rfl
@[simp] theorem State.setFrame_eng (n : Nat) (v : FrameSt) : (s.setFrame n v).eng = s.eng := rfl
@[simp] theorem State.setFrame_arr (n : Nat) (v : FrameSt) : (s.setFrame n v).arr = s.arr := rfl
@[simp] theorem State.setFrame_net (n : Nat) (v : FrameSt) : (s.setFrame n v).net = s.net := rfl
@[simp] theorem State.setFrame_hi (n : Nat) (v : FrameSt) : (s.setFrame n v).hi = s.hi := rfl
@[simp] theorem State.setFrame_peer (n : Nat) (v : FrameSt) : (s.setFrame n v).peer = s.peer := rfl
@[simp] theorem State.setFrame_porters (n : Nat) (v : FrameSt) : (s.setFrame n v).porters = s.porters := rfl
@[simp] theorem State.setFrame_sk (n : Nat) (v : FrameSt) : (s.setFrame n v).sk = s.sk := rfl
@[simp] theorem State.setFrame_obs (n : Nat) (v : FrameSt) : (s.setFrame n v).obs = s.obs := rfl
@[simp] theorem State.setFrame_frame_get (n : Nat) (v : FrameSt) (x : Nat) : (s.setFrame n v).frame x = if x = n then v else s.frame x := by
  simp [State.frame, State.setFrame]

@[simp] theorem State.modSk_pending (f : Keeper → Keeper) : (s.modSk f).pending = s.pending := rfl
@[simp] theorem State.modSk_fresh (f : Keeper → Keeper) : (s.modSk f).fresh = s.fresh := rfl
@[simp] theorem State.modSk_pwr (f : Keeper → Keeper) : (s.modSk f).pwr = s.pwr := rfl
@[simp] theorem State.modSk_host (f : Keeper → Keeper) : (s.modSk f).host = s.host := rfl
@[simp] theorem State.modSk_regs (f : Keeper → Keeper) : (s.modSk f).regs = s.regs := rfl
@[simp] theorem State.modSk_notices (f : Keeper → Keeper) : (s.modSk f).notices = s.notices := rfl
@[simp] theorem State.modSk_mem (f : Keeper → Keeper) : (s.modSk f).mem = s.mem := rfl
@[simp] theorem State.modSk_wild (f : Keeper → Keeper) : (s.modSk f).wild = s.wild := rfl
@[simp] theorem State.modSk_slots (f : Keeper → Keeper) : (s.modSk f).slots = s.slots := rfl
@[simp] theorem State.modSk_cfg (f : Keeper → Keeper) : (s.modSk f).cfg = s.cfg := rfl
@[simp] theorem State.modSk_disp (f : Keeper → Keeper) : (s.modSk f).disp = s.disp := rfl
@[simp] theorem State.modSk_eng (f : Keeper → Keeper) : (s.modSk f).eng = s.eng := rfl
@[simp] theorem State.modSk_arr (f : Keeper → Keeper) : (s.modSk f).arr = s.arr := rfl
@[simp] theorem State.modSk_net (f : Keeper → Keeper) : (s.modSk f).net = s.net := rfl
@[simp] theorem State.modSk_mov (f : Keeper → Keeper) : (s.modSk f).mov = s.mov := rfl
@[simp] theorem State.modSk_hi (f : Keeper → Keeper) : (s.modSk f).hi = s.hi := rfl
@[simp] theorem State.modSk_peer (f : Keeper → Keeper) : (s.modSk f).peer = s.peer := rfl
@[simp] theorem State.modSk_porters (f : Keeper → Keeper) : (s.modSk f).porters = s.porters := rfl
@[simp] theorem State.modSk_obs (f : Keeper → Keeper) : (s.modSk f).obs = s.obs := rfl
@[simp] theorem State.modSk_sk_eq (f : Keeper → Keeper) : (s.modSk f).sk = f s.sk := rfl

@[simp] theorem State.modSlots_pending (f : Slots → Slots) : (s.modSlots f).pending = s.pending := rfl
@[simp] theorem State.modSlots_fresh (f : Slots → Slots) : (s.modSlots f).fresh = s.fresh := rfl
@[simp] theorem State.modSlots_pwr (f : Slots → Slots) : (s.modSlots f).pwr = s.pwr := rfl
@[simp] theorem State.modSlots_host (f : Slots → Slots) : (s.modSlots f).host = s.host := rfl
@[simp] theorem State.modSlots_regs (f : Slots → Slots) : (s.modSlots f).regs = s.regs := rfl
@[simp] theorem State.modSlots_notices (f : Slots → Slots) : (s.modSlots f).notices = s.notices := rfl
@[simp] theorem State.modSlots_mem (f : Slots → Slots) : (s.modSlots f).mem = s.mem := rfl
@[simp] theorem State.modSlots_wild (f : Slots → Slots) : (s.modSlots f).wild = s.wild := rfl
@[simp] theorem State.modSlots_cfg (f : Slots → Slots) : (s.modSlots f).cfg = s.cfg := rfl
@[simp] theorem State.modSlots_disp (f : Slots → Slots) : (s.modSlots f).disp = s.disp := rfl
@[simp] theorem State.modSlots_eng (f : Slots → Slots) : (s.modSlots f).eng = s.eng := rfl
@[simp] theorem State.modSlots_arr (f : Slots → Slots) : (s.modSlots f).arr = s.arr := rfl
@[simp] theorem State.modSlots_net (f : Slots → Slots) : (s.modSlots f).net = s.net := rfl
@[simp] theorem State.modSlots_mov (f : Slots → Slots) : (s.modSlots f).mov = s.mov := rfl
@[simp] theorem State.modSlots_hi (f : Slots → Slots) : (s.modSlots f).hi = s.hi := rfl
@[simp] theorem State.modSlots_peer (f : Slots → Slots) : (s.modSlots f).peer = s.peer := rfl
@[simp] theorem State.modSlots_porters (f : Slots → Slots) : (s.modSlots f).porters = s.porters := rfl
@[simp] theorem State.modSlots_sk (f : Slots → Slots) : (s.modSlots f).sk = s.sk := rfl
@[simp] theorem State.modSlots_obs (f : Slots → Slots) : (s.modSlots f).obs = s.obs := rfl
@[simp] theorem State.modSlots_slots_eq (f : Slots → Slots) : (s.modSlots f).slots = f s.slots := rfl

@[simp] theorem State.modMov_pending (f : Mover → Mover) : (s.modMov f).pending = s.pending := rfl
@[simp] theorem State.modMov_fresh (f : Mover → Mover) : (s.modMov f).fresh = s.fresh := rfl
@[simp] theorem State.modMov_pwr (f : Mover → Mover) : (s.modMov f).pwr = s.pwr := rfl
@[simp] theorem State.modMov_host (f : Mover → Mover) : (s.modMov f).host = s.host := rfl
@[simp] theorem State.modMov_regs (f : Mover → Mover) : (s.modMov f).regs = s.regs := rfl
@[simp] theorem State.modMov_notices (f : Mover → Mover) : (s.modMov f).notices = s.notices := rfl
@[simp] theorem State.modMov_mem (f : Mover → Mover) : (s.modMov f).mem = s.mem := rfl
@[simp] theorem State.modMov_wild (f : Mover → Mover) : (s.modMov f).wild = s.wild := rfl
@[simp] theorem State.modMov_slots (f : Mover → Mover) : (s.modMov f).slots = s.slots := rfl
@[simp] theorem State.modMov_cfg (f : Mover → Mover) : (s.modMov f).cfg = s.cfg := rfl
@[simp] theorem State.modMov_disp (f : Mover → Mover) : (s.modMov f).disp = s.disp := rfl
@[simp] theorem State.modMov_eng (f : Mover → Mover) : (s.modMov f).eng = s.eng := rfl
@[simp] theorem State.modMov_arr (f : Mover → Mover) : (s.modMov f).arr = s.arr := rfl
@[simp] theorem State.modMov_net (f : Mover → Mover) : (s.modMov f).net = s.net := rfl
@[simp] theorem State.modMov_hi (f : Mover → Mover) : (s.modMov f).hi = s.hi := rfl
@[simp] theorem State.modMov_peer (f : Mover → Mover) : (s.modMov f).peer = s.peer := rfl
@[simp] theorem State.modMov_porters (f : Mover → Mover) : (s.modMov f).porters = s.porters := rfl
@[simp] theorem State.modMov_sk (f : Mover → Mover) : (s.modMov f).sk = s.sk := rfl
@[simp] theorem State.modMov_obs (f : Mover → Mover) : (s.modMov f).obs = s.obs := rfl
@[simp] theorem State.modMov_mov_eq (f : Mover → Mover) : (s.modMov f).mov = f s.mov := rfl

@[simp] theorem State.modEng_pending (f : Eng → Eng) : (s.modEng f).pending = s.pending := rfl
@[simp] theorem State.modEng_fresh (f : Eng → Eng) : (s.modEng f).fresh = s.fresh := rfl
@[simp] theorem State.modEng_pwr (f : Eng → Eng) : (s.modEng f).pwr = s.pwr := rfl
@[simp] theorem State.modEng_host (f : Eng → Eng) : (s.modEng f).host = s.host := rfl
@[simp] theorem State.modEng_regs (f : Eng → Eng) : (s.modEng f).regs = s.regs := rfl
@[simp] theorem State.modEng_notices (f : Eng → Eng) : (s.modEng f).notices = s.notices := rfl
@[simp] theorem State.modEng_mem (f : Eng → Eng) : (s.modEng f).mem = s.mem := rfl
@[simp] theorem State.modEng_wild (f : Eng → Eng) : (s.modEng f).wild = s.wild := rfl
@[simp] theorem State.modEng_slots (f : Eng → Eng) : (s.modEng f).slots = s.slots := rfl
@[simp] theorem State.modEng_cfg (f : Eng → Eng) : (s.modEng f).cfg = s.cfg := rfl
@[simp] theorem State.modEng_disp (f : Eng → Eng) : (s.modEng f).disp = s.disp := rfl
@[simp] theorem State.modEng_arr (f : Eng → Eng) : (s.modEng f).arr = s.arr := rfl
@[simp] theorem State.modEng_net (f : Eng → Eng) : (s.modEng f).net = s.net := rfl
@[simp] theorem State.modEng_mov (f : Eng → Eng) : (s.modEng f).mov = s.mov := rfl
@[simp] theorem State.modEng_hi (f : Eng → Eng) : (s.modEng f).hi = s.hi := rfl
@[simp] theorem State.modEng_peer (f : Eng → Eng) : (s.modEng f).peer = s.peer := rfl
@[simp] theorem State.modEng_porters (f : Eng → Eng) : (s.modEng f).porters = s.porters := rfl
@[simp] theorem State.modEng_sk (f : Eng → Eng) : (s.modEng f).sk = s.sk := rfl
@[simp] theorem State.modEng_obs (f : Eng → Eng) : (s.modEng f).obs = s.obs := rfl
@[simp] theorem State.modEng_eng_eq (f : Eng → Eng) : (s.modEng f).eng = f s.eng := rfl

@[simp] theorem State.modDisp_pending (f : Disp → Disp) : (s.modDisp f).pending = s.pending := rfl
@[simp] theorem State.modDisp_fresh (f : Disp → Disp) : (s.modDisp f).fresh = s.fresh := rfl
@[simp] theorem State.modDisp_pwr (f : Disp → Disp) : (s.modDisp f).pwr = s.pwr := rfl
@[simp] theorem State.modDisp_host (f : Disp → Disp) : (s.modDisp f).host = s.host := rfl
@[simp] theorem State.modDisp_regs (f : Disp → Disp) : (s.modDisp f).regs = s.regs := rfl
@[simp] theorem State.modDisp_notices (f : Disp → Disp) : (s.modDisp f).notices = s.notices := rfl
@[simp] theorem State.modDisp_mem (f : Disp → Disp) : (s.modDisp f).mem = s.mem := rfl
@[simp] theorem State.modDisp_wild (f : Disp → Disp) : (s.modDisp f).wild = s.wild := rfl
@[simp] theorem State.modDisp_slots (f : Disp → Disp) : (s.modDisp f).slots = s.slots := rfl
@[simp] theorem State.modDisp_cfg (f : Disp → Disp) : (s.modDisp f).cfg = s.cfg := rfl
@[simp] theorem State.modDisp_eng (f : Disp → Disp) : (s.modDisp f).eng = s.eng := rfl
@[simp] theorem State.modDisp_arr (f : Disp → Disp) : (s.modDisp f).arr = s.arr := rfl
@[simp] theorem State.modDisp_net (f : Disp → Disp) : (s.modDisp f).net = s.net := rfl
@[simp] theorem State.modDisp_mov (f : Disp → Disp) : (s.modDisp f).mov = s.mov := rfl
@[simp] theorem State.modDisp_hi (f : Disp → Disp) : (s.modDisp f).hi = s.hi := rfl
@[simp] theorem State.modDisp_peer (f : Disp → Disp) : (s.modDisp f).peer = s.peer := rfl
@[simp] theorem State.modDisp_porters (f : Disp → Disp) : (s.modDisp f).porters = s.porters := rfl
@[simp] theorem State.modDisp_sk (f : Disp → Disp) : (s.modDisp f).sk = s.sk := rfl
@[simp] theorem State.modDisp_obs (f : Disp → Disp) : (s.modDisp f).obs = s.obs := rfl
@[simp] theorem State.modDisp_disp_eq (f : Disp → Disp) : (s.modDisp f).disp = f s.disp := rfl

@[simp] theorem State.modObs_pending (f : Obs → Obs) : (s.modObs f).pending = s.pending := rfl
@[simp] theorem State.modObs_fresh (f : Obs → Obs) : (s.modObs f).fresh = s.fresh := rfl
@[simp] theorem State.modObs_pwr (f : Obs → Obs) : (s.modObs f).pwr = s.pwr := rfl
@[simp] theorem State.modObs_host (f : Obs → Obs) : (s.modObs f).host = s.host := rfl
@[simp] theorem State.modObs_regs (f : Obs → Obs) : (s.modObs f).regs = s.regs := rfl
@[simp] theorem State.modObs_notices (f : Obs → Obs) : (s.modObs f).notices = s.notices := rfl
@[simp] theorem State.modObs_mem (f : Obs → Obs) : (s.modObs f).mem = s.mem := rfl
@[simp] theorem State.modObs_wild (f : Obs → Obs) : (s.modObs f).wild = s.wild := rfl
@[simp] theorem State.modObs_slots (f : Obs → Obs) : (s.modObs f).slots = s.slots := rfl
@[simp] theorem State.modObs_cfg (f : Obs → Obs) : (s.modObs f).cfg = s.cfg := rfl
@[simp] theorem State.modObs_disp (f : Obs → Obs) : (s.modObs f).disp = s.disp := rfl
@[simp] theorem State.modObs_eng (f : Obs → Obs) : (s.modObs f).eng = s.eng := rfl
@[simp] theorem State.modObs_arr (f : Obs → Obs) : (s.modObs f).arr = s.arr := rfl
@[simp] theorem State.modObs_net (f : Obs → Obs) : (s.modObs f).net = s.net := rfl
@[simp] theorem State.modObs_mov (f : Obs → Obs) : (s.modObs f).mov = s.mov := rfl
@[simp] theorem State.modObs_hi (f : Obs → Obs) : (s.modObs f).hi = s.hi := rfl
@[simp] theorem State.modObs_peer (f : Obs → Obs) : (s.modObs f).peer = s.peer := rfl
@[simp] theorem State.modObs_porters (f : Obs → Obs) : (s.modObs f).porters = s.porters := rfl
@[simp] theorem State.modObs_sk (f : Obs → Obs) : (s.modObs f).sk = s.sk := rfl
@[simp] theorem State.modObs_obs_eq (f : Obs → Obs) : (s.modObs f).obs = f s.obs := rfl

@[simp] theorem State.modSnap_pending (f : Snap → Snap) : (s.modSnap f).pending = s.pending := rfl
@[simp] theorem State.modSnap_fresh (f : Snap → Snap) : (s.modSnap f).fresh = s.fresh := rfl
@[simp] theorem State.modSnap_pwr (f : Snap → Snap) : (s.modSnap f).pwr = s.pwr := rfl
@[simp] theorem State.modSnap_host (f : Snap → Snap) : (s.modSnap f).host = s.host := rfl
@[simp] theorem State.modSnap_regs (f : Snap → Snap) : (s.modSnap f).regs = s.regs := rfl
@[simp] theorem State.modSnap_notices (f : Snap → Snap) : (s.modSnap f).notices = s.notices := rfl
@[simp] theorem State.modSnap_mem (f : Snap → Snap) : (s.modSnap f).mem = s.mem := rfl
@[simp] theorem State.modSnap_wild (f : Snap → Snap) : (s.modSnap f).wild = s.wild := rfl
@[simp] theorem State.modSnap_slots (f : Snap → Snap) : (s.modSnap f).slots = s.slots := rfl
@[simp] theorem State.modSnap_cfg (f : Snap → Snap) : (s.modSnap f).cfg = s.cfg := rfl
@[simp] theorem State.modSnap_disp (f : Snap → Snap) : (s.modSnap f).disp = s.disp := rfl
@[simp] theorem State.modSnap_eng (f : Snap → Snap) : (s.modSnap f).eng = s.eng := rfl
@[simp] theorem State.modSnap_arr (f : Snap → Snap) : (s.modSnap f).arr = s.arr := rfl
@[simp] theorem State.modSnap_net (f : Snap → Snap) : (s.modSnap f).net = s.net := rfl
@[simp] theorem State.modSnap_mov (f : Snap → Snap) : (s.modSnap f).mov = s.mov := rfl
@[simp] theorem State.modSnap_hi (f : Snap → Snap) : (s.modSnap f).hi = s.hi := rfl
@[simp] theorem State.modSnap_peer (f : Snap → Snap) : (s.modSnap f).peer = s.peer := rfl
@[simp] theorem State.modSnap_porters (f : Snap → Snap) : (s.modSnap f).porters = s.porters := rfl
@[simp] theorem State.modSnap_sk (f : Snap → Snap) : (s.modSnap f).sk = s.sk := rfl
@[simp] theorem State.modSnap_obs_snap_eq (f : Snap → Snap) : (s.modSnap f).obs.snap = f s.obs.snap := rfl

@[simp] theorem State.raise_pending (off bits : Nat) : (s.raise off bits).pending = s.pending := rfl
@[simp] theorem State.raise_fresh (off bits : Nat) : (s.raise off bits).fresh = s.fresh := rfl
@[simp] theorem State.raise_pwr (off bits : Nat) : (s.raise off bits).pwr = s.pwr := rfl
@[simp] theorem State.raise_host (off bits : Nat) : (s.raise off bits).host = s.host := rfl
@[simp] theorem State.raise_regs (off bits : Nat) : (s.raise off bits).regs = s.regs := rfl
@[simp] theorem State.raise_mem (off bits : Nat) : (s.raise off bits).mem = s.mem := rfl
@[simp] theorem State.raise_wild (off bits : Nat) : (s.raise off bits).wild = s.wild := rfl
@[simp] theorem State.raise_slots (off bits : Nat) : (s.raise off bits).slots = s.slots := rfl
@[simp] theorem State.raise_cfg (off bits : Nat) : (s.raise off bits).cfg = s.cfg := rfl
@[simp] theorem State.raise_disp (off bits : Nat) : (s.raise off bits).disp = s.disp := rfl
@[simp] theorem State.raise_eng (off bits : Nat) : (s.raise off bits).eng = s.eng := rfl
@[simp] theorem State.raise_arr (off bits : Nat) : (s.raise off bits).arr = s.arr := rfl
@[simp] theorem State.raise_net (off bits : Nat) : (s.raise off bits).net = s.net := rfl
@[simp] theorem State.raise_mov (off bits : Nat) : (s.raise off bits).mov = s.mov := rfl
@[simp] theorem State.raise_hi (off bits : Nat) : (s.raise off bits).hi = s.hi := rfl
@[simp] theorem State.raise_peer (off bits : Nat) : (s.raise off bits).peer = s.peer := rfl
@[simp] theorem State.raise_porters (off bits : Nat) : (s.raise off bits).porters = s.porters := rfl
@[simp] theorem State.raise_sk (off bits : Nat) : (s.raise off bits).sk = s.sk := rfl
@[simp] theorem State.raise_obs (off bits : Nat) : (s.raise off bits).obs = s.obs := rfl

@[simp] theorem State.lower_pending (off bits : Nat) : (s.lower off bits).pending = s.pending := rfl
@[simp] theorem State.lower_fresh (off bits : Nat) : (s.lower off bits).fresh = s.fresh := rfl
@[simp] theorem State.lower_pwr (off bits : Nat) : (s.lower off bits).pwr = s.pwr := rfl
@[simp] theorem State.lower_host (off bits : Nat) : (s.lower off bits).host = s.host := rfl
@[simp] theorem State.lower_regs (off bits : Nat) : (s.lower off bits).regs = s.regs := rfl
@[simp] theorem State.lower_mem (off bits : Nat) : (s.lower off bits).mem = s.mem := rfl
@[simp] theorem State.lower_wild (off bits : Nat) : (s.lower off bits).wild = s.wild := rfl
@[simp] theorem State.lower_slots (off bits : Nat) : (s.lower off bits).slots = s.slots := rfl
@[simp] theorem State.lower_cfg (off bits : Nat) : (s.lower off bits).cfg = s.cfg := rfl
@[simp] theorem State.lower_disp (off bits : Nat) : (s.lower off bits).disp = s.disp := rfl
@[simp] theorem State.lower_eng (off bits : Nat) : (s.lower off bits).eng = s.eng := rfl
@[simp] theorem State.lower_arr (off bits : Nat) : (s.lower off bits).arr = s.arr := rfl
@[simp] theorem State.lower_net (off bits : Nat) : (s.lower off bits).net = s.net := rfl
@[simp] theorem State.lower_mov (off bits : Nat) : (s.lower off bits).mov = s.mov := rfl
@[simp] theorem State.lower_hi (off bits : Nat) : (s.lower off bits).hi = s.hi := rfl
@[simp] theorem State.lower_peer (off bits : Nat) : (s.lower off bits).peer = s.peer := rfl
@[simp] theorem State.lower_porters (off bits : Nat) : (s.lower off bits).porters = s.porters := rfl
@[simp] theorem State.lower_sk (off bits : Nat) : (s.lower off bits).sk = s.sk := rfl
@[simp] theorem State.lower_obs (off bits : Nat) : (s.lower off bits).obs = s.obs := rfl

@[simp] theorem State.countN_pending (i n : Nat) : (s.countN i n).pending = s.pending := rfl
@[simp] theorem State.countN_fresh (i n : Nat) : (s.countN i n).fresh = s.fresh := rfl
@[simp] theorem State.countN_pwr (i n : Nat) : (s.countN i n).pwr = s.pwr := rfl
@[simp] theorem State.countN_host (i n : Nat) : (s.countN i n).host = s.host := rfl
@[simp] theorem State.countN_regs (i n : Nat) : (s.countN i n).regs = s.regs := rfl
@[simp] theorem State.countN_notices (i n : Nat) : (s.countN i n).notices = s.notices := rfl
@[simp] theorem State.countN_mem (i n : Nat) : (s.countN i n).mem = s.mem := rfl
@[simp] theorem State.countN_wild (i n : Nat) : (s.countN i n).wild = s.wild := rfl
@[simp] theorem State.countN_slots (i n : Nat) : (s.countN i n).slots = s.slots := rfl
@[simp] theorem State.countN_cfg (i n : Nat) : (s.countN i n).cfg = s.cfg := rfl
@[simp] theorem State.countN_disp (i n : Nat) : (s.countN i n).disp = s.disp := rfl
@[simp] theorem State.countN_eng (i n : Nat) : (s.countN i n).eng = s.eng := rfl
@[simp] theorem State.countN_arr (i n : Nat) : (s.countN i n).arr = s.arr := rfl
@[simp] theorem State.countN_net (i n : Nat) : (s.countN i n).net = s.net := rfl
@[simp] theorem State.countN_mov (i n : Nat) : (s.countN i n).mov = s.mov := rfl
@[simp] theorem State.countN_hi (i n : Nat) : (s.countN i n).hi = s.hi := rfl
@[simp] theorem State.countN_peer (i n : Nat) : (s.countN i n).peer = s.peer := rfl
@[simp] theorem State.countN_porters (i n : Nat) : (s.countN i n).porters = s.porters := rfl
@[simp] theorem State.countN_sk (i n : Nat) : (s.countN i n).sk = s.sk := rfl
@[simp] theorem State.countN_own (i n : Nat) : (s.countN i n).obs.counters.get 0#64 i = s.obs.counters.get 0#64 i + BitVec.ofNat 64 n := by
  simp [State.countN]
theorem State.countN_ne (i n : Nat) (x : Nat) (h : x ≠ i) : (s.countN i n).obs.counters.get 0#64 x = s.obs.counters.get 0#64 x := by
  simp [State.countN, h]

@[simp] theorem State.count_pending (i : Nat) : (s.count i).pending = s.pending := rfl
@[simp] theorem State.count_fresh (i : Nat) : (s.count i).fresh = s.fresh := rfl
@[simp] theorem State.count_pwr (i : Nat) : (s.count i).pwr = s.pwr := rfl
@[simp] theorem State.count_host (i : Nat) : (s.count i).host = s.host := rfl
@[simp] theorem State.count_regs (i : Nat) : (s.count i).regs = s.regs := rfl
@[simp] theorem State.count_notices (i : Nat) : (s.count i).notices = s.notices := rfl
@[simp] theorem State.count_mem (i : Nat) : (s.count i).mem = s.mem := rfl
@[simp] theorem State.count_wild (i : Nat) : (s.count i).wild = s.wild := rfl
@[simp] theorem State.count_slots (i : Nat) : (s.count i).slots = s.slots := rfl
@[simp] theorem State.count_cfg (i : Nat) : (s.count i).cfg = s.cfg := rfl
@[simp] theorem State.count_disp (i : Nat) : (s.count i).disp = s.disp := rfl
@[simp] theorem State.count_eng (i : Nat) : (s.count i).eng = s.eng := rfl
@[simp] theorem State.count_arr (i : Nat) : (s.count i).arr = s.arr := rfl
@[simp] theorem State.count_net (i : Nat) : (s.count i).net = s.net := rfl
@[simp] theorem State.count_mov (i : Nat) : (s.count i).mov = s.mov := rfl
@[simp] theorem State.count_hi (i : Nat) : (s.count i).hi = s.hi := rfl
@[simp] theorem State.count_peer (i : Nat) : (s.count i).peer = s.peer := rfl
@[simp] theorem State.count_porters (i : Nat) : (s.count i).porters = s.porters := rfl
@[simp] theorem State.count_sk (i : Nat) : (s.count i).sk = s.sk := rfl
@[simp] theorem State.count_own (i : Nat) : (s.count i).obs.counters.get 0#64 i = s.obs.counters.get 0#64 i + 1#64 := by
  simp [State.count, State.countN]

@[simp] theorem State.drop_pending (table k n : Nat) : (s.drop table k n).pending = s.pending := rfl
@[simp] theorem State.drop_fresh (table k n : Nat) : (s.drop table k n).fresh = s.fresh := rfl
@[simp] theorem State.drop_pwr (table k n : Nat) : (s.drop table k n).pwr = s.pwr := rfl
@[simp] theorem State.drop_host (table k n : Nat) : (s.drop table k n).host = s.host := rfl
@[simp] theorem State.drop_regs (table k n : Nat) : (s.drop table k n).regs = s.regs := rfl
@[simp] theorem State.drop_notices (table k n : Nat) : (s.drop table k n).notices = s.notices := rfl
@[simp] theorem State.drop_mem (table k n : Nat) : (s.drop table k n).mem = s.mem := rfl
@[simp] theorem State.drop_wild (table k n : Nat) : (s.drop table k n).wild = s.wild := rfl
@[simp] theorem State.drop_slots (table k n : Nat) : (s.drop table k n).slots = s.slots := rfl
@[simp] theorem State.drop_cfg (table k n : Nat) : (s.drop table k n).cfg = s.cfg := rfl
@[simp] theorem State.drop_disp (table k n : Nat) : (s.drop table k n).disp = s.disp := rfl
@[simp] theorem State.drop_eng (table k n : Nat) : (s.drop table k n).eng = s.eng := rfl
@[simp] theorem State.drop_arr (table k n : Nat) : (s.drop table k n).arr = s.arr := rfl
@[simp] theorem State.drop_net (table k n : Nat) : (s.drop table k n).net = s.net := rfl
@[simp] theorem State.drop_mov (table k n : Nat) : (s.drop table k n).mov = s.mov := rfl
@[simp] theorem State.drop_hi (table k n : Nat) : (s.drop table k n).hi = s.hi := rfl
@[simp] theorem State.drop_peer (table k n : Nat) : (s.drop table k n).peer = s.peer := rfl
@[simp] theorem State.drop_porters (table k n : Nat) : (s.drop table k n).porters = s.porters := rfl
@[simp] theorem State.drop_sk (table k n : Nat) : (s.drop table k n).sk = s.sk := rfl

@[simp] theorem State.setReg_pending (off v : Nat) : (s.setReg off v).pending = s.pending := rfl
@[simp] theorem State.setReg_fresh (off v : Nat) : (s.setReg off v).fresh = s.fresh := rfl
@[simp] theorem State.setReg_pwr (off v : Nat) : (s.setReg off v).pwr = s.pwr := rfl
@[simp] theorem State.setReg_host (off v : Nat) : (s.setReg off v).host = s.host := rfl
@[simp] theorem State.setReg_notices (off v : Nat) : (s.setReg off v).notices = s.notices := rfl
@[simp] theorem State.setReg_mem (off v : Nat) : (s.setReg off v).mem = s.mem := rfl
@[simp] theorem State.setReg_wild (off v : Nat) : (s.setReg off v).wild = s.wild := rfl
@[simp] theorem State.setReg_slots (off v : Nat) : (s.setReg off v).slots = s.slots := rfl
@[simp] theorem State.setReg_cfg (off v : Nat) : (s.setReg off v).cfg = s.cfg := rfl
@[simp] theorem State.setReg_disp (off v : Nat) : (s.setReg off v).disp = s.disp := rfl
@[simp] theorem State.setReg_eng (off v : Nat) : (s.setReg off v).eng = s.eng := rfl
@[simp] theorem State.setReg_arr (off v : Nat) : (s.setReg off v).arr = s.arr := rfl
@[simp] theorem State.setReg_net (off v : Nat) : (s.setReg off v).net = s.net := rfl
@[simp] theorem State.setReg_mov (off v : Nat) : (s.setReg off v).mov = s.mov := rfl
@[simp] theorem State.setReg_hi (off v : Nat) : (s.setReg off v).hi = s.hi := rfl
@[simp] theorem State.setReg_peer (off v : Nat) : (s.setReg off v).peer = s.peer := rfl
@[simp] theorem State.setReg_porters (off v : Nat) : (s.setReg off v).porters = s.porters := rfl
@[simp] theorem State.setReg_sk (off v : Nat) : (s.setReg off v).sk = s.sk := rfl
@[simp] theorem State.setReg_obs (off v : Nat) : (s.setReg off v).obs = s.obs := rfl

@[simp] theorem State.storeByte_pending (a : Nat) (b : Byte) : (s.storeByte a b).pending = s.pending := rfl
@[simp] theorem State.storeByte_fresh (a : Nat) (b : Byte) : (s.storeByte a b).fresh = s.fresh := rfl
@[simp] theorem State.storeByte_pwr (a : Nat) (b : Byte) : (s.storeByte a b).pwr = s.pwr := rfl
@[simp] theorem State.storeByte_host (a : Nat) (b : Byte) : (s.storeByte a b).host = s.host := rfl
@[simp] theorem State.storeByte_regs (a : Nat) (b : Byte) : (s.storeByte a b).regs = s.regs := rfl
@[simp] theorem State.storeByte_notices (a : Nat) (b : Byte) : (s.storeByte a b).notices = s.notices := rfl
@[simp] theorem State.storeByte_wild (a : Nat) (b : Byte) : (s.storeByte a b).wild = s.wild := rfl
@[simp] theorem State.storeByte_slots (a : Nat) (b : Byte) : (s.storeByte a b).slots = s.slots := rfl
@[simp] theorem State.storeByte_cfg (a : Nat) (b : Byte) : (s.storeByte a b).cfg = s.cfg := rfl
@[simp] theorem State.storeByte_disp (a : Nat) (b : Byte) : (s.storeByte a b).disp = s.disp := rfl
@[simp] theorem State.storeByte_eng (a : Nat) (b : Byte) : (s.storeByte a b).eng = s.eng := rfl
@[simp] theorem State.storeByte_arr (a : Nat) (b : Byte) : (s.storeByte a b).arr = s.arr := rfl
@[simp] theorem State.storeByte_net (a : Nat) (b : Byte) : (s.storeByte a b).net = s.net := rfl
@[simp] theorem State.storeByte_mov (a : Nat) (b : Byte) : (s.storeByte a b).mov = s.mov := rfl
@[simp] theorem State.storeByte_hi (a : Nat) (b : Byte) : (s.storeByte a b).hi = s.hi := rfl
@[simp] theorem State.storeByte_peer (a : Nat) (b : Byte) : (s.storeByte a b).peer = s.peer := rfl
@[simp] theorem State.storeByte_porters (a : Nat) (b : Byte) : (s.storeByte a b).porters = s.porters := rfl
@[simp] theorem State.storeByte_sk (a : Nat) (b : Byte) : (s.storeByte a b).sk = s.sk := rfl
@[simp] theorem State.storeByte_obs (a : Nat) (b : Byte) : (s.storeByte a b).obs = s.obs := rfl

/-! ### Reads of parts that an update does not touch -/

@[simp] theorem State.setRing_work_other (r : Nat) (v : Ring) (x : Nat) : (s.setRing r v).work x = s.work x := rfl
@[simp] theorem State.setRing_scatter_other (r : Nat) (v : Ring) (x : Nat) : (s.setRing r v).scatter x = s.scatter x := rfl
@[simp] theorem State.setRing_engine_other (r : Nat) (v : Ring) (x : Nat) : (s.setRing r v).engine x = s.engine x := rfl
@[simp] theorem State.setRing_array_other (r : Nat) (v : Ring) (x : Nat) : (s.setRing r v).array x = s.array x := rfl
@[simp] theorem State.setRing_sem_other (r : Nat) (v : Ring) (x : Nat) : (s.setRing r v).sem x = s.sem x := rfl
@[simp] theorem State.setRing_agent_other (r : Nat) (v : Ring) (x : Nat) : (s.setRing r v).agent x = s.agent x := rfl
@[simp] theorem State.setRing_link_other (r : Nat) (v : Ring) (x : Nat) : (s.setRing r v).link x = s.link x := rfl
@[simp] theorem State.setRing_chan_other (r : Nat) (v : Ring) (x : Nat) : (s.setRing r v).chan x = s.chan x := rfl
@[simp] theorem State.setRing_hiChan_other (r : Nat) (v : Ring) (x : Nat) : (s.setRing r v).hiChan x = s.hiChan x := rfl
@[simp] theorem State.setRing_conn_other (r : Nat) (v : Ring) (x : Nat) : (s.setRing r v).conn x = s.conn x := rfl
@[simp] theorem State.setRing_port_other (r : Nat) (v : Ring) (x : Nat) : (s.setRing r v).port x = s.port x := rfl
@[simp] theorem State.setRing_porter_other (r : Nat) (v : Ring) (x : Nat) : (s.setRing r v).porter x = s.porter x := rfl
@[simp] theorem State.setRing_fifo_other (r : Nat) (v : Ring) (x : Nat) : (s.setRing r v).fifo x = s.fifo x := rfl
@[simp] theorem State.setRing_unit_other (r : Nat) (v : Ring) (x : Nat) : (s.setRing r v).unit x = s.unit x := rfl
@[simp] theorem State.setRing_tcEnt_other (r : Nat) (v : Ring) (x : Nat) : (s.setRing r v).tcEnt x = s.tcEnt x := rfl
@[simp] theorem State.setRing_faultEnt_other (r : Nat) (v : Ring) (x : Nat) : (s.setRing r v).faultEnt x = s.faultEnt x := rfl
@[simp] theorem State.setRing_frame_other (r : Nat) (v : Ring) (x : Nat) : (s.setRing r v).frame x = s.frame x := rfl
@[simp] theorem State.setWork_ring_other (w : Nat) (v : Work) (x : Nat) : (s.setWork w v).ring x = s.ring x := rfl
@[simp] theorem State.setWork_scatter_other (w : Nat) (v : Work) (x : Nat) : (s.setWork w v).scatter x = s.scatter x := rfl
@[simp] theorem State.setWork_engine_other (w : Nat) (v : Work) (x : Nat) : (s.setWork w v).engine x = s.engine x := rfl
@[simp] theorem State.setWork_array_other (w : Nat) (v : Work) (x : Nat) : (s.setWork w v).array x = s.array x := rfl
@[simp] theorem State.setWork_sem_other (w : Nat) (v : Work) (x : Nat) : (s.setWork w v).sem x = s.sem x := rfl
@[simp] theorem State.setWork_agent_other (w : Nat) (v : Work) (x : Nat) : (s.setWork w v).agent x = s.agent x := rfl
@[simp] theorem State.setWork_link_other (w : Nat) (v : Work) (x : Nat) : (s.setWork w v).link x = s.link x := rfl
@[simp] theorem State.setWork_chan_other (w : Nat) (v : Work) (x : Nat) : (s.setWork w v).chan x = s.chan x := rfl
@[simp] theorem State.setWork_hiChan_other (w : Nat) (v : Work) (x : Nat) : (s.setWork w v).hiChan x = s.hiChan x := rfl
@[simp] theorem State.setWork_conn_other (w : Nat) (v : Work) (x : Nat) : (s.setWork w v).conn x = s.conn x := rfl
@[simp] theorem State.setWork_port_other (w : Nat) (v : Work) (x : Nat) : (s.setWork w v).port x = s.port x := rfl
@[simp] theorem State.setWork_porter_other (w : Nat) (v : Work) (x : Nat) : (s.setWork w v).porter x = s.porter x := rfl
@[simp] theorem State.setWork_fifo_other (w : Nat) (v : Work) (x : Nat) : (s.setWork w v).fifo x = s.fifo x := rfl
@[simp] theorem State.setWork_unit_other (w : Nat) (v : Work) (x : Nat) : (s.setWork w v).unit x = s.unit x := rfl
@[simp] theorem State.setWork_tcEnt_other (w : Nat) (v : Work) (x : Nat) : (s.setWork w v).tcEnt x = s.tcEnt x := rfl
@[simp] theorem State.setWork_faultEnt_other (w : Nat) (v : Work) (x : Nat) : (s.setWork w v).faultEnt x = s.faultEnt x := rfl
@[simp] theorem State.setWork_frame_other (w : Nat) (v : Work) (x : Nat) : (s.setWork w v).frame x = s.frame x := rfl
@[simp] theorem State.dropWork_ring_other (w : Nat) (x : Nat) : (s.dropWork w).ring x = s.ring x := rfl
@[simp] theorem State.dropWork_scatter_other (w : Nat) (x : Nat) : (s.dropWork w).scatter x = s.scatter x := rfl
@[simp] theorem State.dropWork_engine_other (w : Nat) (x : Nat) : (s.dropWork w).engine x = s.engine x := rfl
@[simp] theorem State.dropWork_array_other (w : Nat) (x : Nat) : (s.dropWork w).array x = s.array x := rfl
@[simp] theorem State.dropWork_sem_other (w : Nat) (x : Nat) : (s.dropWork w).sem x = s.sem x := rfl
@[simp] theorem State.dropWork_agent_other (w : Nat) (x : Nat) : (s.dropWork w).agent x = s.agent x := rfl
@[simp] theorem State.dropWork_link_other (w : Nat) (x : Nat) : (s.dropWork w).link x = s.link x := rfl
@[simp] theorem State.dropWork_chan_other (w : Nat) (x : Nat) : (s.dropWork w).chan x = s.chan x := rfl
@[simp] theorem State.dropWork_hiChan_other (w : Nat) (x : Nat) : (s.dropWork w).hiChan x = s.hiChan x := rfl
@[simp] theorem State.dropWork_conn_other (w : Nat) (x : Nat) : (s.dropWork w).conn x = s.conn x := rfl
@[simp] theorem State.dropWork_port_other (w : Nat) (x : Nat) : (s.dropWork w).port x = s.port x := rfl
@[simp] theorem State.dropWork_porter_other (w : Nat) (x : Nat) : (s.dropWork w).porter x = s.porter x := rfl
@[simp] theorem State.dropWork_fifo_other (w : Nat) (x : Nat) : (s.dropWork w).fifo x = s.fifo x := rfl
@[simp] theorem State.dropWork_unit_other (w : Nat) (x : Nat) : (s.dropWork w).unit x = s.unit x := rfl
@[simp] theorem State.dropWork_tcEnt_other (w : Nat) (x : Nat) : (s.dropWork w).tcEnt x = s.tcEnt x := rfl
@[simp] theorem State.dropWork_faultEnt_other (w : Nat) (x : Nat) : (s.dropWork w).faultEnt x = s.faultEnt x := rfl
@[simp] theorem State.dropWork_frame_other (w : Nat) (x : Nat) : (s.dropWork w).frame x = s.frame x := rfl
@[simp] theorem State.setScatter_ring_other (i : Nat) (v : Option Scatter) (x : Nat) : (s.setScatter i v).ring x = s.ring x := rfl
@[simp] theorem State.setScatter_work_other (i : Nat) (v : Option Scatter) (x : Nat) : (s.setScatter i v).work x = s.work x := rfl
@[simp] theorem State.setScatter_engine_other (i : Nat) (v : Option Scatter) (x : Nat) : (s.setScatter i v).engine x = s.engine x := rfl
@[simp] theorem State.setScatter_array_other (i : Nat) (v : Option Scatter) (x : Nat) : (s.setScatter i v).array x = s.array x := rfl
@[simp] theorem State.setScatter_sem_other (i : Nat) (v : Option Scatter) (x : Nat) : (s.setScatter i v).sem x = s.sem x := rfl
@[simp] theorem State.setScatter_agent_other (i : Nat) (v : Option Scatter) (x : Nat) : (s.setScatter i v).agent x = s.agent x := rfl
@[simp] theorem State.setScatter_link_other (i : Nat) (v : Option Scatter) (x : Nat) : (s.setScatter i v).link x = s.link x := rfl
@[simp] theorem State.setScatter_chan_other (i : Nat) (v : Option Scatter) (x : Nat) : (s.setScatter i v).chan x = s.chan x := rfl
@[simp] theorem State.setScatter_hiChan_other (i : Nat) (v : Option Scatter) (x : Nat) : (s.setScatter i v).hiChan x = s.hiChan x := rfl
@[simp] theorem State.setScatter_conn_other (i : Nat) (v : Option Scatter) (x : Nat) : (s.setScatter i v).conn x = s.conn x := rfl
@[simp] theorem State.setScatter_port_other (i : Nat) (v : Option Scatter) (x : Nat) : (s.setScatter i v).port x = s.port x := rfl
@[simp] theorem State.setScatter_porter_other (i : Nat) (v : Option Scatter) (x : Nat) : (s.setScatter i v).porter x = s.porter x := rfl
@[simp] theorem State.setScatter_fifo_other (i : Nat) (v : Option Scatter) (x : Nat) : (s.setScatter i v).fifo x = s.fifo x := rfl
@[simp] theorem State.setScatter_unit_other (i : Nat) (v : Option Scatter) (x : Nat) : (s.setScatter i v).unit x = s.unit x := rfl
@[simp] theorem State.setScatter_tcEnt_other (i : Nat) (v : Option Scatter) (x : Nat) : (s.setScatter i v).tcEnt x = s.tcEnt x := rfl
@[simp] theorem State.setScatter_faultEnt_other (i : Nat) (v : Option Scatter) (x : Nat) : (s.setScatter i v).faultEnt x = s.faultEnt x := rfl
@[simp] theorem State.setScatter_frame_other (i : Nat) (v : Option Scatter) (x : Nat) : (s.setScatter i v).frame x = s.frame x := rfl
@[simp] theorem State.setEngine_ring_other (p : Nat) (v : Engine) (x : Nat) : (s.setEngine p v).ring x = s.ring x := rfl
@[simp] theorem State.setEngine_work_other (p : Nat) (v : Engine) (x : Nat) : (s.setEngine p v).work x = s.work x := rfl
@[simp] theorem State.setEngine_scatter_other (p : Nat) (v : Engine) (x : Nat) : (s.setEngine p v).scatter x = s.scatter x := rfl
@[simp] theorem State.setEngine_array_other (p : Nat) (v : Engine) (x : Nat) : (s.setEngine p v).array x = s.array x := rfl
@[simp] theorem State.setEngine_sem_other (p : Nat) (v : Engine) (x : Nat) : (s.setEngine p v).sem x = s.sem x := rfl
@[simp] theorem State.setEngine_agent_other (p : Nat) (v : Engine) (x : Nat) : (s.setEngine p v).agent x = s.agent x := rfl
@[simp] theorem State.setEngine_link_other (p : Nat) (v : Engine) (x : Nat) : (s.setEngine p v).link x = s.link x := rfl
@[simp] theorem State.setEngine_chan_other (p : Nat) (v : Engine) (x : Nat) : (s.setEngine p v).chan x = s.chan x := rfl
@[simp] theorem State.setEngine_hiChan_other (p : Nat) (v : Engine) (x : Nat) : (s.setEngine p v).hiChan x = s.hiChan x := rfl
@[simp] theorem State.setEngine_conn_other (p : Nat) (v : Engine) (x : Nat) : (s.setEngine p v).conn x = s.conn x := rfl
@[simp] theorem State.setEngine_port_other (p : Nat) (v : Engine) (x : Nat) : (s.setEngine p v).port x = s.port x := rfl
@[simp] theorem State.setEngine_porter_other (p : Nat) (v : Engine) (x : Nat) : (s.setEngine p v).porter x = s.porter x := rfl
@[simp] theorem State.setEngine_fifo_other (p : Nat) (v : Engine) (x : Nat) : (s.setEngine p v).fifo x = s.fifo x := rfl
@[simp] theorem State.setEngine_unit_other (p : Nat) (v : Engine) (x : Nat) : (s.setEngine p v).unit x = s.unit x := rfl
@[simp] theorem State.setEngine_tcEnt_other (p : Nat) (v : Engine) (x : Nat) : (s.setEngine p v).tcEnt x = s.tcEnt x := rfl
@[simp] theorem State.setEngine_faultEnt_other (p : Nat) (v : Engine) (x : Nat) : (s.setEngine p v).faultEnt x = s.faultEnt x := rfl
@[simp] theorem State.setEngine_frame_other (p : Nat) (v : Engine) (x : Nat) : (s.setEngine p v).frame x = s.frame x := rfl
@[simp] theorem State.modEngine_ring_other (p : Nat) (f : Engine → Engine) (x : Nat) : (s.modEngine p f).ring x = s.ring x := rfl
@[simp] theorem State.modEngine_work_other (p : Nat) (f : Engine → Engine) (x : Nat) : (s.modEngine p f).work x = s.work x := rfl
@[simp] theorem State.modEngine_scatter_other (p : Nat) (f : Engine → Engine) (x : Nat) : (s.modEngine p f).scatter x = s.scatter x := rfl
@[simp] theorem State.modEngine_array_other (p : Nat) (f : Engine → Engine) (x : Nat) : (s.modEngine p f).array x = s.array x := rfl
@[simp] theorem State.modEngine_sem_other (p : Nat) (f : Engine → Engine) (x : Nat) : (s.modEngine p f).sem x = s.sem x := rfl
@[simp] theorem State.modEngine_agent_other (p : Nat) (f : Engine → Engine) (x : Nat) : (s.modEngine p f).agent x = s.agent x := rfl
@[simp] theorem State.modEngine_link_other (p : Nat) (f : Engine → Engine) (x : Nat) : (s.modEngine p f).link x = s.link x := rfl
@[simp] theorem State.modEngine_chan_other (p : Nat) (f : Engine → Engine) (x : Nat) : (s.modEngine p f).chan x = s.chan x := rfl
@[simp] theorem State.modEngine_hiChan_other (p : Nat) (f : Engine → Engine) (x : Nat) : (s.modEngine p f).hiChan x = s.hiChan x := rfl
@[simp] theorem State.modEngine_conn_other (p : Nat) (f : Engine → Engine) (x : Nat) : (s.modEngine p f).conn x = s.conn x := rfl
@[simp] theorem State.modEngine_port_other (p : Nat) (f : Engine → Engine) (x : Nat) : (s.modEngine p f).port x = s.port x := rfl
@[simp] theorem State.modEngine_porter_other (p : Nat) (f : Engine → Engine) (x : Nat) : (s.modEngine p f).porter x = s.porter x := rfl
@[simp] theorem State.modEngine_fifo_other (p : Nat) (f : Engine → Engine) (x : Nat) : (s.modEngine p f).fifo x = s.fifo x := rfl
@[simp] theorem State.modEngine_unit_other (p : Nat) (f : Engine → Engine) (x : Nat) : (s.modEngine p f).unit x = s.unit x := rfl
@[simp] theorem State.modEngine_tcEnt_other (p : Nat) (f : Engine → Engine) (x : Nat) : (s.modEngine p f).tcEnt x = s.tcEnt x := rfl
@[simp] theorem State.modEngine_faultEnt_other (p : Nat) (f : Engine → Engine) (x : Nat) : (s.modEngine p f).faultEnt x = s.faultEnt x := rfl
@[simp] theorem State.modEngine_frame_other (p : Nat) (f : Engine → Engine) (x : Nat) : (s.modEngine p f).frame x = s.frame x := rfl
@[simp] theorem State.setArray_ring_other (a : Nat) (v : ArraySt) (x : Nat) : (s.setArray a v).ring x = s.ring x := rfl
@[simp] theorem State.setArray_work_other (a : Nat) (v : ArraySt) (x : Nat) : (s.setArray a v).work x = s.work x := rfl
@[simp] theorem State.setArray_scatter_other (a : Nat) (v : ArraySt) (x : Nat) : (s.setArray a v).scatter x = s.scatter x := rfl
@[simp] theorem State.setArray_engine_other (a : Nat) (v : ArraySt) (x : Nat) : (s.setArray a v).engine x = s.engine x := rfl
@[simp] theorem State.setArray_sem_other (a : Nat) (v : ArraySt) (x : Nat) : (s.setArray a v).sem x = s.sem x := rfl
@[simp] theorem State.setArray_agent_other (a : Nat) (v : ArraySt) (x : Nat) : (s.setArray a v).agent x = s.agent x := rfl
@[simp] theorem State.setArray_link_other (a : Nat) (v : ArraySt) (x : Nat) : (s.setArray a v).link x = s.link x := rfl
@[simp] theorem State.setArray_chan_other (a : Nat) (v : ArraySt) (x : Nat) : (s.setArray a v).chan x = s.chan x := rfl
@[simp] theorem State.setArray_hiChan_other (a : Nat) (v : ArraySt) (x : Nat) : (s.setArray a v).hiChan x = s.hiChan x := rfl
@[simp] theorem State.setArray_conn_other (a : Nat) (v : ArraySt) (x : Nat) : (s.setArray a v).conn x = s.conn x := rfl
@[simp] theorem State.setArray_port_other (a : Nat) (v : ArraySt) (x : Nat) : (s.setArray a v).port x = s.port x := rfl
@[simp] theorem State.setArray_porter_other (a : Nat) (v : ArraySt) (x : Nat) : (s.setArray a v).porter x = s.porter x := rfl
@[simp] theorem State.setArray_fifo_other (a : Nat) (v : ArraySt) (x : Nat) : (s.setArray a v).fifo x = s.fifo x := rfl
@[simp] theorem State.setArray_unit_other (a : Nat) (v : ArraySt) (x : Nat) : (s.setArray a v).unit x = s.unit x := rfl
@[simp] theorem State.setArray_tcEnt_other (a : Nat) (v : ArraySt) (x : Nat) : (s.setArray a v).tcEnt x = s.tcEnt x := rfl
@[simp] theorem State.setArray_faultEnt_other (a : Nat) (v : ArraySt) (x : Nat) : (s.setArray a v).faultEnt x = s.faultEnt x := rfl
@[simp] theorem State.setArray_frame_other (a : Nat) (v : ArraySt) (x : Nat) : (s.setArray a v).frame x = s.frame x := rfl
@[simp] theorem State.setSem_ring_other (p : Nat) (v : Sem) (x : Nat) : (s.setSem p v).ring x = s.ring x := rfl
@[simp] theorem State.setSem_work_other (p : Nat) (v : Sem) (x : Nat) : (s.setSem p v).work x = s.work x := rfl
@[simp] theorem State.setSem_scatter_other (p : Nat) (v : Sem) (x : Nat) : (s.setSem p v).scatter x = s.scatter x := rfl
@[simp] theorem State.setSem_engine_other (p : Nat) (v : Sem) (x : Nat) : (s.setSem p v).engine x = s.engine x := rfl
@[simp] theorem State.setSem_array_other (p : Nat) (v : Sem) (x : Nat) : (s.setSem p v).array x = s.array x := rfl
@[simp] theorem State.setSem_agent_other (p : Nat) (v : Sem) (x : Nat) : (s.setSem p v).agent x = s.agent x := rfl
@[simp] theorem State.setSem_link_other (p : Nat) (v : Sem) (x : Nat) : (s.setSem p v).link x = s.link x := rfl
@[simp] theorem State.setSem_chan_other (p : Nat) (v : Sem) (x : Nat) : (s.setSem p v).chan x = s.chan x := rfl
@[simp] theorem State.setSem_hiChan_other (p : Nat) (v : Sem) (x : Nat) : (s.setSem p v).hiChan x = s.hiChan x := rfl
@[simp] theorem State.setSem_conn_other (p : Nat) (v : Sem) (x : Nat) : (s.setSem p v).conn x = s.conn x := rfl
@[simp] theorem State.setSem_port_other (p : Nat) (v : Sem) (x : Nat) : (s.setSem p v).port x = s.port x := rfl
@[simp] theorem State.setSem_porter_other (p : Nat) (v : Sem) (x : Nat) : (s.setSem p v).porter x = s.porter x := rfl
@[simp] theorem State.setSem_fifo_other (p : Nat) (v : Sem) (x : Nat) : (s.setSem p v).fifo x = s.fifo x := rfl
@[simp] theorem State.setSem_unit_other (p : Nat) (v : Sem) (x : Nat) : (s.setSem p v).unit x = s.unit x := rfl
@[simp] theorem State.setSem_tcEnt_other (p : Nat) (v : Sem) (x : Nat) : (s.setSem p v).tcEnt x = s.tcEnt x := rfl
@[simp] theorem State.setSem_faultEnt_other (p : Nat) (v : Sem) (x : Nat) : (s.setSem p v).faultEnt x = s.faultEnt x := rfl
@[simp] theorem State.setSem_frame_other (p : Nat) (v : Sem) (x : Nat) : (s.setSem p v).frame x = s.frame x := rfl
@[simp] theorem State.setAgent_ring_other (n : Nat) (v : Agent) (x : Nat) : (s.setAgent n v).ring x = s.ring x := rfl
@[simp] theorem State.setAgent_work_other (n : Nat) (v : Agent) (x : Nat) : (s.setAgent n v).work x = s.work x := rfl
@[simp] theorem State.setAgent_scatter_other (n : Nat) (v : Agent) (x : Nat) : (s.setAgent n v).scatter x = s.scatter x := rfl
@[simp] theorem State.setAgent_engine_other (n : Nat) (v : Agent) (x : Nat) : (s.setAgent n v).engine x = s.engine x := rfl
@[simp] theorem State.setAgent_array_other (n : Nat) (v : Agent) (x : Nat) : (s.setAgent n v).array x = s.array x := rfl
@[simp] theorem State.setAgent_sem_other (n : Nat) (v : Agent) (x : Nat) : (s.setAgent n v).sem x = s.sem x := rfl
@[simp] theorem State.setAgent_link_other (n : Nat) (v : Agent) (x : Nat) : (s.setAgent n v).link x = s.link x := rfl
@[simp] theorem State.setAgent_chan_other (n : Nat) (v : Agent) (x : Nat) : (s.setAgent n v).chan x = s.chan x := rfl
@[simp] theorem State.setAgent_hiChan_other (n : Nat) (v : Agent) (x : Nat) : (s.setAgent n v).hiChan x = s.hiChan x := rfl
@[simp] theorem State.setAgent_conn_other (n : Nat) (v : Agent) (x : Nat) : (s.setAgent n v).conn x = s.conn x := rfl
@[simp] theorem State.setAgent_port_other (n : Nat) (v : Agent) (x : Nat) : (s.setAgent n v).port x = s.port x := rfl
@[simp] theorem State.setAgent_porter_other (n : Nat) (v : Agent) (x : Nat) : (s.setAgent n v).porter x = s.porter x := rfl
@[simp] theorem State.setAgent_fifo_other (n : Nat) (v : Agent) (x : Nat) : (s.setAgent n v).fifo x = s.fifo x := rfl
@[simp] theorem State.setAgent_unit_other (n : Nat) (v : Agent) (x : Nat) : (s.setAgent n v).unit x = s.unit x := rfl
@[simp] theorem State.setAgent_tcEnt_other (n : Nat) (v : Agent) (x : Nat) : (s.setAgent n v).tcEnt x = s.tcEnt x := rfl
@[simp] theorem State.setAgent_faultEnt_other (n : Nat) (v : Agent) (x : Nat) : (s.setAgent n v).faultEnt x = s.faultEnt x := rfl
@[simp] theorem State.setAgent_frame_other (n : Nat) (v : Agent) (x : Nat) : (s.setAgent n v).frame x = s.frame x := rfl
@[simp] theorem State.modAgent_ring_other (n : Nat) (f : Agent → Agent) (x : Nat) : (s.modAgent n f).ring x = s.ring x := rfl
@[simp] theorem State.modAgent_work_other (n : Nat) (f : Agent → Agent) (x : Nat) : (s.modAgent n f).work x = s.work x := rfl
@[simp] theorem State.modAgent_scatter_other (n : Nat) (f : Agent → Agent) (x : Nat) : (s.modAgent n f).scatter x = s.scatter x := rfl
@[simp] theorem State.modAgent_engine_other (n : Nat) (f : Agent → Agent) (x : Nat) : (s.modAgent n f).engine x = s.engine x := rfl
@[simp] theorem State.modAgent_array_other (n : Nat) (f : Agent → Agent) (x : Nat) : (s.modAgent n f).array x = s.array x := rfl
@[simp] theorem State.modAgent_sem_other (n : Nat) (f : Agent → Agent) (x : Nat) : (s.modAgent n f).sem x = s.sem x := rfl
@[simp] theorem State.modAgent_link_other (n : Nat) (f : Agent → Agent) (x : Nat) : (s.modAgent n f).link x = s.link x := rfl
@[simp] theorem State.modAgent_chan_other (n : Nat) (f : Agent → Agent) (x : Nat) : (s.modAgent n f).chan x = s.chan x := rfl
@[simp] theorem State.modAgent_hiChan_other (n : Nat) (f : Agent → Agent) (x : Nat) : (s.modAgent n f).hiChan x = s.hiChan x := rfl
@[simp] theorem State.modAgent_conn_other (n : Nat) (f : Agent → Agent) (x : Nat) : (s.modAgent n f).conn x = s.conn x := rfl
@[simp] theorem State.modAgent_port_other (n : Nat) (f : Agent → Agent) (x : Nat) : (s.modAgent n f).port x = s.port x := rfl
@[simp] theorem State.modAgent_porter_other (n : Nat) (f : Agent → Agent) (x : Nat) : (s.modAgent n f).porter x = s.porter x := rfl
@[simp] theorem State.modAgent_fifo_other (n : Nat) (f : Agent → Agent) (x : Nat) : (s.modAgent n f).fifo x = s.fifo x := rfl
@[simp] theorem State.modAgent_unit_other (n : Nat) (f : Agent → Agent) (x : Nat) : (s.modAgent n f).unit x = s.unit x := rfl
@[simp] theorem State.modAgent_tcEnt_other (n : Nat) (f : Agent → Agent) (x : Nat) : (s.modAgent n f).tcEnt x = s.tcEnt x := rfl
@[simp] theorem State.modAgent_faultEnt_other (n : Nat) (f : Agent → Agent) (x : Nat) : (s.modAgent n f).faultEnt x = s.faultEnt x := rfl
@[simp] theorem State.modAgent_frame_other (n : Nat) (f : Agent → Agent) (x : Nat) : (s.modAgent n f).frame x = s.frame x := rfl
@[simp] theorem State.setLink_ring_other (n : Nat) (v : Link) (x : Nat) : (s.setLink n v).ring x = s.ring x := rfl
@[simp] theorem State.setLink_work_other (n : Nat) (v : Link) (x : Nat) : (s.setLink n v).work x = s.work x := rfl
@[simp] theorem State.setLink_scatter_other (n : Nat) (v : Link) (x : Nat) : (s.setLink n v).scatter x = s.scatter x := rfl
@[simp] theorem State.setLink_engine_other (n : Nat) (v : Link) (x : Nat) : (s.setLink n v).engine x = s.engine x := rfl
@[simp] theorem State.setLink_array_other (n : Nat) (v : Link) (x : Nat) : (s.setLink n v).array x = s.array x := rfl
@[simp] theorem State.setLink_sem_other (n : Nat) (v : Link) (x : Nat) : (s.setLink n v).sem x = s.sem x := rfl
@[simp] theorem State.setLink_agent_other (n : Nat) (v : Link) (x : Nat) : (s.setLink n v).agent x = s.agent x := rfl
@[simp] theorem State.setLink_chan_other (n : Nat) (v : Link) (x : Nat) : (s.setLink n v).chan x = s.chan x := rfl
@[simp] theorem State.setLink_hiChan_other (n : Nat) (v : Link) (x : Nat) : (s.setLink n v).hiChan x = s.hiChan x := rfl
@[simp] theorem State.setLink_conn_other (n : Nat) (v : Link) (x : Nat) : (s.setLink n v).conn x = s.conn x := rfl
@[simp] theorem State.setLink_port_other (n : Nat) (v : Link) (x : Nat) : (s.setLink n v).port x = s.port x := rfl
@[simp] theorem State.setLink_porter_other (n : Nat) (v : Link) (x : Nat) : (s.setLink n v).porter x = s.porter x := rfl
@[simp] theorem State.setLink_fifo_other (n : Nat) (v : Link) (x : Nat) : (s.setLink n v).fifo x = s.fifo x := rfl
@[simp] theorem State.setLink_unit_other (n : Nat) (v : Link) (x : Nat) : (s.setLink n v).unit x = s.unit x := rfl
@[simp] theorem State.setLink_tcEnt_other (n : Nat) (v : Link) (x : Nat) : (s.setLink n v).tcEnt x = s.tcEnt x := rfl
@[simp] theorem State.setLink_faultEnt_other (n : Nat) (v : Link) (x : Nat) : (s.setLink n v).faultEnt x = s.faultEnt x := rfl
@[simp] theorem State.setLink_frame_other (n : Nat) (v : Link) (x : Nat) : (s.setLink n v).frame x = s.frame x := rfl
@[simp] theorem State.modLink_ring_other (n : Nat) (f : Link → Link) (x : Nat) : (s.modLink n f).ring x = s.ring x := rfl
@[simp] theorem State.modLink_work_other (n : Nat) (f : Link → Link) (x : Nat) : (s.modLink n f).work x = s.work x := rfl
@[simp] theorem State.modLink_scatter_other (n : Nat) (f : Link → Link) (x : Nat) : (s.modLink n f).scatter x = s.scatter x := rfl
@[simp] theorem State.modLink_engine_other (n : Nat) (f : Link → Link) (x : Nat) : (s.modLink n f).engine x = s.engine x := rfl
@[simp] theorem State.modLink_array_other (n : Nat) (f : Link → Link) (x : Nat) : (s.modLink n f).array x = s.array x := rfl
@[simp] theorem State.modLink_sem_other (n : Nat) (f : Link → Link) (x : Nat) : (s.modLink n f).sem x = s.sem x := rfl
@[simp] theorem State.modLink_agent_other (n : Nat) (f : Link → Link) (x : Nat) : (s.modLink n f).agent x = s.agent x := rfl
@[simp] theorem State.modLink_chan_other (n : Nat) (f : Link → Link) (x : Nat) : (s.modLink n f).chan x = s.chan x := rfl
@[simp] theorem State.modLink_hiChan_other (n : Nat) (f : Link → Link) (x : Nat) : (s.modLink n f).hiChan x = s.hiChan x := rfl
@[simp] theorem State.modLink_conn_other (n : Nat) (f : Link → Link) (x : Nat) : (s.modLink n f).conn x = s.conn x := rfl
@[simp] theorem State.modLink_port_other (n : Nat) (f : Link → Link) (x : Nat) : (s.modLink n f).port x = s.port x := rfl
@[simp] theorem State.modLink_porter_other (n : Nat) (f : Link → Link) (x : Nat) : (s.modLink n f).porter x = s.porter x := rfl
@[simp] theorem State.modLink_fifo_other (n : Nat) (f : Link → Link) (x : Nat) : (s.modLink n f).fifo x = s.fifo x := rfl
@[simp] theorem State.modLink_unit_other (n : Nat) (f : Link → Link) (x : Nat) : (s.modLink n f).unit x = s.unit x := rfl
@[simp] theorem State.modLink_tcEnt_other (n : Nat) (f : Link → Link) (x : Nat) : (s.modLink n f).tcEnt x = s.tcEnt x := rfl
@[simp] theorem State.modLink_faultEnt_other (n : Nat) (f : Link → Link) (x : Nat) : (s.modLink n f).faultEnt x = s.faultEnt x := rfl
@[simp] theorem State.modLink_frame_other (n : Nat) (f : Link → Link) (x : Nat) : (s.modLink n f).frame x = s.frame x := rfl
@[simp] theorem State.setChan_ring_other (c : Nat) (v : Chan) (x : Nat) : (s.setChan c v).ring x = s.ring x := rfl
@[simp] theorem State.setChan_work_other (c : Nat) (v : Chan) (x : Nat) : (s.setChan c v).work x = s.work x := rfl
@[simp] theorem State.setChan_scatter_other (c : Nat) (v : Chan) (x : Nat) : (s.setChan c v).scatter x = s.scatter x := rfl
@[simp] theorem State.setChan_engine_other (c : Nat) (v : Chan) (x : Nat) : (s.setChan c v).engine x = s.engine x := rfl
@[simp] theorem State.setChan_array_other (c : Nat) (v : Chan) (x : Nat) : (s.setChan c v).array x = s.array x := rfl
@[simp] theorem State.setChan_sem_other (c : Nat) (v : Chan) (x : Nat) : (s.setChan c v).sem x = s.sem x := rfl
@[simp] theorem State.setChan_agent_other (c : Nat) (v : Chan) (x : Nat) : (s.setChan c v).agent x = s.agent x := rfl
@[simp] theorem State.setChan_link_other (c : Nat) (v : Chan) (x : Nat) : (s.setChan c v).link x = s.link x := rfl
@[simp] theorem State.setChan_hiChan_other (c : Nat) (v : Chan) (x : Nat) : (s.setChan c v).hiChan x = s.hiChan x := rfl
@[simp] theorem State.setChan_conn_other (c : Nat) (v : Chan) (x : Nat) : (s.setChan c v).conn x = s.conn x := rfl
@[simp] theorem State.setChan_port_other (c : Nat) (v : Chan) (x : Nat) : (s.setChan c v).port x = s.port x := rfl
@[simp] theorem State.setChan_porter_other (c : Nat) (v : Chan) (x : Nat) : (s.setChan c v).porter x = s.porter x := rfl
@[simp] theorem State.setChan_fifo_other (c : Nat) (v : Chan) (x : Nat) : (s.setChan c v).fifo x = s.fifo x := rfl
@[simp] theorem State.setChan_unit_other (c : Nat) (v : Chan) (x : Nat) : (s.setChan c v).unit x = s.unit x := rfl
@[simp] theorem State.setChan_tcEnt_other (c : Nat) (v : Chan) (x : Nat) : (s.setChan c v).tcEnt x = s.tcEnt x := rfl
@[simp] theorem State.setChan_faultEnt_other (c : Nat) (v : Chan) (x : Nat) : (s.setChan c v).faultEnt x = s.faultEnt x := rfl
@[simp] theorem State.setChan_frame_other (c : Nat) (v : Chan) (x : Nat) : (s.setChan c v).frame x = s.frame x := rfl
@[simp] theorem State.modChan_ring_other (c : Nat) (f : Chan → Chan) (x : Nat) : (s.modChan c f).ring x = s.ring x := rfl
@[simp] theorem State.modChan_work_other (c : Nat) (f : Chan → Chan) (x : Nat) : (s.modChan c f).work x = s.work x := rfl
@[simp] theorem State.modChan_scatter_other (c : Nat) (f : Chan → Chan) (x : Nat) : (s.modChan c f).scatter x = s.scatter x := rfl
@[simp] theorem State.modChan_engine_other (c : Nat) (f : Chan → Chan) (x : Nat) : (s.modChan c f).engine x = s.engine x := rfl
@[simp] theorem State.modChan_array_other (c : Nat) (f : Chan → Chan) (x : Nat) : (s.modChan c f).array x = s.array x := rfl
@[simp] theorem State.modChan_sem_other (c : Nat) (f : Chan → Chan) (x : Nat) : (s.modChan c f).sem x = s.sem x := rfl
@[simp] theorem State.modChan_agent_other (c : Nat) (f : Chan → Chan) (x : Nat) : (s.modChan c f).agent x = s.agent x := rfl
@[simp] theorem State.modChan_link_other (c : Nat) (f : Chan → Chan) (x : Nat) : (s.modChan c f).link x = s.link x := rfl
@[simp] theorem State.modChan_hiChan_other (c : Nat) (f : Chan → Chan) (x : Nat) : (s.modChan c f).hiChan x = s.hiChan x := rfl
@[simp] theorem State.modChan_conn_other (c : Nat) (f : Chan → Chan) (x : Nat) : (s.modChan c f).conn x = s.conn x := rfl
@[simp] theorem State.modChan_port_other (c : Nat) (f : Chan → Chan) (x : Nat) : (s.modChan c f).port x = s.port x := rfl
@[simp] theorem State.modChan_porter_other (c : Nat) (f : Chan → Chan) (x : Nat) : (s.modChan c f).porter x = s.porter x := rfl
@[simp] theorem State.modChan_fifo_other (c : Nat) (f : Chan → Chan) (x : Nat) : (s.modChan c f).fifo x = s.fifo x := rfl
@[simp] theorem State.modChan_unit_other (c : Nat) (f : Chan → Chan) (x : Nat) : (s.modChan c f).unit x = s.unit x := rfl
@[simp] theorem State.modChan_tcEnt_other (c : Nat) (f : Chan → Chan) (x : Nat) : (s.modChan c f).tcEnt x = s.tcEnt x := rfl
@[simp] theorem State.modChan_faultEnt_other (c : Nat) (f : Chan → Chan) (x : Nat) : (s.modChan c f).faultEnt x = s.faultEnt x := rfl
@[simp] theorem State.modChan_frame_other (c : Nat) (f : Chan → Chan) (x : Nat) : (s.modChan c f).frame x = s.frame x := rfl
@[simp] theorem State.setHiChan_ring_other (c : Nat) (v : HiChan) (x : Nat) : (s.setHiChan c v).ring x = s.ring x := rfl
@[simp] theorem State.setHiChan_work_other (c : Nat) (v : HiChan) (x : Nat) : (s.setHiChan c v).work x = s.work x := rfl
@[simp] theorem State.setHiChan_scatter_other (c : Nat) (v : HiChan) (x : Nat) : (s.setHiChan c v).scatter x = s.scatter x := rfl
@[simp] theorem State.setHiChan_engine_other (c : Nat) (v : HiChan) (x : Nat) : (s.setHiChan c v).engine x = s.engine x := rfl
@[simp] theorem State.setHiChan_array_other (c : Nat) (v : HiChan) (x : Nat) : (s.setHiChan c v).array x = s.array x := rfl
@[simp] theorem State.setHiChan_sem_other (c : Nat) (v : HiChan) (x : Nat) : (s.setHiChan c v).sem x = s.sem x := rfl
@[simp] theorem State.setHiChan_agent_other (c : Nat) (v : HiChan) (x : Nat) : (s.setHiChan c v).agent x = s.agent x := rfl
@[simp] theorem State.setHiChan_link_other (c : Nat) (v : HiChan) (x : Nat) : (s.setHiChan c v).link x = s.link x := rfl
@[simp] theorem State.setHiChan_chan_other (c : Nat) (v : HiChan) (x : Nat) : (s.setHiChan c v).chan x = s.chan x := rfl
@[simp] theorem State.setHiChan_conn_other (c : Nat) (v : HiChan) (x : Nat) : (s.setHiChan c v).conn x = s.conn x := rfl
@[simp] theorem State.setHiChan_port_other (c : Nat) (v : HiChan) (x : Nat) : (s.setHiChan c v).port x = s.port x := rfl
@[simp] theorem State.setHiChan_porter_other (c : Nat) (v : HiChan) (x : Nat) : (s.setHiChan c v).porter x = s.porter x := rfl
@[simp] theorem State.setHiChan_fifo_other (c : Nat) (v : HiChan) (x : Nat) : (s.setHiChan c v).fifo x = s.fifo x := rfl
@[simp] theorem State.setHiChan_unit_other (c : Nat) (v : HiChan) (x : Nat) : (s.setHiChan c v).unit x = s.unit x := rfl
@[simp] theorem State.setHiChan_tcEnt_other (c : Nat) (v : HiChan) (x : Nat) : (s.setHiChan c v).tcEnt x = s.tcEnt x := rfl
@[simp] theorem State.setHiChan_faultEnt_other (c : Nat) (v : HiChan) (x : Nat) : (s.setHiChan c v).faultEnt x = s.faultEnt x := rfl
@[simp] theorem State.setHiChan_frame_other (c : Nat) (v : HiChan) (x : Nat) : (s.setHiChan c v).frame x = s.frame x := rfl
@[simp] theorem State.setConn_ring_other (c : Nat) (v : Conn) (x : Nat) : (s.setConn c v).ring x = s.ring x := rfl
@[simp] theorem State.setConn_work_other (c : Nat) (v : Conn) (x : Nat) : (s.setConn c v).work x = s.work x := rfl
@[simp] theorem State.setConn_scatter_other (c : Nat) (v : Conn) (x : Nat) : (s.setConn c v).scatter x = s.scatter x := rfl
@[simp] theorem State.setConn_engine_other (c : Nat) (v : Conn) (x : Nat) : (s.setConn c v).engine x = s.engine x := rfl
@[simp] theorem State.setConn_array_other (c : Nat) (v : Conn) (x : Nat) : (s.setConn c v).array x = s.array x := rfl
@[simp] theorem State.setConn_sem_other (c : Nat) (v : Conn) (x : Nat) : (s.setConn c v).sem x = s.sem x := rfl
@[simp] theorem State.setConn_agent_other (c : Nat) (v : Conn) (x : Nat) : (s.setConn c v).agent x = s.agent x := rfl
@[simp] theorem State.setConn_link_other (c : Nat) (v : Conn) (x : Nat) : (s.setConn c v).link x = s.link x := rfl
@[simp] theorem State.setConn_chan_other (c : Nat) (v : Conn) (x : Nat) : (s.setConn c v).chan x = s.chan x := rfl
@[simp] theorem State.setConn_hiChan_other (c : Nat) (v : Conn) (x : Nat) : (s.setConn c v).hiChan x = s.hiChan x := rfl
@[simp] theorem State.setConn_port_other (c : Nat) (v : Conn) (x : Nat) : (s.setConn c v).port x = s.port x := rfl
@[simp] theorem State.setConn_porter_other (c : Nat) (v : Conn) (x : Nat) : (s.setConn c v).porter x = s.porter x := rfl
@[simp] theorem State.setConn_fifo_other (c : Nat) (v : Conn) (x : Nat) : (s.setConn c v).fifo x = s.fifo x := rfl
@[simp] theorem State.setConn_unit_other (c : Nat) (v : Conn) (x : Nat) : (s.setConn c v).unit x = s.unit x := rfl
@[simp] theorem State.setConn_tcEnt_other (c : Nat) (v : Conn) (x : Nat) : (s.setConn c v).tcEnt x = s.tcEnt x := rfl
@[simp] theorem State.setConn_faultEnt_other (c : Nat) (v : Conn) (x : Nat) : (s.setConn c v).faultEnt x = s.faultEnt x := rfl
@[simp] theorem State.setConn_frame_other (c : Nat) (v : Conn) (x : Nat) : (s.setConn c v).frame x = s.frame x := rfl
@[simp] theorem State.setPort_ring_other (p : Nat) (v : PeerPort) (x : Nat) : (s.setPort p v).ring x = s.ring x := rfl
@[simp] theorem State.setPort_work_other (p : Nat) (v : PeerPort) (x : Nat) : (s.setPort p v).work x = s.work x := rfl
@[simp] theorem State.setPort_scatter_other (p : Nat) (v : PeerPort) (x : Nat) : (s.setPort p v).scatter x = s.scatter x := rfl
@[simp] theorem State.setPort_engine_other (p : Nat) (v : PeerPort) (x : Nat) : (s.setPort p v).engine x = s.engine x := rfl
@[simp] theorem State.setPort_array_other (p : Nat) (v : PeerPort) (x : Nat) : (s.setPort p v).array x = s.array x := rfl
@[simp] theorem State.setPort_sem_other (p : Nat) (v : PeerPort) (x : Nat) : (s.setPort p v).sem x = s.sem x := rfl
@[simp] theorem State.setPort_agent_other (p : Nat) (v : PeerPort) (x : Nat) : (s.setPort p v).agent x = s.agent x := rfl
@[simp] theorem State.setPort_link_other (p : Nat) (v : PeerPort) (x : Nat) : (s.setPort p v).link x = s.link x := rfl
@[simp] theorem State.setPort_chan_other (p : Nat) (v : PeerPort) (x : Nat) : (s.setPort p v).chan x = s.chan x := rfl
@[simp] theorem State.setPort_hiChan_other (p : Nat) (v : PeerPort) (x : Nat) : (s.setPort p v).hiChan x = s.hiChan x := rfl
@[simp] theorem State.setPort_conn_other (p : Nat) (v : PeerPort) (x : Nat) : (s.setPort p v).conn x = s.conn x := rfl
@[simp] theorem State.setPort_porter_other (p : Nat) (v : PeerPort) (x : Nat) : (s.setPort p v).porter x = s.porter x := rfl
@[simp] theorem State.setPort_fifo_other (p : Nat) (v : PeerPort) (x : Nat) : (s.setPort p v).fifo x = s.fifo x := rfl
@[simp] theorem State.setPort_unit_other (p : Nat) (v : PeerPort) (x : Nat) : (s.setPort p v).unit x = s.unit x := rfl
@[simp] theorem State.setPort_tcEnt_other (p : Nat) (v : PeerPort) (x : Nat) : (s.setPort p v).tcEnt x = s.tcEnt x := rfl
@[simp] theorem State.setPort_faultEnt_other (p : Nat) (v : PeerPort) (x : Nat) : (s.setPort p v).faultEnt x = s.faultEnt x := rfl
@[simp] theorem State.setPort_frame_other (p : Nat) (v : PeerPort) (x : Nat) : (s.setPort p v).frame x = s.frame x := rfl
@[simp] theorem State.setPorter_ring_other (m : Nat) (v : Porter) (x : Nat) : (s.setPorter m v).ring x = s.ring x := rfl
@[simp] theorem State.setPorter_work_other (m : Nat) (v : Porter) (x : Nat) : (s.setPorter m v).work x = s.work x := rfl
@[simp] theorem State.setPorter_scatter_other (m : Nat) (v : Porter) (x : Nat) : (s.setPorter m v).scatter x = s.scatter x := rfl
@[simp] theorem State.setPorter_engine_other (m : Nat) (v : Porter) (x : Nat) : (s.setPorter m v).engine x = s.engine x := rfl
@[simp] theorem State.setPorter_array_other (m : Nat) (v : Porter) (x : Nat) : (s.setPorter m v).array x = s.array x := rfl
@[simp] theorem State.setPorter_sem_other (m : Nat) (v : Porter) (x : Nat) : (s.setPorter m v).sem x = s.sem x := rfl
@[simp] theorem State.setPorter_agent_other (m : Nat) (v : Porter) (x : Nat) : (s.setPorter m v).agent x = s.agent x := rfl
@[simp] theorem State.setPorter_link_other (m : Nat) (v : Porter) (x : Nat) : (s.setPorter m v).link x = s.link x := rfl
@[simp] theorem State.setPorter_chan_other (m : Nat) (v : Porter) (x : Nat) : (s.setPorter m v).chan x = s.chan x := rfl
@[simp] theorem State.setPorter_hiChan_other (m : Nat) (v : Porter) (x : Nat) : (s.setPorter m v).hiChan x = s.hiChan x := rfl
@[simp] theorem State.setPorter_conn_other (m : Nat) (v : Porter) (x : Nat) : (s.setPorter m v).conn x = s.conn x := rfl
@[simp] theorem State.setPorter_port_other (m : Nat) (v : Porter) (x : Nat) : (s.setPorter m v).port x = s.port x := rfl
@[simp] theorem State.setPorter_fifo_other (m : Nat) (v : Porter) (x : Nat) : (s.setPorter m v).fifo x = s.fifo x := rfl
@[simp] theorem State.setPorter_unit_other (m : Nat) (v : Porter) (x : Nat) : (s.setPorter m v).unit x = s.unit x := rfl
@[simp] theorem State.setPorter_tcEnt_other (m : Nat) (v : Porter) (x : Nat) : (s.setPorter m v).tcEnt x = s.tcEnt x := rfl
@[simp] theorem State.setPorter_faultEnt_other (m : Nat) (v : Porter) (x : Nat) : (s.setPorter m v).faultEnt x = s.faultEnt x := rfl
@[simp] theorem State.setPorter_frame_other (m : Nat) (v : Porter) (x : Nat) : (s.setPorter m v).frame x = s.frame x := rfl
@[simp] theorem State.modPorter_ring_other (m : Nat) (f : Porter → Porter) (x : Nat) : (s.modPorter m f).ring x = s.ring x := rfl
@[simp] theorem State.modPorter_work_other (m : Nat) (f : Porter → Porter) (x : Nat) : (s.modPorter m f).work x = s.work x := rfl
@[simp] theorem State.modPorter_scatter_other (m : Nat) (f : Porter → Porter) (x : Nat) : (s.modPorter m f).scatter x = s.scatter x := rfl
@[simp] theorem State.modPorter_engine_other (m : Nat) (f : Porter → Porter) (x : Nat) : (s.modPorter m f).engine x = s.engine x := rfl
@[simp] theorem State.modPorter_array_other (m : Nat) (f : Porter → Porter) (x : Nat) : (s.modPorter m f).array x = s.array x := rfl
@[simp] theorem State.modPorter_sem_other (m : Nat) (f : Porter → Porter) (x : Nat) : (s.modPorter m f).sem x = s.sem x := rfl
@[simp] theorem State.modPorter_agent_other (m : Nat) (f : Porter → Porter) (x : Nat) : (s.modPorter m f).agent x = s.agent x := rfl
@[simp] theorem State.modPorter_link_other (m : Nat) (f : Porter → Porter) (x : Nat) : (s.modPorter m f).link x = s.link x := rfl
@[simp] theorem State.modPorter_chan_other (m : Nat) (f : Porter → Porter) (x : Nat) : (s.modPorter m f).chan x = s.chan x := rfl
@[simp] theorem State.modPorter_hiChan_other (m : Nat) (f : Porter → Porter) (x : Nat) : (s.modPorter m f).hiChan x = s.hiChan x := rfl
@[simp] theorem State.modPorter_conn_other (m : Nat) (f : Porter → Porter) (x : Nat) : (s.modPorter m f).conn x = s.conn x := rfl
@[simp] theorem State.modPorter_port_other (m : Nat) (f : Porter → Porter) (x : Nat) : (s.modPorter m f).port x = s.port x := rfl
@[simp] theorem State.modPorter_fifo_other (m : Nat) (f : Porter → Porter) (x : Nat) : (s.modPorter m f).fifo x = s.fifo x := rfl
@[simp] theorem State.modPorter_unit_other (m : Nat) (f : Porter → Porter) (x : Nat) : (s.modPorter m f).unit x = s.unit x := rfl
@[simp] theorem State.modPorter_tcEnt_other (m : Nat) (f : Porter → Porter) (x : Nat) : (s.modPorter m f).tcEnt x = s.tcEnt x := rfl
@[simp] theorem State.modPorter_faultEnt_other (m : Nat) (f : Porter → Porter) (x : Nat) : (s.modPorter m f).faultEnt x = s.faultEnt x := rfl
@[simp] theorem State.modPorter_frame_other (m : Nat) (f : Porter → Porter) (x : Nat) : (s.modPorter m f).frame x = s.frame x := rfl
@[simp] theorem State.setFifo_ring_other (u : Nat) (v : Fifo) (x : Nat) : (s.setFifo u v).ring x = s.ring x := rfl
@[simp] theorem State.setFifo_work_other (u : Nat) (v : Fifo) (x : Nat) : (s.setFifo u v).work x = s.work x := rfl
@[simp] theorem State.setFifo_scatter_other (u : Nat) (v : Fifo) (x : Nat) : (s.setFifo u v).scatter x = s.scatter x := rfl
@[simp] theorem State.setFifo_engine_other (u : Nat) (v : Fifo) (x : Nat) : (s.setFifo u v).engine x = s.engine x := rfl
@[simp] theorem State.setFifo_array_other (u : Nat) (v : Fifo) (x : Nat) : (s.setFifo u v).array x = s.array x := rfl
@[simp] theorem State.setFifo_sem_other (u : Nat) (v : Fifo) (x : Nat) : (s.setFifo u v).sem x = s.sem x := rfl
@[simp] theorem State.setFifo_agent_other (u : Nat) (v : Fifo) (x : Nat) : (s.setFifo u v).agent x = s.agent x := rfl
@[simp] theorem State.setFifo_link_other (u : Nat) (v : Fifo) (x : Nat) : (s.setFifo u v).link x = s.link x := rfl
@[simp] theorem State.setFifo_chan_other (u : Nat) (v : Fifo) (x : Nat) : (s.setFifo u v).chan x = s.chan x := rfl
@[simp] theorem State.setFifo_hiChan_other (u : Nat) (v : Fifo) (x : Nat) : (s.setFifo u v).hiChan x = s.hiChan x := rfl
@[simp] theorem State.setFifo_conn_other (u : Nat) (v : Fifo) (x : Nat) : (s.setFifo u v).conn x = s.conn x := rfl
@[simp] theorem State.setFifo_port_other (u : Nat) (v : Fifo) (x : Nat) : (s.setFifo u v).port x = s.port x := rfl
@[simp] theorem State.setFifo_porter_other (u : Nat) (v : Fifo) (x : Nat) : (s.setFifo u v).porter x = s.porter x := rfl
@[simp] theorem State.setFifo_unit_other (u : Nat) (v : Fifo) (x : Nat) : (s.setFifo u v).unit x = s.unit x := rfl
@[simp] theorem State.setFifo_tcEnt_other (u : Nat) (v : Fifo) (x : Nat) : (s.setFifo u v).tcEnt x = s.tcEnt x := rfl
@[simp] theorem State.setFifo_faultEnt_other (u : Nat) (v : Fifo) (x : Nat) : (s.setFifo u v).faultEnt x = s.faultEnt x := rfl
@[simp] theorem State.setFifo_frame_other (u : Nat) (v : Fifo) (x : Nat) : (s.setFifo u v).frame x = s.frame x := rfl
@[simp] theorem State.setUnit_ring_other (u : Nat) (v : UnitHealth) (x : Nat) : (s.setUnit u v).ring x = s.ring x := rfl
@[simp] theorem State.setUnit_work_other (u : Nat) (v : UnitHealth) (x : Nat) : (s.setUnit u v).work x = s.work x := rfl
@[simp] theorem State.setUnit_scatter_other (u : Nat) (v : UnitHealth) (x : Nat) : (s.setUnit u v).scatter x = s.scatter x := rfl
@[simp] theorem State.setUnit_engine_other (u : Nat) (v : UnitHealth) (x : Nat) : (s.setUnit u v).engine x = s.engine x := rfl
@[simp] theorem State.setUnit_array_other (u : Nat) (v : UnitHealth) (x : Nat) : (s.setUnit u v).array x = s.array x := rfl
@[simp] theorem State.setUnit_sem_other (u : Nat) (v : UnitHealth) (x : Nat) : (s.setUnit u v).sem x = s.sem x := rfl
@[simp] theorem State.setUnit_agent_other (u : Nat) (v : UnitHealth) (x : Nat) : (s.setUnit u v).agent x = s.agent x := rfl
@[simp] theorem State.setUnit_link_other (u : Nat) (v : UnitHealth) (x : Nat) : (s.setUnit u v).link x = s.link x := rfl
@[simp] theorem State.setUnit_chan_other (u : Nat) (v : UnitHealth) (x : Nat) : (s.setUnit u v).chan x = s.chan x := rfl
@[simp] theorem State.setUnit_hiChan_other (u : Nat) (v : UnitHealth) (x : Nat) : (s.setUnit u v).hiChan x = s.hiChan x := rfl
@[simp] theorem State.setUnit_conn_other (u : Nat) (v : UnitHealth) (x : Nat) : (s.setUnit u v).conn x = s.conn x := rfl
@[simp] theorem State.setUnit_port_other (u : Nat) (v : UnitHealth) (x : Nat) : (s.setUnit u v).port x = s.port x := rfl
@[simp] theorem State.setUnit_porter_other (u : Nat) (v : UnitHealth) (x : Nat) : (s.setUnit u v).porter x = s.porter x := rfl
@[simp] theorem State.setUnit_fifo_other (u : Nat) (v : UnitHealth) (x : Nat) : (s.setUnit u v).fifo x = s.fifo x := rfl
@[simp] theorem State.setUnit_tcEnt_other (u : Nat) (v : UnitHealth) (x : Nat) : (s.setUnit u v).tcEnt x = s.tcEnt x := rfl
@[simp] theorem State.setUnit_faultEnt_other (u : Nat) (v : UnitHealth) (x : Nat) : (s.setUnit u v).faultEnt x = s.faultEnt x := rfl
@[simp] theorem State.setUnit_frame_other (u : Nat) (v : UnitHealth) (x : Nat) : (s.setUnit u v).frame x = s.frame x := rfl
@[simp] theorem State.setTc_ring_other (e : Nat) (v : Option TcEnt) (x : Nat) : (s.setTc e v).ring x = s.ring x := rfl
@[simp] theorem State.setTc_work_other (e : Nat) (v : Option TcEnt) (x : Nat) : (s.setTc e v).work x = s.work x := rfl
@[simp] theorem State.setTc_scatter_other (e : Nat) (v : Option TcEnt) (x : Nat) : (s.setTc e v).scatter x = s.scatter x := rfl
@[simp] theorem State.setTc_engine_other (e : Nat) (v : Option TcEnt) (x : Nat) : (s.setTc e v).engine x = s.engine x := rfl
@[simp] theorem State.setTc_array_other (e : Nat) (v : Option TcEnt) (x : Nat) : (s.setTc e v).array x = s.array x := rfl
@[simp] theorem State.setTc_sem_other (e : Nat) (v : Option TcEnt) (x : Nat) : (s.setTc e v).sem x = s.sem x := rfl
@[simp] theorem State.setTc_agent_other (e : Nat) (v : Option TcEnt) (x : Nat) : (s.setTc e v).agent x = s.agent x := rfl
@[simp] theorem State.setTc_link_other (e : Nat) (v : Option TcEnt) (x : Nat) : (s.setTc e v).link x = s.link x := rfl
@[simp] theorem State.setTc_chan_other (e : Nat) (v : Option TcEnt) (x : Nat) : (s.setTc e v).chan x = s.chan x := rfl
@[simp] theorem State.setTc_hiChan_other (e : Nat) (v : Option TcEnt) (x : Nat) : (s.setTc e v).hiChan x = s.hiChan x := rfl
@[simp] theorem State.setTc_conn_other (e : Nat) (v : Option TcEnt) (x : Nat) : (s.setTc e v).conn x = s.conn x := rfl
@[simp] theorem State.setTc_port_other (e : Nat) (v : Option TcEnt) (x : Nat) : (s.setTc e v).port x = s.port x := rfl
@[simp] theorem State.setTc_porter_other (e : Nat) (v : Option TcEnt) (x : Nat) : (s.setTc e v).porter x = s.porter x := rfl
@[simp] theorem State.setTc_fifo_other (e : Nat) (v : Option TcEnt) (x : Nat) : (s.setTc e v).fifo x = s.fifo x := rfl
@[simp] theorem State.setTc_unit_other (e : Nat) (v : Option TcEnt) (x : Nat) : (s.setTc e v).unit x = s.unit x := rfl
@[simp] theorem State.setTc_faultEnt_other (e : Nat) (v : Option TcEnt) (x : Nat) : (s.setTc e v).faultEnt x = s.faultEnt x := rfl
@[simp] theorem State.setTc_frame_other (e : Nat) (v : Option TcEnt) (x : Nat) : (s.setTc e v).frame x = s.frame x := rfl
@[simp] theorem State.setFault_ring_other (e : Nat) (v : Option FaultEnt) (x : Nat) : (s.setFault e v).ring x = s.ring x := rfl
@[simp] theorem State.setFault_work_other (e : Nat) (v : Option FaultEnt) (x : Nat) : (s.setFault e v).work x = s.work x := rfl
@[simp] theorem State.setFault_scatter_other (e : Nat) (v : Option FaultEnt) (x : Nat) : (s.setFault e v).scatter x = s.scatter x := rfl
@[simp] theorem State.setFault_engine_other (e : Nat) (v : Option FaultEnt) (x : Nat) : (s.setFault e v).engine x = s.engine x := rfl
@[simp] theorem State.setFault_array_other (e : Nat) (v : Option FaultEnt) (x : Nat) : (s.setFault e v).array x = s.array x := rfl
@[simp] theorem State.setFault_sem_other (e : Nat) (v : Option FaultEnt) (x : Nat) : (s.setFault e v).sem x = s.sem x := rfl
@[simp] theorem State.setFault_agent_other (e : Nat) (v : Option FaultEnt) (x : Nat) : (s.setFault e v).agent x = s.agent x := rfl
@[simp] theorem State.setFault_link_other (e : Nat) (v : Option FaultEnt) (x : Nat) : (s.setFault e v).link x = s.link x := rfl
@[simp] theorem State.setFault_chan_other (e : Nat) (v : Option FaultEnt) (x : Nat) : (s.setFault e v).chan x = s.chan x := rfl
@[simp] theorem State.setFault_hiChan_other (e : Nat) (v : Option FaultEnt) (x : Nat) : (s.setFault e v).hiChan x = s.hiChan x := rfl
@[simp] theorem State.setFault_conn_other (e : Nat) (v : Option FaultEnt) (x : Nat) : (s.setFault e v).conn x = s.conn x := rfl
@[simp] theorem State.setFault_port_other (e : Nat) (v : Option FaultEnt) (x : Nat) : (s.setFault e v).port x = s.port x := rfl
@[simp] theorem State.setFault_porter_other (e : Nat) (v : Option FaultEnt) (x : Nat) : (s.setFault e v).porter x = s.porter x := rfl
@[simp] theorem State.setFault_fifo_other (e : Nat) (v : Option FaultEnt) (x : Nat) : (s.setFault e v).fifo x = s.fifo x := rfl
@[simp] theorem State.setFault_unit_other (e : Nat) (v : Option FaultEnt) (x : Nat) : (s.setFault e v).unit x = s.unit x := rfl
@[simp] theorem State.setFault_tcEnt_other (e : Nat) (v : Option FaultEnt) (x : Nat) : (s.setFault e v).tcEnt x = s.tcEnt x := rfl
@[simp] theorem State.setFault_frame_other (e : Nat) (v : Option FaultEnt) (x : Nat) : (s.setFault e v).frame x = s.frame x := rfl
@[simp] theorem State.setFrame_ring_other (n : Nat) (v : FrameSt) (x : Nat) : (s.setFrame n v).ring x = s.ring x := rfl
@[simp] theorem State.setFrame_work_other (n : Nat) (v : FrameSt) (x : Nat) : (s.setFrame n v).work x = s.work x := rfl
@[simp] theorem State.setFrame_scatter_other (n : Nat) (v : FrameSt) (x : Nat) : (s.setFrame n v).scatter x = s.scatter x := rfl
@[simp] theorem State.setFrame_engine_other (n : Nat) (v : FrameSt) (x : Nat) : (s.setFrame n v).engine x = s.engine x := rfl
@[simp] theorem State.setFrame_array_other (n : Nat) (v : FrameSt) (x : Nat) : (s.setFrame n v).array x = s.array x := rfl
@[simp] theorem State.setFrame_sem_other (n : Nat) (v : FrameSt) (x : Nat) : (s.setFrame n v).sem x = s.sem x := rfl
@[simp] theorem State.setFrame_agent_other (n : Nat) (v : FrameSt) (x : Nat) : (s.setFrame n v).agent x = s.agent x := rfl
@[simp] theorem State.setFrame_link_other (n : Nat) (v : FrameSt) (x : Nat) : (s.setFrame n v).link x = s.link x := rfl
@[simp] theorem State.setFrame_chan_other (n : Nat) (v : FrameSt) (x : Nat) : (s.setFrame n v).chan x = s.chan x := rfl
@[simp] theorem State.setFrame_hiChan_other (n : Nat) (v : FrameSt) (x : Nat) : (s.setFrame n v).hiChan x = s.hiChan x := rfl
@[simp] theorem State.setFrame_conn_other (n : Nat) (v : FrameSt) (x : Nat) : (s.setFrame n v).conn x = s.conn x := rfl
@[simp] theorem State.setFrame_port_other (n : Nat) (v : FrameSt) (x : Nat) : (s.setFrame n v).port x = s.port x := rfl
@[simp] theorem State.setFrame_porter_other (n : Nat) (v : FrameSt) (x : Nat) : (s.setFrame n v).porter x = s.porter x := rfl
@[simp] theorem State.setFrame_fifo_other (n : Nat) (v : FrameSt) (x : Nat) : (s.setFrame n v).fifo x = s.fifo x := rfl
@[simp] theorem State.setFrame_unit_other (n : Nat) (v : FrameSt) (x : Nat) : (s.setFrame n v).unit x = s.unit x := rfl
@[simp] theorem State.setFrame_tcEnt_other (n : Nat) (v : FrameSt) (x : Nat) : (s.setFrame n v).tcEnt x = s.tcEnt x := rfl
@[simp] theorem State.setFrame_faultEnt_other (n : Nat) (v : FrameSt) (x : Nat) : (s.setFrame n v).faultEnt x = s.faultEnt x := rfl
@[simp] theorem State.modSk_ring_other (f : Keeper → Keeper) (x : Nat) : (s.modSk f).ring x = s.ring x := rfl
@[simp] theorem State.modSk_work_other (f : Keeper → Keeper) (x : Nat) : (s.modSk f).work x = s.work x := rfl
@[simp] theorem State.modSk_scatter_other (f : Keeper → Keeper) (x : Nat) : (s.modSk f).scatter x = s.scatter x := rfl
@[simp] theorem State.modSk_engine_other (f : Keeper → Keeper) (x : Nat) : (s.modSk f).engine x = s.engine x := rfl
@[simp] theorem State.modSk_array_other (f : Keeper → Keeper) (x : Nat) : (s.modSk f).array x = s.array x := rfl
@[simp] theorem State.modSk_sem_other (f : Keeper → Keeper) (x : Nat) : (s.modSk f).sem x = s.sem x := rfl
@[simp] theorem State.modSk_agent_other (f : Keeper → Keeper) (x : Nat) : (s.modSk f).agent x = s.agent x := rfl
@[simp] theorem State.modSk_link_other (f : Keeper → Keeper) (x : Nat) : (s.modSk f).link x = s.link x := rfl
@[simp] theorem State.modSk_chan_other (f : Keeper → Keeper) (x : Nat) : (s.modSk f).chan x = s.chan x := rfl
@[simp] theorem State.modSk_hiChan_other (f : Keeper → Keeper) (x : Nat) : (s.modSk f).hiChan x = s.hiChan x := rfl
@[simp] theorem State.modSk_conn_other (f : Keeper → Keeper) (x : Nat) : (s.modSk f).conn x = s.conn x := rfl
@[simp] theorem State.modSk_port_other (f : Keeper → Keeper) (x : Nat) : (s.modSk f).port x = s.port x := rfl
@[simp] theorem State.modSk_porter_other (f : Keeper → Keeper) (x : Nat) : (s.modSk f).porter x = s.porter x := rfl
@[simp] theorem State.modSk_fifo_other (f : Keeper → Keeper) (x : Nat) : (s.modSk f).fifo x = s.fifo x := rfl
@[simp] theorem State.modSk_unit_other (f : Keeper → Keeper) (x : Nat) : (s.modSk f).unit x = s.unit x := rfl
@[simp] theorem State.modSk_tcEnt_other (f : Keeper → Keeper) (x : Nat) : (s.modSk f).tcEnt x = s.tcEnt x := rfl
@[simp] theorem State.modSk_faultEnt_other (f : Keeper → Keeper) (x : Nat) : (s.modSk f).faultEnt x = s.faultEnt x := rfl
@[simp] theorem State.modSk_frame_other (f : Keeper → Keeper) (x : Nat) : (s.modSk f).frame x = s.frame x := rfl
@[simp] theorem State.modSlots_ring_other (f : Slots → Slots) (x : Nat) : (s.modSlots f).ring x = s.ring x := rfl
@[simp] theorem State.modSlots_work_other (f : Slots → Slots) (x : Nat) : (s.modSlots f).work x = s.work x := rfl
@[simp] theorem State.modSlots_scatter_other (f : Slots → Slots) (x : Nat) : (s.modSlots f).scatter x = s.scatter x := rfl
@[simp] theorem State.modSlots_engine_other (f : Slots → Slots) (x : Nat) : (s.modSlots f).engine x = s.engine x := rfl
@[simp] theorem State.modSlots_array_other (f : Slots → Slots) (x : Nat) : (s.modSlots f).array x = s.array x := rfl
@[simp] theorem State.modSlots_sem_other (f : Slots → Slots) (x : Nat) : (s.modSlots f).sem x = s.sem x := rfl
@[simp] theorem State.modSlots_agent_other (f : Slots → Slots) (x : Nat) : (s.modSlots f).agent x = s.agent x := rfl
@[simp] theorem State.modSlots_link_other (f : Slots → Slots) (x : Nat) : (s.modSlots f).link x = s.link x := rfl
@[simp] theorem State.modSlots_chan_other (f : Slots → Slots) (x : Nat) : (s.modSlots f).chan x = s.chan x := rfl
@[simp] theorem State.modSlots_hiChan_other (f : Slots → Slots) (x : Nat) : (s.modSlots f).hiChan x = s.hiChan x := rfl
@[simp] theorem State.modSlots_conn_other (f : Slots → Slots) (x : Nat) : (s.modSlots f).conn x = s.conn x := rfl
@[simp] theorem State.modSlots_port_other (f : Slots → Slots) (x : Nat) : (s.modSlots f).port x = s.port x := rfl
@[simp] theorem State.modSlots_porter_other (f : Slots → Slots) (x : Nat) : (s.modSlots f).porter x = s.porter x := rfl
@[simp] theorem State.modSlots_fifo_other (f : Slots → Slots) (x : Nat) : (s.modSlots f).fifo x = s.fifo x := rfl
@[simp] theorem State.modSlots_unit_other (f : Slots → Slots) (x : Nat) : (s.modSlots f).unit x = s.unit x := rfl
@[simp] theorem State.modSlots_tcEnt_other (f : Slots → Slots) (x : Nat) : (s.modSlots f).tcEnt x = s.tcEnt x := rfl
@[simp] theorem State.modSlots_faultEnt_other (f : Slots → Slots) (x : Nat) : (s.modSlots f).faultEnt x = s.faultEnt x := rfl
@[simp] theorem State.modSlots_frame_other (f : Slots → Slots) (x : Nat) : (s.modSlots f).frame x = s.frame x := rfl
@[simp] theorem State.raise_ring_other (off bits : Nat) (x : Nat) : (s.raise off bits).ring x = s.ring x := rfl
@[simp] theorem State.raise_work_other (off bits : Nat) (x : Nat) : (s.raise off bits).work x = s.work x := rfl
@[simp] theorem State.raise_scatter_other (off bits : Nat) (x : Nat) : (s.raise off bits).scatter x = s.scatter x := rfl
@[simp] theorem State.raise_engine_other (off bits : Nat) (x : Nat) : (s.raise off bits).engine x = s.engine x := rfl
@[simp] theorem State.raise_array_other (off bits : Nat) (x : Nat) : (s.raise off bits).array x = s.array x := rfl
@[simp] theorem State.raise_sem_other (off bits : Nat) (x : Nat) : (s.raise off bits).sem x = s.sem x := rfl
@[simp] theorem State.raise_agent_other (off bits : Nat) (x : Nat) : (s.raise off bits).agent x = s.agent x := rfl
@[simp] theorem State.raise_link_other (off bits : Nat) (x : Nat) : (s.raise off bits).link x = s.link x := rfl
@[simp] theorem State.raise_chan_other (off bits : Nat) (x : Nat) : (s.raise off bits).chan x = s.chan x := rfl
@[simp] theorem State.raise_hiChan_other (off bits : Nat) (x : Nat) : (s.raise off bits).hiChan x = s.hiChan x := rfl
@[simp] theorem State.raise_conn_other (off bits : Nat) (x : Nat) : (s.raise off bits).conn x = s.conn x := rfl
@[simp] theorem State.raise_port_other (off bits : Nat) (x : Nat) : (s.raise off bits).port x = s.port x := rfl
@[simp] theorem State.raise_porter_other (off bits : Nat) (x : Nat) : (s.raise off bits).porter x = s.porter x := rfl
@[simp] theorem State.raise_fifo_other (off bits : Nat) (x : Nat) : (s.raise off bits).fifo x = s.fifo x := rfl
@[simp] theorem State.raise_unit_other (off bits : Nat) (x : Nat) : (s.raise off bits).unit x = s.unit x := rfl
@[simp] theorem State.raise_tcEnt_other (off bits : Nat) (x : Nat) : (s.raise off bits).tcEnt x = s.tcEnt x := rfl
@[simp] theorem State.raise_faultEnt_other (off bits : Nat) (x : Nat) : (s.raise off bits).faultEnt x = s.faultEnt x := rfl
@[simp] theorem State.raise_frame_other (off bits : Nat) (x : Nat) : (s.raise off bits).frame x = s.frame x := rfl
@[simp] theorem State.lower_ring_other (off bits : Nat) (x : Nat) : (s.lower off bits).ring x = s.ring x := rfl
@[simp] theorem State.lower_work_other (off bits : Nat) (x : Nat) : (s.lower off bits).work x = s.work x := rfl
@[simp] theorem State.lower_scatter_other (off bits : Nat) (x : Nat) : (s.lower off bits).scatter x = s.scatter x := rfl
@[simp] theorem State.lower_engine_other (off bits : Nat) (x : Nat) : (s.lower off bits).engine x = s.engine x := rfl
@[simp] theorem State.lower_array_other (off bits : Nat) (x : Nat) : (s.lower off bits).array x = s.array x := rfl
@[simp] theorem State.lower_sem_other (off bits : Nat) (x : Nat) : (s.lower off bits).sem x = s.sem x := rfl
@[simp] theorem State.lower_agent_other (off bits : Nat) (x : Nat) : (s.lower off bits).agent x = s.agent x := rfl
@[simp] theorem State.lower_link_other (off bits : Nat) (x : Nat) : (s.lower off bits).link x = s.link x := rfl
@[simp] theorem State.lower_chan_other (off bits : Nat) (x : Nat) : (s.lower off bits).chan x = s.chan x := rfl
@[simp] theorem State.lower_hiChan_other (off bits : Nat) (x : Nat) : (s.lower off bits).hiChan x = s.hiChan x := rfl
@[simp] theorem State.lower_conn_other (off bits : Nat) (x : Nat) : (s.lower off bits).conn x = s.conn x := rfl
@[simp] theorem State.lower_port_other (off bits : Nat) (x : Nat) : (s.lower off bits).port x = s.port x := rfl
@[simp] theorem State.lower_porter_other (off bits : Nat) (x : Nat) : (s.lower off bits).porter x = s.porter x := rfl
@[simp] theorem State.lower_fifo_other (off bits : Nat) (x : Nat) : (s.lower off bits).fifo x = s.fifo x := rfl
@[simp] theorem State.lower_unit_other (off bits : Nat) (x : Nat) : (s.lower off bits).unit x = s.unit x := rfl
@[simp] theorem State.lower_tcEnt_other (off bits : Nat) (x : Nat) : (s.lower off bits).tcEnt x = s.tcEnt x := rfl
@[simp] theorem State.lower_faultEnt_other (off bits : Nat) (x : Nat) : (s.lower off bits).faultEnt x = s.faultEnt x := rfl
@[simp] theorem State.lower_frame_other (off bits : Nat) (x : Nat) : (s.lower off bits).frame x = s.frame x := rfl
@[simp] theorem State.countN_ring_other (i n : Nat) (x : Nat) : (s.countN i n).ring x = s.ring x := rfl
@[simp] theorem State.countN_work_other (i n : Nat) (x : Nat) : (s.countN i n).work x = s.work x := rfl
@[simp] theorem State.countN_scatter_other (i n : Nat) (x : Nat) : (s.countN i n).scatter x = s.scatter x := rfl
@[simp] theorem State.countN_engine_other (i n : Nat) (x : Nat) : (s.countN i n).engine x = s.engine x := rfl
@[simp] theorem State.countN_array_other (i n : Nat) (x : Nat) : (s.countN i n).array x = s.array x := rfl
@[simp] theorem State.countN_sem_other (i n : Nat) (x : Nat) : (s.countN i n).sem x = s.sem x := rfl
@[simp] theorem State.countN_agent_other (i n : Nat) (x : Nat) : (s.countN i n).agent x = s.agent x := rfl
@[simp] theorem State.countN_link_other (i n : Nat) (x : Nat) : (s.countN i n).link x = s.link x := rfl
@[simp] theorem State.countN_chan_other (i n : Nat) (x : Nat) : (s.countN i n).chan x = s.chan x := rfl
@[simp] theorem State.countN_hiChan_other (i n : Nat) (x : Nat) : (s.countN i n).hiChan x = s.hiChan x := rfl
@[simp] theorem State.countN_conn_other (i n : Nat) (x : Nat) : (s.countN i n).conn x = s.conn x := rfl
@[simp] theorem State.countN_port_other (i n : Nat) (x : Nat) : (s.countN i n).port x = s.port x := rfl
@[simp] theorem State.countN_porter_other (i n : Nat) (x : Nat) : (s.countN i n).porter x = s.porter x := rfl
@[simp] theorem State.countN_fifo_other (i n : Nat) (x : Nat) : (s.countN i n).fifo x = s.fifo x := rfl
@[simp] theorem State.countN_unit_other (i n : Nat) (x : Nat) : (s.countN i n).unit x = s.unit x := rfl
@[simp] theorem State.countN_tcEnt_other (i n : Nat) (x : Nat) : (s.countN i n).tcEnt x = s.tcEnt x := rfl
@[simp] theorem State.countN_faultEnt_other (i n : Nat) (x : Nat) : (s.countN i n).faultEnt x = s.faultEnt x := rfl
@[simp] theorem State.countN_frame_other (i n : Nat) (x : Nat) : (s.countN i n).frame x = s.frame x := rfl
@[simp] theorem State.count_ring_other (i : Nat) (x : Nat) : (s.count i).ring x = s.ring x := rfl
@[simp] theorem State.count_work_other (i : Nat) (x : Nat) : (s.count i).work x = s.work x := rfl
@[simp] theorem State.count_scatter_other (i : Nat) (x : Nat) : (s.count i).scatter x = s.scatter x := rfl
@[simp] theorem State.count_engine_other (i : Nat) (x : Nat) : (s.count i).engine x = s.engine x := rfl
@[simp] theorem State.count_array_other (i : Nat) (x : Nat) : (s.count i).array x = s.array x := rfl
@[simp] theorem State.count_sem_other (i : Nat) (x : Nat) : (s.count i).sem x = s.sem x := rfl
@[simp] theorem State.count_agent_other (i : Nat) (x : Nat) : (s.count i).agent x = s.agent x := rfl
@[simp] theorem State.count_link_other (i : Nat) (x : Nat) : (s.count i).link x = s.link x := rfl
@[simp] theorem State.count_chan_other (i : Nat) (x : Nat) : (s.count i).chan x = s.chan x := rfl
@[simp] theorem State.count_hiChan_other (i : Nat) (x : Nat) : (s.count i).hiChan x = s.hiChan x := rfl
@[simp] theorem State.count_conn_other (i : Nat) (x : Nat) : (s.count i).conn x = s.conn x := rfl
@[simp] theorem State.count_port_other (i : Nat) (x : Nat) : (s.count i).port x = s.port x := rfl
@[simp] theorem State.count_porter_other (i : Nat) (x : Nat) : (s.count i).porter x = s.porter x := rfl
@[simp] theorem State.count_fifo_other (i : Nat) (x : Nat) : (s.count i).fifo x = s.fifo x := rfl
@[simp] theorem State.count_unit_other (i : Nat) (x : Nat) : (s.count i).unit x = s.unit x := rfl
@[simp] theorem State.count_tcEnt_other (i : Nat) (x : Nat) : (s.count i).tcEnt x = s.tcEnt x := rfl
@[simp] theorem State.count_faultEnt_other (i : Nat) (x : Nat) : (s.count i).faultEnt x = s.faultEnt x := rfl
@[simp] theorem State.count_frame_other (i : Nat) (x : Nat) : (s.count i).frame x = s.frame x := rfl
@[simp] theorem State.setReg_ring_other (off v : Nat) (x : Nat) : (s.setReg off v).ring x = s.ring x := rfl
@[simp] theorem State.setReg_work_other (off v : Nat) (x : Nat) : (s.setReg off v).work x = s.work x := rfl
@[simp] theorem State.setReg_scatter_other (off v : Nat) (x : Nat) : (s.setReg off v).scatter x = s.scatter x := rfl
@[simp] theorem State.setReg_engine_other (off v : Nat) (x : Nat) : (s.setReg off v).engine x = s.engine x := rfl
@[simp] theorem State.setReg_array_other (off v : Nat) (x : Nat) : (s.setReg off v).array x = s.array x := rfl
@[simp] theorem State.setReg_sem_other (off v : Nat) (x : Nat) : (s.setReg off v).sem x = s.sem x := rfl
@[simp] theorem State.setReg_agent_other (off v : Nat) (x : Nat) : (s.setReg off v).agent x = s.agent x := rfl
@[simp] theorem State.setReg_link_other (off v : Nat) (x : Nat) : (s.setReg off v).link x = s.link x := rfl
@[simp] theorem State.setReg_chan_other (off v : Nat) (x : Nat) : (s.setReg off v).chan x = s.chan x := rfl
@[simp] theorem State.setReg_hiChan_other (off v : Nat) (x : Nat) : (s.setReg off v).hiChan x = s.hiChan x := rfl
@[simp] theorem State.setReg_conn_other (off v : Nat) (x : Nat) : (s.setReg off v).conn x = s.conn x := rfl
@[simp] theorem State.setReg_port_other (off v : Nat) (x : Nat) : (s.setReg off v).port x = s.port x := rfl
@[simp] theorem State.setReg_porter_other (off v : Nat) (x : Nat) : (s.setReg off v).porter x = s.porter x := rfl
@[simp] theorem State.setReg_fifo_other (off v : Nat) (x : Nat) : (s.setReg off v).fifo x = s.fifo x := rfl
@[simp] theorem State.setReg_unit_other (off v : Nat) (x : Nat) : (s.setReg off v).unit x = s.unit x := rfl
@[simp] theorem State.setReg_tcEnt_other (off v : Nat) (x : Nat) : (s.setReg off v).tcEnt x = s.tcEnt x := rfl
@[simp] theorem State.setReg_faultEnt_other (off v : Nat) (x : Nat) : (s.setReg off v).faultEnt x = s.faultEnt x := rfl
@[simp] theorem State.setReg_frame_other (off v : Nat) (x : Nat) : (s.setReg off v).frame x = s.frame x := rfl
@[simp] theorem State.storeByte_ring_other (a : Nat) (b : Byte) (x : Nat) : (s.storeByte a b).ring x = s.ring x := rfl
@[simp] theorem State.storeByte_work_other (a : Nat) (b : Byte) (x : Nat) : (s.storeByte a b).work x = s.work x := rfl
@[simp] theorem State.storeByte_scatter_other (a : Nat) (b : Byte) (x : Nat) : (s.storeByte a b).scatter x = s.scatter x := rfl
@[simp] theorem State.storeByte_engine_other (a : Nat) (b : Byte) (x : Nat) : (s.storeByte a b).engine x = s.engine x := rfl
@[simp] theorem State.storeByte_array_other (a : Nat) (b : Byte) (x : Nat) : (s.storeByte a b).array x = s.array x := rfl
@[simp] theorem State.storeByte_sem_other (a : Nat) (b : Byte) (x : Nat) : (s.storeByte a b).sem x = s.sem x := rfl
@[simp] theorem State.storeByte_agent_other (a : Nat) (b : Byte) (x : Nat) : (s.storeByte a b).agent x = s.agent x := rfl
@[simp] theorem State.storeByte_link_other (a : Nat) (b : Byte) (x : Nat) : (s.storeByte a b).link x = s.link x := rfl
@[simp] theorem State.storeByte_chan_other (a : Nat) (b : Byte) (x : Nat) : (s.storeByte a b).chan x = s.chan x := rfl
@[simp] theorem State.storeByte_hiChan_other (a : Nat) (b : Byte) (x : Nat) : (s.storeByte a b).hiChan x = s.hiChan x := rfl
@[simp] theorem State.storeByte_conn_other (a : Nat) (b : Byte) (x : Nat) : (s.storeByte a b).conn x = s.conn x := rfl
@[simp] theorem State.storeByte_port_other (a : Nat) (b : Byte) (x : Nat) : (s.storeByte a b).port x = s.port x := rfl
@[simp] theorem State.storeByte_porter_other (a : Nat) (b : Byte) (x : Nat) : (s.storeByte a b).porter x = s.porter x := rfl
@[simp] theorem State.storeByte_fifo_other (a : Nat) (b : Byte) (x : Nat) : (s.storeByte a b).fifo x = s.fifo x := rfl
@[simp] theorem State.storeByte_unit_other (a : Nat) (b : Byte) (x : Nat) : (s.storeByte a b).unit x = s.unit x := rfl
@[simp] theorem State.storeByte_tcEnt_other (a : Nat) (b : Byte) (x : Nat) : (s.storeByte a b).tcEnt x = s.tcEnt x := rfl
@[simp] theorem State.storeByte_faultEnt_other (a : Nat) (b : Byte) (x : Nat) : (s.storeByte a b).faultEnt x = s.faultEnt x := rfl
@[simp] theorem State.storeByte_frame_other (a : Nat) (b : Byte) (x : Nat) : (s.storeByte a b).frame x = s.frame x := rfl
@[simp] theorem State.modSnap_ring_other (f : Snap → Snap) (x : Nat) : (s.modSnap f).ring x = s.ring x := rfl
@[simp] theorem State.modSnap_work_other (f : Snap → Snap) (x : Nat) : (s.modSnap f).work x = s.work x := rfl
@[simp] theorem State.modSnap_scatter_other (f : Snap → Snap) (x : Nat) : (s.modSnap f).scatter x = s.scatter x := rfl
@[simp] theorem State.modSnap_engine_other (f : Snap → Snap) (x : Nat) : (s.modSnap f).engine x = s.engine x := rfl
@[simp] theorem State.modSnap_array_other (f : Snap → Snap) (x : Nat) : (s.modSnap f).array x = s.array x := rfl
@[simp] theorem State.modSnap_sem_other (f : Snap → Snap) (x : Nat) : (s.modSnap f).sem x = s.sem x := rfl
@[simp] theorem State.modSnap_agent_other (f : Snap → Snap) (x : Nat) : (s.modSnap f).agent x = s.agent x := rfl
@[simp] theorem State.modSnap_link_other (f : Snap → Snap) (x : Nat) : (s.modSnap f).link x = s.link x := rfl
@[simp] theorem State.modSnap_chan_other (f : Snap → Snap) (x : Nat) : (s.modSnap f).chan x = s.chan x := rfl
@[simp] theorem State.modSnap_hiChan_other (f : Snap → Snap) (x : Nat) : (s.modSnap f).hiChan x = s.hiChan x := rfl
@[simp] theorem State.modSnap_conn_other (f : Snap → Snap) (x : Nat) : (s.modSnap f).conn x = s.conn x := rfl
@[simp] theorem State.modSnap_port_other (f : Snap → Snap) (x : Nat) : (s.modSnap f).port x = s.port x := rfl
@[simp] theorem State.modSnap_porter_other (f : Snap → Snap) (x : Nat) : (s.modSnap f).porter x = s.porter x := rfl
@[simp] theorem State.modSnap_fifo_other (f : Snap → Snap) (x : Nat) : (s.modSnap f).fifo x = s.fifo x := rfl
@[simp] theorem State.modSnap_unit_other (f : Snap → Snap) (x : Nat) : (s.modSnap f).unit x = s.unit x := rfl
@[simp] theorem State.modSnap_tcEnt_other (f : Snap → Snap) (x : Nat) : (s.modSnap f).tcEnt x = s.tcEnt x := rfl
@[simp] theorem State.modSnap_faultEnt_other (f : Snap → Snap) (x : Nat) : (s.modSnap f).faultEnt x = s.faultEnt x := rfl
@[simp] theorem State.modSnap_frame_other (f : Snap → Snap) (x : Nat) : (s.modSnap f).frame x = s.frame x := rfl

/-! ### Registers and notices -/

@[simp] theorem State.setReg_reg (off v x : Nat) (hv : v < 2 ^ 64) (hr : regReset off < 2 ^ 64) :
    (s.setReg off v).reg x = if x = off then v else s.reg x := by
  unfold State.reg State.setReg
  simp only [Tab.get_set]
  split
  · subst_vars
    have : v ^^^ regReset x < 2 ^ 64 := Nat.xor_lt_two_pow hv hr
    rw [BitVec.toNat_ofNat, Nat.mod_eq_of_lt this, Nat.xor_assoc, Nat.xor_self, Nat.xor_zero]
  · rfl

theorem State.raise_noticeBits (off bits x : Nat) (hb : bits < 2 ^ 64) :
    (s.raise off bits).noticeBits x = if x = off then s.noticeBits off ||| bits else s.noticeBits x := by
  unfold State.raise State.noticeBits
  simp only [Tab.get_set]
  split
  · subst_vars
    have : (s.notices.get 0#64 x).toNat ||| bits < 2 ^ 64 := Nat.or_lt_two_pow (BitVec.isLt _) hb
    rw [BitVec.toNat_ofNat, Nat.mod_eq_of_lt this]
  · rfl

/-- Memory read through the remap after a byte was written: the bytes that share its place read it. -/
theorem State.byte_storeByte (a x : Nat) (b : Byte) :
    Memory.byte (s.storeByte a b).mem x = if x = s.phys a then b else Memory.byte s.mem x :=
  Memory.byte_put s.mem (s.phys a) x b

end Sys2Proof.Machine
end

