-- ==== Sys2Proof/Laws/Target.lean ====
section
/-! SUPPORT. What a target write does: it takes effect, waits behind the full overflow queue, or is not presented
(R108, R270). -/

namespace Sys2Proof.Machine

open Sys2Proof

variable {s : State} {c : Instr}

/-- A write that is presented with room takes effect at once. -/
theorem State.atTarget_takes (h : s.takesWrites (targetBeats c) = true) : s.atTarget c = .next (s.runTarget c) := by
  simp only [State.takesWrites, Bool.and_eq_true, decide_eq_true_eq, Bool.not_eq_true', beq_iff_eq] at h
  simp [State.atTarget, h.1.1.1, h.1.2, h.2, Nat.not_lt.2 h.1.1.2]

/-- A write that is presented while the overflow queue is full, or behind writes that wait, waits too, and its credits
are withheld. -/
theorem State.atTarget_waits (on : s.targetOn = true) (cr : targetBeats c ≤ s.pwr.wcred)
    (f : s.targetFull = true ∨ s.host.waiting ≠ []) :
    s.atTarget c = .next { s with
      pwr := { s.pwr with wcred := s.pwr.wcred - targetBeats c }
      host := { s.host with waiting := s.host.waiting ++ [c] } } := by
  simp [State.atTarget, on, f, Nat.not_lt.2 cr]

/-- A write has no effect while the target is off, and is not presented without its credits. -/
theorem State.atTarget_absent (h : s.targetOn = false ∨ s.pwr.wcred < targetBeats c) : s.atTarget c = .next s := by
  rcases h with h | h <;> simp [State.atTarget, h]

/-- A write that takes no effect while it is not held leaves the state. -/
theorem State.atTarget_same (f : s.targetFull = false) (w : s.host.waiting = []) (h : s.runTarget c = s) :
    s.atTarget c = .next s := by
  simp [State.atTarget, f, w, h]

end Sys2Proof.Machine
end

