-- ==== Sys2Proof/Laws/Tiles.lean ====
section
/-! SUPPORT. Faults of tiles, the self-test and resets keep the invariant: no two tiles hold one position
      (R15, R409). -/

namespace Sys2Proof.Machine

open Sys2Proof

variable {F : Part → Bool} {I : Prop} {o : State} {T : List TileSt} {s : State}

/-- What State.Keeps says, with the tiles sound under I. -/
def State.Kept (s : State) (F : Part → Bool) (I : Prop) (o : State) : Prop := ∃ T, (I → tilesOk T) ∧ s.Keeps F I o T

theorem pos_active (p : Nat) (ts : List TileSt) :
    (TileSt.active p :: ts).filterMap TileSt.position = p :: ts.filterMap TileSt.position := rfl
theorem pos_spare (ts : List TileSt) :
    (TileSt.spare :: ts).filterMap TileSt.position = ts.filterMap TileSt.position := rfl
theorem pos_isolated (ts : List TileSt) :
    (TileSt.isolated :: ts).filterMap TileSt.position = ts.filterMap TileSt.position := rfl

theorem holds_set {ts : List TileSt} {n : Nat} {t : TileSt} {p : Nat} (h : p ∈
    (ts.set n t).filterMap TileSt.position) :
    p ∈ ts.filterMap TileSt.position ∨ t = .active p := by
  simp only [List.mem_filterMap] at h ⊢
  obtain ⟨a, ha, hp⟩ := h
  rcases List.mem_or_eq_of_mem_set ha with h1 | rfl
  · exact .inl ⟨a, h1, hp⟩
  · right
    cases a <;> simp_all [TileSt.position]

theorem nodup_set {ts : List TileSt} {n : Nat} {t : TileSt} (h : (ts.filterMap TileSt.position).Nodup)
    (ht : ∀ p, t = .active p → p ∉ ts.filterMap TileSt.position) :
        ((ts.set n t).filterMap TileSt.position).Nodup := by
  induction ts generalizing n with
  | nil => simp
  | cons a ts ih =>
    cases n with
    | zero =>
      simp only [List.set_cons_zero]
      have h1 : (ts.filterMap TileSt.position).Nodup := by
        cases a <;> simp_all [pos_active, pos_spare, pos_isolated]
      cases t with
      | active p =>
        have := ht p rfl
        have h2 : p ∉ ts.filterMap TileSt.position := fun hm => this (by
          simp only [List.mem_filterMap, List.mem_cons] at hm ⊢
          obtain ⟨x, hx, hp⟩ := hm
          exact ⟨x, .inr hx, hp⟩)
        simp only [pos_active]
        exact List.nodup_cons.2 ⟨h2, h1⟩
      | spare => simpa [pos_spare, pos_isolated] using h1
      | isolated => simpa [pos_spare, pos_isolated] using h1
    | succ n =>
      simp only [List.set_cons_succ]
      have ht' : ∀ p, t = .active p → p ∉ ts.filterMap TileSt.position := fun p e hm => ht p e (by
        simp only [List.mem_filterMap, List.mem_cons] at hm ⊢
        obtain ⟨x, hx, hp⟩ := hm
        exact ⟨x, .inr hx, hp⟩)
      cases a with
      | active k =>
        simp only [pos_active, List.nodup_cons] at h ⊢
        refine ⟨fun hm => ?_, ih h.2 ht'⟩
        rcases holds_set hm with h1 | rfl
        · exact h.1 h1
        · exact ht k rfl (by simp [pos_active])
      | spare => simpa [pos_spare, pos_isolated] using ih (by simpa [pos_spare, pos_isolated] using h) ht'
      | isolated => simpa [pos_spare, pos_isolated] using ih (by simpa [pos_spare, pos_isolated] using h) ht'

theorem gone_set {ts : List TileSt} {n p : Nat} (h : (ts.filterMap TileSt.position).Nodup)
    (hn : ts[n]? = some (.active p)) : p ∉ (ts.set n .isolated).filterMap TileSt.position := by
  induction ts generalizing n with
  | nil => simp at hn
  | cons a ts ih =>
    cases n with
    | zero =>
      simp only [List.getElem?_cons_zero, Option.some.injEq] at hn
      subst hn
      simp only [pos_active, List.nodup_cons] at h
      simpa [pos_spare, pos_isolated] using h.1
    | succ n =>
      simp only [List.getElem?_cons_succ] at hn
      simp only [List.set_cons_succ]
      cases a with
      | active k =>
        simp only [pos_active, List.nodup_cons] at h ⊢
        have hk : p ∈ ts.filterMap TileSt.position := List.mem_filterMap.2 ⟨_, List.mem_of_getElem? hn, rfl⟩
        rw [List.mem_cons, not_or]
        exact ⟨fun e => h.1 (e ▸ hk), ih h.2 hn⟩
      | spare => simpa [pos_spare, pos_isolated] using ih (by simpa [pos_spare, pos_isolated] using h) hn
      | isolated => simpa [pos_spare, pos_isolated] using ih (by simpa [pos_spare, pos_isolated] using h) hn

theorem tilesOk.set {ts : List TileSt} (h : tilesOk ts) {n : Nat} {t : TileSt}
    (ht : ∀ p, t = .active p → p ∉ ts.filterMap TileSt.position) : tilesOk (ts.set n t) :=
  ⟨by simpa using h.1, nodup_set h.2 ht⟩


theorem State.setTilesTo {T' : List TileSt} {g : List TileSt → List TileSt} (h : s.Keeps F I o T)
    (f_eng : F .eng = true)
    (e : g s.eng.tiles = T') : State.Keeps (s.modEng fun e => { e with tiles := g e.tiles }) F I o T' :=
  ⟨h.pending, fun p hp => by
    have := h.same p hp
    have := Part.other f_eng hp
    cases p <;> first | assumption | contradiction, e, h.mem, h.regs, h.notices, h.counters, h.drops, h.epoch,
        h.generation, h.prod, h.log⟩

theorem State.setTiles_keeps {T' : List TileSt} (h : s.Keeps F I o T) (f_eng : F .eng = true) :
    State.Keeps (s.modEng fun e => { e with tiles := T' }) F I o T' := by
  exact (State.setTilesTo (g := fun _ => T') h f_eng rfl)

theorem State.setTile_keeps {n : Nat} {t : TileSt} (h : s.Keeps F I o T) (f_eng : F .eng = true) :
    State.Keeps (s.modEng fun e => { e with tiles := e.tiles.set n t }) F I o (T.set n t) := by
  exact ((State.setTilesTo (g := fun l => l.set n t) h f_eng (congrArg (fun l => l.set n t) h.tiles)))

theorem State.isolate_keeps {p t : Nat} {ws : List Nat} (h : s.Keeps F I o T) (f_fresh : F .fresh = true)
    (f_mem : F .mem = true) (f_disp : F .disp = true) (f_eng : F .eng = true) (f_arr : F .arr = true)
        (f_net : F .net = true) (f_sk : F .sk = true) (f_obs : F .obs = true) :
    State.Keeps (s.isolate p t ws) F I o (T.set t .isolated) := by
  unfold State.isolate
  extract_lets e s1 s2 s3 s4 s5
  have h1 : State.Keeps s1 F I o T :=
    State.each_keeps h fun s n h => ((State.rewindWork_keeps h f_fresh f_disp f_eng f_arr f_net f_obs))
  clear_value s1
  have h2 : State.Keeps s2 F I o (T.set t .isolated) := ((State.setTile_keeps h1 f_eng))
  clear_value s2
  have h3 : State.Keeps s3 F I o (T.set t .isolated) :=
    State.each_keeps h2 fun s n h => ((State.dropRefresh_keeps h f_fresh f_mem f_net f_obs))
  clear_value s3
  have h4 : State.Keeps s4 F I o (T.set t .isolated) := ((State.clearRange_keeps h3 f_mem))
  clear_value s4
  have h5 : State.Keeps s5 F I o (T.set t .isolated) := ((State.modSk_keeps h4 (fun a h => h) f_sk))
  clear_value s5
  exact ((State.setEngine_keeps h5 f_eng))

theorem State.freeSpare_range {n : Nat} (h : s.freeSpare = some n) : n = 48 ∨ n = 49 := by
  have := List.mem_of_find?_eq_some h
  simpa using this

theorem State.tileFault_kept {t : Nat} (h : s.Kept F I o) (f_fresh : F .fresh = true)
    (f_notices : F .notices = true) (f_mem : F .mem = true) (f_disp : F .disp = true) (f_eng : F .eng = true)
        (f_arr : F .arr = true) (f_net : F .net = true) (f_mov : F .mov = true) (f_sk : F .sk = true)
            (f_obs : F .obs = true) : (s.tileFault t).Kept F I o := by
  obtain ⟨T, hT, h⟩ := h
  have e := h.tiles
  unfold State.tileFault
  split
  · exact ⟨T, hT, h⟩
  · exact ⟨_, fun i => (hT i).set (by simp), ((State.setTile_keeps h f_eng))⟩
  · rename_i p hp
    have hp' : T[t]? = some (.active p) := by
      rw [e, List.getD_eq_getElem?_getD] at hp
      cases hx : T[t]? with
      | none => rw [hx] at hp; simp at hp
      | some y => rw [hx] at hp; simpa using hp
    dsimp only
    have h1 := ((State.isolate_keeps (p := p) (t := t) (ws := s.worksOfPos p) h f_fresh f_mem f_disp f_eng f_arr
        f_net f_sk f_obs))
    have o1 : I → tilesOk (T.set t .isolated) := fun i => (hT i).set (by simp)
    split
    · rename_i n hn
      have h2 := ((State.setTile_keeps (n := n) (t := .active p) h1 f_eng))
      have o2 := fun i => (o1 i).set (n := n) (t := .active p) (by rintro p' ⟨⟩; exact gone_set (hT i).2 hp')
      refine ⟨_, o2, ?_⟩
      split
      · apply State.report_keeps <;> (try with_reducible assumption)
        apply State.pinsBegin_keeps <;> (try with_reducible assumption)
        apply State.modEngine_keeps <;> (try with_reducible assumption)
      · apply State.pinsBegin_keeps <;> (try with_reducible assumption)
        apply State.modEngine_keeps <;> (try with_reducible assumption)
    · refine ⟨_, o1, ?_⟩
      apply State.report_keeps <;> (try with_reducible assumption)
      refine State.each_keeps ?_ fun s n h => ((State.park_keeps h f_fresh f_notices f_mem f_disp f_sk f_obs))
      exact ((State.modEngine_keeps h1 f_eng))

theorem State.Kept.lift {f : State → State} (hf : ∀ T (s : State), s.Keeps F I o T → (f s).Keeps F I o T)
    (h : s.Kept F I o) :
    (f s).Kept F I o := by
  obtain ⟨T, hT, h⟩ := h
  exact ⟨T, hT, hf T s h⟩

theorem State.permanent_kept {u : Nat} (h : s.Kept F I o) (f_fresh : F .fresh = true) (f_pwr : F .pwr = true)
    (f_notices : F .notices = true) (f_mem : F .mem = true) (f_disp : F .disp = true) (f_eng : F .eng = true)
        (f_arr : F .arr = true) (f_net : F .net = true) (f_mov : F .mov = true) (f_peer : F .peer = true)
            (f_porters : F .porters = true) (f_sk : F .sk = true) (f_obs : F .obs = true) :
                (s.permanent u).Kept F I o := by
  unfold State.permanent
  split
  · exact ((State.tileFault_kept h f_fresh f_notices f_mem f_disp f_eng f_arr f_net f_mov f_sk f_obs))
  · exact h.lift (f := fun s => s.porterFault _) fun _ _ h =>
      ((State.porterFault_keeps h f_fresh f_notices f_mem f_disp f_eng f_arr f_net f_mov f_peer f_porters f_sk f_obs))
  · exact h.lift (f := fun s => s.arrayFault _) fun _ _ h => ((State.arrayFault_keeps h f_fresh f_notices f_mem
      f_disp f_eng f_arr f_net f_mov f_peer f_porters f_sk f_obs))
  · exact h.lift (f := fun s => (s.modAgent _ _).agentStops _) fun _ _ h => ((State.agentStops_keeps
      (((State.modAgent_keeps h f_net))) f_fresh f_notices f_mem f_disp f_eng f_arr f_net f_mov f_peer f_porters
          f_sk f_obs))
  all_goals first | exact h.lift (f := fun s => s.coreLost _) fun _ _ h =>
      ((State.coreLost_keeps h f_fresh f_pwr f_notices f_mem f_eng f_net f_sk f_obs)) | exact h

theorem State.transient_kept {u : Nat} (h : s.Kept F I o) (f_fresh : F .fresh = true) (f_pwr : F .pwr = true)
    (f_notices : F .notices = true) (f_mem : F .mem = true) (f_disp : F .disp = true) (f_eng : F .eng = true)
        (f_arr : F .arr = true) (f_net : F .net = true) (f_mov : F .mov = true) (f_peer : F .peer = true)
            (f_porters : F .porters = true) (f_sk : F .sk = true) (f_obs : F .obs = true) :
                (s.transient u).Kept F I o := by
  unfold State.transient
  dsimp only
  have h1 : (s.setUnit u { s.unit u with faults := (s.unit u).faults + 1 }).Kept F I o :=
    h.lift (f := fun x => x.setUnit u { s.unit u with faults := (s.unit u).faults + 1 }) fun _ _ h =>
        ((State.setUnit_keeps h f_obs))
  split
  · exact h1
  · have h2 := State.Kept.lift (f := fun x => x.draw.2) (fun _ _ h => ((State.draw_keeps h f_fresh))) h1
    split
    · exact ((State.permanent_kept h2 f_fresh f_pwr f_notices f_mem f_disp f_eng f_arr f_net f_mov f_peer f_porters
        f_sk f_obs))
    · exact h2


/-- A next state of an outcome is Kept. -/
def OutKept (F : Part → Bool) (I : Prop) (o : State) (r : Out) : Prop := ∀ t, r = .next t → t.Kept F I o
theorem OutKept.next (h : s.Kept F I o) : OutKept F I o (.next s) := by rintro t ⟨⟩; exact h
theorem OutKept.lift {f : State → Out} (hf : ∀ T (s : State), s.Keeps F I o T → OutK F I o T (f s))
    (h : s.Kept F I o) :
    OutKept F I o (f s) := by
  obtain ⟨T, hT, h⟩ := h
  exact fun t e => ⟨T, hT, hf T s h t e⟩

theorem State.queueError_kept {p : Nat} (h : s.Kept F I o) (f_fresh : F .fresh = true) (f_pwr : F .pwr = true)
    (f_notices : F .notices = true) (f_mem : F .mem = true) (f_disp : F .disp = true) (f_eng : F .eng = true)
        (f_arr : F .arr = true) (f_net : F .net = true) (f_mov : F .mov = true) (f_peer : F .peer = true)
            (f_porters : F .porters = true) (f_sk : F .sk = true) (f_obs : F .obs = true) :
                (s.queueError p).Kept F I o := by
  unfold State.queueError
  dsimp only
  split
  · exact ((State.transient_kept (h.lift (f := fun s => s.draw.2.rewindPacket _ _) fun _ _ h =>
      ((State.rewindPacket_keeps (((State.draw_keeps h f_fresh))) f_fresh f_disp f_eng f_arr f_obs))) f_fresh f_pwr
          f_notices f_mem f_disp f_eng f_arr f_net f_mov f_peer f_porters f_sk f_obs))
  · exact h.lift (f := fun s => s.draw.2) fun _ _ h => ((State.draw_keeps h f_fresh))

theorem State.lineError_kept {m l : Nat} (h : s.Kept F I o) (f_fresh : F .fresh = true) (f_pwr : F .pwr = true)
    (f_notices : F .notices = true) (f_mem : F .mem = true) (f_disp : F .disp = true) (f_eng : F .eng = true)
        (f_arr : F .arr = true) (f_net : F .net = true) (f_mov : F .mov = true) (f_peer : F .peer = true)
            (f_porters : F .porters = true) (f_sk : F .sk = true) (f_obs : F .obs = true) :
                (s.lineError m l).Kept F I o := by
  unfold State.lineError
  split
  · split
    · exact ((State.transient_kept (h.lift (f := fun s => s.replayProgram _ _) fun _ _ h =>
        ((State.replayProgram_keeps h f_disp f_eng f_arr f_net f_mov f_peer f_porters f_obs))) f_fresh f_pwr
            f_notices f_mem f_disp f_eng f_arr f_net f_mov f_peer f_porters f_sk f_obs))
    · exact h.lift (f := fun s => s.modPorter _ _) fun _ _ h => ((State.modPorter_keeps h f_porters))
  · exact h

theorem State.gradFault_kept {slot u : Nat} (h : s.Kept F I o) (f_fresh : F .fresh = true) (f_pwr : F .pwr = true)
    (f_notices : F .notices = true) (f_mem : F .mem = true) (f_disp : F .disp = true) (f_eng : F .eng = true)
        (f_arr : F .arr = true) (f_net : F .net = true) (f_mov : F .mov = true) (f_peer : F .peer = true)
            (f_porters : F .porters = true) (f_sk : F .sk = true) (f_obs : F .obs = true) :
                (s.gradFault slot u).Kept F I o := by
  unfold State.gradFault
  split
  · exact ((State.transient_kept (h.lift (f := fun s => s.rewindWork _ _) fun _ _ h =>
      ((State.rewindWork_keeps h f_fresh f_disp f_eng f_arr f_net f_obs))) f_fresh f_pwr f_notices f_mem f_disp
          f_eng f_arr f_net f_mov f_peer f_porters f_sk f_obs))
  · exact h

theorem State.gradResidue_kept {slot u : Nat} (h : s.Kept F I o) (f_fresh : F .fresh = true) (f_pwr : F .pwr = true)
    (f_notices : F .notices = true) (f_mem : F .mem = true) (f_disp : F .disp = true) (f_eng : F .eng = true)
        (f_arr : F .arr = true) (f_net : F .net = true) (f_mov : F .mov = true) (f_peer : F .peer = true)
            (f_porters : F .porters = true) (f_sk : F .sk = true) (f_obs : F .obs = true) :
                ((s.countResidue u).gradFault slot u).Kept F I o :=
  ((State.gradFault_kept (h.lift (f := fun s => s.countResidue _) fun _ _ h =>
      ((State.countResidue_keeps h f_obs))) f_fresh f_pwr f_notices f_mem f_disp f_eng f_arr f_net f_mov f_peer
          f_porters f_sk f_obs))

theorem State.storageError_kept {st : ScrubStore} (h : s.Kept F I o) (f_fresh : F .fresh = true)
    (f_pwr : F .pwr = true) (f_notices : F .notices = true) (f_mem : F .mem = true) (f_disp : F .disp = true)
        (f_eng : F .eng = true) (f_arr : F .arr = true) (f_net : F .net = true) (f_mov : F .mov = true)
            (f_peer : F .peer = true) (f_porters : F .porters = true) (f_sk : F .sk = true)
                (f_obs : F .obs = true) : (s.storageError st).Kept F I o := by
  have hd : s.draw.2.Kept F I o := h.lift (f := fun s => s.draw.2) fun _ _ h => ((State.draw_keeps h f_fresh))
  unfold State.storageError
  split
  · exact h.lift (f := fun s => s.larderError _ _) fun _ _ h =>
      ((State.larderError_keeps h f_fresh f_mem f_eng f_net f_sk))
  · exact h.lift (f := fun s => s.larderError _ _) fun _ _ h =>
      ((State.larderError_keeps h f_fresh f_mem f_eng f_net f_sk))
  · exact h.lift (f := fun s => s.modEngine _ _) fun _ _ h => ((State.modEngine_keeps h f_eng))
  · split
    · exact ((State.gradFault_kept h f_fresh f_pwr f_notices f_mem f_disp f_eng f_arr f_net f_mov f_peer f_porters
        f_sk f_obs))
    · exact h
  · dsimp only
    split
    · exact ((State.gradResidue_kept hd f_fresh f_pwr f_notices f_mem f_disp f_eng f_arr f_net f_mov f_peer
        f_porters f_sk f_obs))
    · exact hd
  · exact ((State.queueError_kept h f_fresh f_pwr f_notices f_mem f_disp f_eng f_arr f_net f_mov f_peer f_porters
      f_sk f_obs))
  · exact h.lift (f := fun s => (s.setTc _ _).modMov _) fun _ _ h => ((State.modMov_keeps
      (((State.setTc_keeps h f_mov))) f_mov))
  · split
    · split
      · exact h.lift (f := fun s => s.setFault _ _) fun _ _ h => ((State.setFault_keeps h f_mov))
      · exact h
    · exact h
  · split
    · exact ((State.transient_kept (h.lift (f := fun s => s.replayProgram _ _) fun _ _ h =>
        ((State.replayProgram_keeps h f_disp f_eng f_arr f_net f_mov f_peer f_porters f_obs))) f_fresh f_pwr
            f_notices f_mem f_disp f_eng f_arr f_net f_mov f_peer f_porters f_sk f_obs))
    · exact h
  · exact ((State.lineError_kept h f_fresh f_pwr f_notices f_mem f_disp f_eng f_arr f_net f_mov f_peer f_porters
      f_sk f_obs))
  · dsimp only
    split
    · exact ((State.gradFault_kept h f_fresh f_pwr f_notices f_mem f_disp f_eng f_arr f_net f_mov f_peer f_porters
        f_sk f_obs))
    · exact h
  · dsimp only
    split
    · exact ((State.gradResidue_kept h f_fresh f_pwr f_notices f_mem f_disp f_eng f_arr f_net f_mov f_peer f_porters
        f_sk f_obs))
    · exact h
  · dsimp only
    split
    · exact ((State.gradFault_kept hd f_fresh f_pwr f_notices f_mem f_disp f_eng f_arr f_net f_mov f_peer f_porters
        f_sk f_obs))
    · exact hd
  · exact h.lift (f := fun s => s.modAgent _ _) fun _ _ h => ((State.modAgent_keeps h f_net))
  · exact h.lift (f := fun s => s.draw.2.modAgent _ _) fun _ _ h => ((State.modAgent_keeps
      (((State.draw_keeps h f_fresh))) f_net))
  · split
    · exact ((State.transient_kept (h.lift (f := fun s => s.replayProgram _ _) fun _ _ h =>
        ((State.replayProgram_keeps h f_disp f_eng f_arr f_net f_mov f_peer f_porters f_obs))) f_fresh f_pwr
            f_notices f_mem f_disp f_eng f_arr f_net f_mov f_peer f_porters f_sk f_obs))
    · exact h
  · split
    · exact ((State.transient_kept (h.lift (f := fun s => (s.countResidue _).replayProgram _ _) fun _ _ h =>
        ((State.replayProgram_keeps (((State.countResidue_keeps h f_obs))) f_disp f_eng f_arr f_net f_mov f_peer
            f_porters f_obs))) f_fresh f_pwr f_notices f_mem f_disp f_eng f_arr f_net f_mov f_peer f_porters f_sk
                f_obs))
    · exact h
  all_goals exact h

/-! reset -/

theorem tilesInit_ok : tilesOk tilesInit := by unfold tilesOk; decide

theorem State.engineReset_keeps (h : s.Keeps F I o T) (f_pwr : F .pwr = true) (f_host : F .host = true)
    (f_regs : F .regs = true) (f_notices : F .notices = true) (f_mem : F .mem = true) (f_slots : F .slots = true)
        (f_cfg : F .cfg = true) (f_disp : F .disp = true) (f_eng : F .eng = true) (f_arr : F .arr = true)
            (f_net : F .net = true) (f_mov : F .mov = true) (f_hi : F .hi = true) (f_peer : F .peer = true)
                (f_porters : F .porters = true) (f_sk : F .sk = true)
                    (f_obs : F .obs = true) : State.Keeps s.engineReset F I o tilesInit := by
  unfold State.engineReset
  have h := ((State.endRefreshes_keeps h f_mem))
  generalize s.endRefreshes = s at h ⊢
  exact ⟨h.pending, fun p hp => by
    have := h.same p hp
    have x_pwr := Part.other f_pwr hp
    have x_host := Part.other f_host hp
    have x_regs := Part.other f_regs hp
    have x_notices := Part.other f_notices hp
    have x_mem := Part.other f_mem hp
    have x_slots := Part.other f_slots hp
    have x_cfg := Part.other f_cfg hp
    have x_disp := Part.other f_disp hp
    have x_eng := Part.other f_eng hp
    have x_arr := Part.other f_arr hp
    have x_net := Part.other f_net hp
    have x_mov := Part.other f_mov hp
    have x_hi := Part.other f_hi hp
    have x_peer := Part.other f_peer hp
    have x_porters := Part.other f_porters hp
    have x_sk := Part.other f_sk hp
    have x_obs := Part.other f_obs hp
    cases p <;> first | assumption | contradiction, rfl, fun i => Tab.wf_filter _ _ _
        (h.mem i), fun _ => rfl, fun _ => rfl, fun _ => rfl, fun _ => rfl, fun _ => Nat.two_pow_pos _, h.generation,
            fun _ => Nat.two_pow_pos _, h.log⟩

theorem State.engineReset_kept (h : s.Kept F I o) (f_pwr : F .pwr = true) (f_host : F .host = true)
    (f_regs : F .regs = true) (f_notices : F .notices = true) (f_mem : F .mem = true) (f_slots : F .slots = true)
        (f_cfg : F .cfg = true) (f_disp : F .disp = true) (f_eng : F .eng = true) (f_arr : F .arr = true)
            (f_net : F .net = true) (f_mov : F .mov = true) (f_hi : F .hi = true) (f_peer : F .peer = true)
                (f_porters : F .porters = true) (f_sk : F .sk = true)
                    (f_obs : F .obs = true) : s.engineReset.Kept F I o := by
  obtain ⟨T, _, h⟩ := h
  exact ⟨_, fun _ => tilesInit_ok, ((State.engineReset_keeps h f_pwr f_host f_regs f_notices f_mem f_slots f_cfg
      f_disp f_eng f_arr f_net f_mov f_hi f_peer f_porters f_sk f_obs))⟩

theorem State.engineStops_kept (h : s.Kept F I o) (f_fresh : F .fresh = true) (f_pwr : F .pwr = true)
    (f_host : F .host = true) (f_regs : F .regs = true) (f_notices : F .notices = true) (f_mem : F .mem = true)
        (f_slots : F .slots = true) (f_cfg : F .cfg = true) (f_disp : F .disp = true) (f_eng : F .eng = true)
            (f_arr : F .arr = true) (f_net : F .net = true) (f_mov : F .mov = true) (f_hi : F .hi = true)
                (f_peer : F .peer = true) (f_porters : F .porters = true) (f_sk : F .sk = true)
                    (f_obs : F .obs = true) : s.engineStops.Kept F I o := by
  unfold State.engineStops
  split
  · apply State.engineReset_kept <;> (try with_reducible assumption)
    split
    · exact h
    · exact h.lift (f := fun s => s.each _ _) fun _ _ h => State.each_keeps h fun s a h =>
        ((State.dieGone_keeps h f_fresh f_eng f_net f_sk f_obs))
  · exact h

theorem State.setPwr_keeps {p : Power} (h : s.Keeps F I o T) (f_pwr : F .pwr = true) : State.Keeps { s with pwr := p
    } F I o T := by
  exact State.with_pwr h f_pwr

theorem State.aon_keeps {p : Power} {k : Keeper} {m : Mover} (h : s.Keeps F I o T) (f_pwr : F .pwr = true)
    (f_slots : F .slots = true) (f_sk : F .sk = true) (f_mov : F .mov = true) :
    State.Keeps { s with pwr := p, slots := Slots.init, sk := k.kept, mov := m } F I o T := by
  exact ⟨h.pending, fun p hp => by
    have := h.same p hp
    have x_pwr := Part.other f_pwr hp
    have x_slots := Part.other f_slots hp
    have x_sk := Part.other f_sk hp
    have x_mov := Part.other f_mov hp
    cases p <;> first | assumption | contradiction, h.tiles, h.mem, h.regs, h.notices, h.counters, h.drops, h.epoch,
        fun _ => Nat.two_pow_pos _, h.prod, fun _ => Nat.zero_le _⟩

/-- Tiles that a self-test has not yet looked at hold their own positions. -/
def untested (ts : List TileSt) (l : List Nat) : Prop := ∀ p ∈ l, p < 48 ∧ ts[p]? = some (.active p)

theorem State.selfTestMove_kept {p : Nat} {l : List Nat} (hT : I → tilesOk T) (hl : untested T (p :: l)) (hp : p ∉ l)
    (h : s.Keeps F I o T) (f_fresh : F .fresh = true) (f_notices : F .notices = true) (f_mem : F .mem = true)
        (f_eng : F .eng = true) (f_sk : F .sk = true) (f_obs : F .obs = true) : ∃ T',
            (I → tilesOk T') ∧ untested T' l ∧ (s.selfTestMove p).Keeps F I o T' := by
  have hpp := hl p (by simp)
  have o1 : I → tilesOk (T.set p .isolated) := fun i => (hT i).set (by simp)
  have h1 := ((State.setTile_keeps (n := p) (t := .isolated) h f_eng))
  have f1 : untested (T.set p .isolated) l := fun x hx => ⟨(hl x (by simp [hx])).1, by
    rw [List.getElem?_set_ne (by rintro rfl; exact hp hx)]; exact (hl x (by simp [hx])).2⟩
  unfold State.selfTestMove
  dsimp only
  split
  · rename_i n hn
    have hn' := State.freeSpare_range hn
    have o2 := fun i => (o1 i).set (n := n) (t := .active p) (by rintro _ ⟨⟩; exact gone_set (hT i).2 hpp.2)
    refine ⟨(T.set p .isolated).set n (.active p), o2, fun x hx => ?_, ?_⟩
    · have := (f1 x hx).1
      exact ⟨this, by rw [List.getElem?_set_ne (by omega)]; exact (f1 x hx).2⟩
    · have h2 := ((State.setTile_keeps (n := n) (t := .active p) h1 f_eng))
      split
      · exact ((State.report_keeps h2 f_fresh f_notices f_mem f_sk f_obs))
      · exact h2
  · exact ⟨_, o1, f1, ((State.report_keeps (((State.modEngine_keeps h1 f_eng))) f_fresh f_notices f_mem f_sk f_obs))⟩

theorem State.selfTestAll_kept {l : List Nat} (hT : I → tilesOk T) (hl : untested T l) (hn : l.Nodup)
    (h : s.Keeps F I o T) (f_fresh : F .fresh = true) (f_notices : F .notices = true) (f_mem : F .mem = true)
        (f_eng : F .eng = true) (f_sk : F .sk = true) (f_obs : F .obs = true) :
    (s.each l State.selfTestMove).Kept F I o := by
  induction l generalizing s T with
  | nil => exact ⟨T, hT, h⟩
  | cons p l ih =>
    rw [List.nodup_cons] at hn
    obtain ⟨T', o, f, k⟩ := ((State.selfTestMove_kept hT hl hn.1 h f_fresh f_notices f_mem f_eng f_sk f_obs))
    exact ih o f hn.2 k

theorem spares_keeps {l : List Nat} (hT : I → tilesOk T) (hf : untested T (List.range 48)) (hl : ∀ x ∈ l, 48 ≤ x)
    (h : s.Keeps F I o T) (f_eng : F .eng = true) :
    ∃ T', (I → tilesOk T') ∧ untested T' (List.range 48) ∧
      State.Keeps (s.each l fun s t => s.modEng fun e => { e with tiles := e.tiles.set t .isolated }) F I o T' := by
  induction l generalizing s T with
  | nil => exact ⟨T, hT, hf, h⟩
  | cons p l ih =>
    have hp := hl p (by simp)
    refine ih (fun i => (hT i).set (n := p) (t := .isolated) (by simp)) (fun x hx => ⟨(hf x hx).1, ?_⟩)
        (fun x hx => hl x (by simp [hx]))
      (((State.setTile_keeps h f_eng)))
    rw [List.getElem?_set_ne (by have := (hf x hx).1; omega)]
    exact (hf x hx).2

theorem State.selfTest_kept {bad : Nat} (h : s.Keeps F I o tilesInit) (f_fresh : F .fresh = true)
    (f_notices : F .notices = true) (f_mem : F .mem = true) (f_eng : F .eng = true) (f_sk : F .sk = true)
        (f_obs : F .obs = true) : (s.selfTest bad).Kept F I o := by
  unfold State.selfTest
  dsimp only
  have f0 : untested tilesInit (List.range 48) := by unfold untested; decide
  obtain ⟨T', o, f, k⟩ := (spares_keeps (l := [48, 49].filter fun t => bitOf bad t) (fun _ => tilesInit_ok) f0)
    (fun x hx => by
      simp only [List.mem_filter, List.mem_cons, List.not_mem_nil, or_false] at hx
      omega) h f_eng
  refine State.selfTestAll_kept o (fun p hp => f p (List.mem_filter.1 hp).1)
      (List.nodup_range.filter _) k f_fresh f_notices f_mem f_eng f_sk f_obs


theorem State.Keeps.refl (F : Part → Bool) (s : State) : s.Keeps F False s s.eng.tiles :=
  ⟨rfl, fun p _ => by cases p <;> rfl, rfl, nofun, nofun, nofun, nofun, nofun, nofun, nofun, nofun, nofun⟩

/-- The invariant is what State.Keeps says under True, with every part free to change. -/
theorem State.Inv.keeps {s : State} (h : s.Inv) : s.Keeps (fun _ => true) True s s.eng.tiles :=
  ⟨rfl, nofun, rfl, fun _ => h.mem, fun _ => h.regs, fun _ => h.notices, fun _ => h.counters, fun _ => h.drops,
    fun _ => h.epoch, fun _ => h.generation, fun _ => h.prod, fun _ => h.log⟩

theorem State.Kept.inv {t o : State} {F : Part → Bool} (h : t.Kept F True o) : t.Inv ∧ t.pending = o.pending := by
  obtain ⟨T, hT, h⟩ := h
  exact ⟨⟨h.tiles ▸ hT trivial, h.mem trivial, h.regs trivial, h.notices trivial, h.counters trivial, h.drops trivial,
    h.epoch trivial, h.generation trivial, h.prod trivial, h.log trivial⟩, h.pending⟩

end Sys2Proof.Machine
end

