-- ==== Sys2Proof/WellFormed.lean ====
section
/-! DEFINITION. The well-formed commands: the operands that the block's own interfaces can carry. Where an operand's
type says it all, a command is well-formed. A malformed register access or descriptor is well-formed here: software can
write it, and it is a host error (R7, R271). -/

namespace Sys2Proof

/-- A target write has 1 to 8 beats of 8 bytes (R270). -/
def beatsOk (size : Nat) : Bool := 1 ≤ size && size ≤ 64

/-- An image has at most 64 MiB (R378); a transfer that fails carries none. -/
def StageRead.ok (r : StageRead) : Bool :=
  match r with
  | .image bytes => bytes.length ≤ 2 ^ 26
  | .noAccess => true

/-- A mapping names a page of its size in the package's 52-bit space (R260, R273). -/
def PageMapping.ok (m : PageMapping) : Bool :=
  let size := if m.big then 2 ^ 34 else 2 ^ 28
  m.pa % size == 0 && m.pa < 2 ^ 52

/-- An invalidation names pages of the host space or of the Cellar, the spaces that a walk serves (R259, R262). -/
def InvScope.ok (i : InvScope) : Bool :=
  match i with
  | .range _ space va len => (space == 2 || space == 3) && va < 2 ^ 48 && 1 ≤ len
  | .pasid _ => true
  | .all => true

/-- A peer datagram's sideband fits its signals, and its payload fits a UDP datagram (R296). -/
def PeerRx.ok (p : PeerRx) : Bool :=
  p.srcIp < (if p.ipv6 then 2 ^ 128 else 2 ^ 32) && p.srcPort < 2 ^ 16 && p.dstPort < 2 ^ 16 && p.payload.length < 2 ^ 16

/-- A corrected error names an offset of a stack (R226). -/
def MgmtMsg.ok (m : MgmtMsg) : Bool :=
  match m with
  | .corrected unit => unit < 2 ^ 37
  | .thermal _ => true
  | .touch _ => true
  | .uncorrectable _ => true
  | .ieee1500 _ => true
  | .wso _ => true

/-- A slice of 8 MiB has 32,768 blocks of 256 bytes (00_scope.md), and a merge cache 2,048 lines (R186). -/
def ScrubStore.ok (s : ScrubStore) : Bool :=
  match s with
  | .larder _ block => block < 32768
  | .sideArray _ block => block < 32768
  | .merge _ line => line < 2048
  | .reuse _ _ | .resultQueue _ | .tc _ | .faultTable _ | .porterMem _ | .porterCache _ _ | .journal _ _ |
    .copyDir _ _ | .touch _ | .remap _ | .skSram | .porterRegs _ | .porterAlu _ | .mergeAdder _ | .gradAdder _ _ |
    .gradRecord _ | .dualQueue | .selector _ | .dispatchQueue | .tallyFifo _ => true

/-- The well-formed commands. -/
def Instr.wellFormed (c : Instr) : Bool :=
  match c with
  | .registerWrite _ size _ | .w1cClear _ size _ _ | .sqProd _ size _ | .cqCons _ size _ | .obSinkPtr size _ => beatsOk size
  | .class0Pool _ _ bytes | .class0Score _ _ bytes => bytes.length == 64
  | .stageReadDone res => res.ok
  | .firmwareChannelStart _ desc _ => desc.length == 64
  | .walkDone _ res => res.all PageMapping.ok
  | .translationInvalidate scope => scope.ok
  | .readData _ _ _ data => data.length ≤ 256
  | .write _ pkt | .readReq _ pkt | .readResp _ pkt | .ack _ pkt | .nak _ pkt | .mgmt _ pkt | .peerPacketDrop _ pkt =>
    pkt.ok
  | .exchange _ _ _ capGib _ => capGib ≤ 128
  | .idleFlit _ _ err | .dataFlit _ _ err | .controlFlit _ _ err | .retryFlit _ _ err => err.length ≤ 272
  | .linkMessageSend _ _ _ pack => pack ≤ 8
  | .linkMgmt _ msg => msg.ok
  | .remapInstall _ unit => unit < 2 ^ 37
  | .stackRepair _ repaired => repaired.all (fun u => u < 2 ^ 37 && u % 4096 == 0) && decide repaired.Nodup
  | .migrationStart _ _ _ _ block => block < 32768
  | .thermalSample temps => temps.length == 64
  | .scrubRead st _ => st.ok
  | .aonResetRelease _ _ rec => rec.all fun r => r.stackBase.length == 24 && r.eyes.length == 32 && r.nominal.length == 16
  | .logRead first count => first < 2 ^ 32 && 1 ≤ count && count ≤ 64
  | .counters first count => first < 4096 && 1 ≤ count && count ≤ 496
  | .config op digest => op != 4#3 || digest.length == 48
  | .keySet body _ => body.length == 200
  | .rgCtlEnSet .. | .rgCtlEnClear .. | .rgAbort .. | .abortAll | .mvChHead .. | .mvChAbort ..
  | .channelStopped .. | .stage | .activate | .rollback | .activateDigest | .discard | .teardown
  | .activationDrainEnd | .scrubDone | .fire .. | .snapRelease | .skMbLogRead | .skMbSensors | .skMbFwInfo
  | .skMbReports | .pwCnValidSet .. | .descriptorFetch .. | .gather .. | .scatter .. | .scoreCandidate ..
  | .interact .. | .project .. | .qload .. | .fence .. | .porter .. | .mailboxPlace .. | .porterProgramStart ..
  | .completionRecordWrite .. | .statisticsWrite .. | .class0TrailerWrite .. | .tokenRefill ..
  | .overflowRelease .. | .endProg .. | .seta .. | .adda .. | .loop .. | .next .. | .idx .. | .wgt .. | .len ..
  | .bag .. | .rowFetchIssue .. | .rowReturn .. | .resultPacketCommit .. | .engineEpochReport .. | .epochCut ..
  | .arrayPass .. | .multicastPacket .. | .rotationStep .. | .semaphoreStall .. | .add .. | .sub .. | .and ..
  | .or .. | .xor .. | .sll .. | .srl .. | .sra .. | .mul .. | .mulhu .. | .divu .. | .remu .. | .slt ..
  | .sltu .. | .addi .. | .andi .. | .ori .. | .xori .. | .shi .. | .lui .. | .ldB .. | .ldH .. | .ldW ..
  | .ldD .. | .stB .. | .stH .. | .stW .. | .stD .. | .beq .. | .bne .. | .blt .. | .bge .. | .bltu ..
  | .bgeu .. | .jal .. | .jalr .. | .fadd .. | .fsub .. | .fmul .. | .fdiv .. | .fsqrt .. | .fmin .. | .fmax ..
  | .fle .. | .flt .. | .feq .. | .fcvtD .. | .fcvtS .. | .fcvtI .. | .icvt .. | .fpk .. | .csrr .. | .csrw ..
  | .cclean .. | .cinv .. | .cflush .. | .cinvAll .. | .cflushAll .. | .sysFence .. | .waitt ..
  | .ticketComplete .. | .halt .. | .dataCacheFill .. | .engineRelease .. | .engineGather .. | .arrayScore ..
  | .moverList .. | .moverCopy .. | .moverAbort .. | .waitSpace .. | .postFill .. | .waitFill ..
  | .postSpace .. | .semWaitSatisfied .. | .moverDescriptorRead .. | .copy .. | .fill .. | .nop ..
  | .moverBurstGrant | .moverDescriptorComplete .. | .coldFetchReturn .. | .faultTake .. | .invalidationDone
  | .initiatorIssue .. | .requestCredit .. | .writeBeatCredit .. | .writeResponse .. | .targetCreditStart
  | .hostEpochRise .. | .hostPortResume | .peerAckTimer .. | .peerRtoExpire .. | .linkTrainStart ..
  | .trainingStepTimeout .. | .trainingComplete .. | .flitSlot .. | .retryTimeout .. | .retrainOnReplays ..
  | .eyeMarginLow .. | .noFlitTimeout .. | .retrainComplete .. | .rd .. | .rdPack .. | .wr .. | .flush ..
  | .grad .. | .commit .. | .abort .. | .go .. | .evict .. | .refreshAck .. | .crateCommitStart ..
  | .crateApplyDone .. | .rdRsp .. | .rdPackRsp .. | .wrAck .. | .flushAck .. | .hwm .. | .full .. | .sealed ..
  | .crateAck .. | .refresh .. | .enable .. | .controllerBusy .. | .holdReissue .. | .holdTimeout ..
  | .rowRecovery .. | .touchPeriod .. | .migrationCopyAck .. | .migrationRemove .. | .promotionStart ..
  | .promotionCopyDone | .demotion .. | .frameFree .. | .rampStep .. | .supplyExcursion ..
  | .supplyRecovered .. | .clockLoss .. | .lockstepMismatch .. | .fwStartTimeout | .knownAnswerCheck ..
  | .porterKnownAnswer .. | .watchdogFire .. | .spareRelease .. | .agentFailover .. | .stackLost ..
  | .parkedRelease .. | .reportResend | .inventorySweep | .inventoryDone | .tallyPacketForm ..
  | .tallyPacketWritten .. | .coreResetRelease | .engineDomainResetExit .. | .coreResetAssert
  | .agentResetRelease .. | .trainingAtResetEnd .. | .reportAck .. | .sensors | .snapshot | .fwInfo
  | .requestUpdate | .passComponentTable .. | .updateComponent .. | .requestFirmwareData .. | .activateFirmware
  | .getStatus | .cancelUpdate | .queryDeviceIdentifiers | .getFirmwareParameters | .agentResetAssert ..
  | .aonResetAssert | .clockReturn .. | .peerPacketStart .. => true

end Sys2Proof
end

