-- ==== Sys2Proof/Tests/Slice0.lean ====
section
/-! SUPPORT. The model's own tests. For every statement with premises a witness that meets them; the values are
hand-made from the rules that the statements cite. -/

namespace Sys2Proof.Tests

open Sys2Proof Sys2Proof.Machine

set_option Elab.async false

/-! ### States -/

/-- Every domain runs and the Storekeeper has started; no image is loaded. -/
def on : State :=
  { State.reset with
    pwr := { State.reset.pwr with
      aonUp := true, engineUp := true, coreRstN := true, credits := true, wcred := 64, rcred := 8 }
    sk := { Keeper.init with up := true, record := some ⟨[], [], [], [], []⟩ } }

/-- Every link is ACTIVE, every agent is in service, and an image stands in the current slot. -/
def ready : State :=
  { on with
    slots := { Slots.init with current := some [] }
    net := { on.net with
      links := (List.range 16).map fun n => (n, { Link.init with st := .active, resetDone := true })
      agents := (List.range 16).map fun n => (n, { Agent.init with
        released := true, up := true, repairDone := true, present := true, capGib := 96, stackNo := n / 2 }) } }

/-- An activation drains the block. -/
def activating : State := { ready with slots := { ready.slots with cmd := some ⟨2, false, 0, false⟩, activating := true } }

/-- Ready, with some loaded structures. -/
def readyWith (f : Cfg → Cfg) : State := { ready with cfg := f ready.cfg }

/-- Page 0 serves ring 3, and page 1 serves class 0 stream 5 in domain 1. -/
def paged : State := readyWith fun c => { c with pages := [(0, .ring 3), (1, .class0 5 1)] }

/-- Ring 3 of `paged` is enabled, with 16 slots, and has completed up to 4 of 10 descriptors. -/
def ringOn : State :=
  { paged with
    regs := [(Reg.rgSq 3, 0x0400000000001000#64), (Reg.rgCtl 3, 0x000F0001#64)]
    disp := { paged.disp with rings := [(3, { Ring.init with prod := 10, cons := 2, cpl := 4 })] } }

theorem test_ready : ready.ready = true := by decide +kernel


theorem test_ringOn : ringOn.ringEn 3 = true ∧ ringOn.ringSize 3 = 16 := by decide +kernel

theorem witness_StepRunsFront : { on with pending := [.abortAll] }.pending = .abortAll :: [] ∧ on.pending = [] ∧
    on.sk.fresh = none := ⟨rfl, rfl, rfl⟩

theorem witness_StepKeepsInv : on.Inv ∧ step on = .next on :=
  ⟨⟨by unfold tilesOk; decide, rfl, rfl, rfl, rfl, rfl, by decide, by decide, by decide, by decide⟩, rfl⟩

theorem witness_CommandFrames : exec .coreResetRelease on = .next on := rfl

theorem witness_TablesOnlyFromImage : exec .coreResetAssert State.reset = .next State.reset := rfl

/-! ### Registers and doorbells -/

/-- The premises of a register write, at a state. -/
def writes (off : Offset) (size : Nat) (data : Word) (s : State) : Bool :=
  let o := off.toNat
  let b := o / 8 * 8
  let v := if size = 8 then data.toNat else put data.toNat 32 (8 * (o % 8))
  let m := s.writable b &&& halfMask o size
  let new := (s.reg b &&& (m ^^^ (2 ^ 64 - 1))) ||| (v &&& m)
  s.takesWrites (beatsOf size) && !s.slots.activating && aligned o size && o < 0x800000 && rwMask b != 0 && b != Reg.mbCmd &&
    ((List.range 256).all fun c => b != Reg.pwCn c + 0x10 || s.cnValid c || !bitOf v 0) &&
    v &&& halfMask o size &&& ((rwMask b ||| ownMask b ||| w1cMask b ||| roMask b) ^^^ (2 ^ 64 - 1)) == 0 &&
    !s.badChange b (halfMask o size) (s.reg b) new

theorem witness_RegisterWrite_8 : writes (BitVec.ofNat 24 Reg.cfStageAddr) 8 0x000300000000FFC0#64 on = true := by
  decide +kernel

theorem witness_RegisterWrite_4 : writes (BitVec.ofNat 24 (Reg.cfStageAddr + 4)) 4 0x00030000#64 on = true := by
  decide +kernel

/-- Waiting class 0 requests fill the overflow queue. -/
def full (s : State) : State := { s with disp := { s.disp with overflow := List.replicate 256 0 } }

theorem witness_RegisterWrite_others : rwMask 0x00FFF8 + ownMask 0x00FFF8 + w1cMask 0x00FFF8 = 0 ∧ on.targetFull = false ∧
    on.host.waiting = [] ∧ { on with host := { on.host with waiting := [.discard] } }.host.waiting ≠ [] ∧
    State.reset.targetOn = false ∧ (full on).targetOn = true ∧ beatsOf 64 ≤ (full on).pwr.wcred ∧ (full on).targetFull = true := by
  decide +kernel

theorem witness_SemaphoreReads :
    ({ on with arr := { on.arr with sems := [(1023, ⟨65535, 0, true⟩)] } }.sem (128 * 7 + 127)).fill < 2 ^ 16 ∧
      on.takesWrites (beatsOf 8) = true := by
  decide +kernel

theorem witness_DoorbellDuringActivation :
    let s := { activating with cfg := paged.cfg }
    s.takesWrites 64 = true ∧ s.slots.activating = true ∧ s.cfg.page 0 = .ring 3 ∧ 0x800000 ≤ (0x800FFF#24).toNat ∧
      s.cfg.page ((0x800FFF#24 - 0x800000#24).toNat / 0x1000) = .ring 3 := by decide +kernel

/-- A class 0 request for one row of table 0 with everything else at zero. -/
def plainBell : Bytes := List.replicate 64 0#8

/-! ### Tasks -/

/-- Table 0 of the bring-up example: 1,024 FP32 rows of 64 elements, with no header, in stack 0 (16). -/
def table0 : TableDesc :=
  { (default : TableDesc) with
    elements := 64, rowCount := 1024, stride := 256, base := 0x10000000 }

/-- A descriptor from its first words. -/
def taskBytes (ws : List Nat) : Bytes := fit 128 (ws.flatMap (leBytes 8))

/-- The GATHER task of the bring-up example: 64 indices in bags of 8. -/
def bringUp : Bytes := taskBytes [0xF0000010, 0x0000000800000040, 0, 0x2000, 0, 0, 0x1000000000000, 256]

theorem test_bringUp :
    let d := TaskDesc.ofBytes bringUp
    d.kind = some .gather ∧ d.cls = 1 ∧ d.table = 0 ∧ d.pool = .sum ∧ d.out = .native ∧ d.indexCount = 64 ∧
      d.bagLen = 8 ∧ d.bagMode = 0 ∧ d.rstride = 256 := by decide +kernel

/-- Table 0 is loaded, domain 0 may read and write the Larder, and ring 3 has fetched one descriptor. -/
def offered (b : Bytes) : State :=
  { ringOn with
    cfg := { ringOn.cfg with
      tables := [(0, some table0)], domains := [⟨0, true, true, [(0, 7), (1, 7)]⟩]
      tree := [⟨0, none, 0, 1, []⟩, ⟨0, some 0, 0, 0, []⟩], routes := [⟨0, 4095, .table, 1⟩] }
    disp := { ringOn.disp with rings := [(3, { Ring.init with
      prod := 10, cons := 2, cpl := 4, fetch := 5, fetched := [(4, .bytes b)] })] } }

theorem witness_TaskAdmission : (offered bringUp).turn 3 4 bringUp [] ∧
    (TaskDesc.ofBytes bringUp).kind = some .gather ∧ (TaskDesc.ofBytes bringUp).cls ≠ 0 ∧
    (offered bringUp).badGatherTask (TaskDesc.ofBytes bringUp) = false ∧ reservedTask bringUp = false ∧
    reservedTask (taskBytes [0xF0000010 + 2 ^ 40]) = true := by
  unfold State.turn; decide +kernel

/-- A descriptor of each kind: SCATTER, SCORE in modes 0 to 3, FENCE and PORTER. -/
theorem witness_TaskAdmission_kinds :
    let d (n : Nat) := (TaskDesc.ofBytes (taskBytes [n + 0x10])).kind
    d 0 = some .gather ∧ d 1 = some .scatter ∧ d 2 = some .score ∧ d 3 = some .fence ∧ d 4 = some .porter := by
  decide +kernel

/-- Work 0 is the bring-up task of ring 3, and its table is loaded. -/
def working (f : Work → Work) : State :=
  let s := offered bringUp
  s.setWork 0 (f (Work.start (.ring 3 4) 1 0 (TaskDesc.ofBytes bringUp) 0))

/-- A completion ring in the Larder. -/
def larderRing (s : State) : State := { s with regs := s.regs ++ [(Reg.rgCq 3, 0x0001000000000000#64)] }

theorem witness_ClassZeroPageWrites :
    let s := { offered bringUp with disp := { (offered bringUp).disp with tokens := [(5, 1)] } }
    s.takesWrites 8 = true ∧ s.slots.activating = false ∧ s.ready = true ∧
      s.cfg.page 1 = .class0 5 1 ∧ plainBell.length = 64 ∧ s.badDoorbell (Doorbell.ofBytes plainBell) = false ∧
      s.disp.tokens.get 0 5 ≠ 0 ∧ (offered bringUp).disp.tokens.get 0 5 = 0 ∧ s.takesWrites (beatsOf 65) = true ∧
      s.cfg.page 2 = .none ∧ s.cfg.page 0 = .ring 3 ∧ (paged.ringEn 3 = false) ∧ s.host.waiting = [] ∧
      reservedBell false plainBell = false ∧ reservedBell true plainBell = false ∧
      reservedBell false (fit 64 (leBytes 8 (2 ^ 47))) = true := by decide +kernel

/-- Page 1 serves class 0, and the block is not ready: no image stands in its current slot. -/
theorem witness_ClassZeroPageWrites_early :
    let s := { on with cfg := paged.cfg }
    s.takesWrites 8 = true ∧ s.takesWrites 1 = true ∧ s.slots.activating = false ∧ s.ready = false ∧
      s.cfg.page 1 = .class0 5 1 ∧ s.cfg.page 0 = .ring 3 ∧ paged.ready = true ∧ paged.cfg.page 1 = .class0 5 1 := by
  decide +kernel

theorem witness_RingDoorbells :
    ringOn.takesWrites 1 = true ∧ ringOn.slots.activating = false ∧ ringOn.ready = true ∧ ringOn.cfg.page 0 = .ring 3 ∧
      ringOn.ringEn 3 = true ∧ posDiff 20 4 ≤ ringOn.ringSize 3 ∧ posDiff 10 4 ≤ posDiff 20 4 ∧
      posDiff 4 2 ≤ posDiff 4 2 ∧ ringOn.ringEn 0 = false ∧ ringOn.cfg.page 2 = .none := by decide +kernel

theorem witness_NoticeClear :
    on.takesWrites (beatsOf 8) = true ∧ (0xF : Nat) &&& ((rwMask Reg.obNotice ||| ownMask Reg.obNotice ||| w1cMask Reg.obNotice |||
      roMask Reg.obNotice) ^^^ (2 ^ 64 - 1)) = 0 ∧ aligned Reg.obNotice 4 = true ∧ aligned (Reg.saNotice 7) 8 = true ∧ w1cMask Reg.obNotice ≠ 0 ∧
      w1cMask (Reg.saNotice 7) ≠ 0 ∧ (on.array 7).stallPair = none ∧ (full on).targetFull = true ∧ (full on).targetOn = true ∧
      beatsOf 8 ≤ (full on).pwr.wcred := by decide +kernel

theorem witness_SoftwareAborts :
    (working id).work 0 = some (Work.start (.ring 3 4) 1 0 (TaskDesc.ofBytes bringUp) 0) ∧
      (working id).takesWrites 1 = true ∧ (working id).slots.activating = false ∧
      (working id).works.all (fun e => e.2.src != .ring 5 0) = true := by decide +kernel

theorem witness_PointersAndChannels :
    let s := { ready with mov := { ready.mov with chans := [(0, { Chan.init with st := .running, list := some 64 }),
      (1, { Chan.init with heads := List.replicate 4 ⟨0, none, none⟩ }), (2, { Chan.init with st := .stopping, stop := some 1 })] } }
    s.takesWrites 1 = true ∧ s.slots.activating = false ∧ posDiff 0 (s.reg Reg.obSinkPtr) ≤ posDiff (s.obs.prod % 2 ^ 32) (s.reg Reg.obSinkPtr) ∧
      posDiff (s.obs.prod % 2 ^ 32) (s.reg Reg.obSinkPtr) < posDiff 1 (s.reg Reg.obSinkPtr) ∧
      s.cnValid 255 = false ∧ 0x70000 &&& (rwMask (Reg.pwCn 255 + 0x10) ^^^ (2 ^ 64 - 1)) = 0 ∧
      (s.chan 0).st ≠ .idle ∧ (s.chan 0).heads.length < 4 ∧ 4 ≤ (s.chan 1).heads.length ∧ (s.chan 3).st = .idle ∧
      (s.chan 3).heads = [] ∧ (s.cfg.chan 0).porterOwned = false ∧ (s.chan 2).st = .stopping ∧ s.stopQuiet 2 = true ∧
      s.hostHas (fun o => o.reads 2) = false ∧ (s.chan 2).user = none ∧ (s.chan 2).gone = [] := by decide +kernel

/-- An Inventory area and a sink ring in the Store Room. -/
def watched : State :=
  readyWith fun c => { c with observe := { c.observe with snapBase := 0x20000000, sinkBase := 0x20100000, sinkLog2 := 4, flushUs := 1 } }

/-- `watched` with an Inventory in some state. -/
def snapped (st : SnapSt) : State := { watched with obs := { watched.obs with snap := { Snap.init with st := st } } }

theorem witness_InventoryAndTally :
    let it : Item := default
    let s := { watched with obs := { watched.obs with
      fifos := [(0, { Fifo.init with items := [it] }), (1, { Fifo.init with pending := [it] })] } }
    watched.takesWrites 1 = true ∧ watched.obs.snap.st = .idle ∧ watched.cfg.observe.snapBase ≠ 0 ∧ on.cfg.observe.snapBase = 0 ∧
      (snapped .done).obs.snap.st = .done ∧ (snapped .latching).obs.snap.st = .latching ∧ (snapped .latching).takesWrites 1 = true ∧
      (snapped .latching).obs.snap.waiting = [] ∧
      (snapped .sweeping).obs.snap.unacked = 0 ∧ s.cfg.observe.sinkBase ≠ 0 ∧ (s.fifo 0).pending = [] ∧
      (s.fifo 0).items ≠ [] ∧ s.cfg.observe.flushUs ≠ 0 ∧ s.sinkRoom = true ∧ (s.fifo 1).pending ≠ [] ∧
      s.inService (s.ownerAgent s.cfg.observe.sinkBase) = true := by decide +kernel

theorem witness_MailboxCommands :
    let s := { on with regs := [(Reg.mbArg, 0x0000004000000000#64)] }
    s.takesWrites 1 = true ∧ s.sk.mbBusy = none ∧ s.skOn = true ∧ fld (s.reg Reg.mbArg) 38 32 = 64 ∧
      { on with sk := { on.sk with skLost := true } }.skOn = false ∧
      { on with sk := { on.sk with mbBusy := some (2, 0) } }.sk.mbBusy.isSome = true := by decide +kernel

theorem witness_ConfigCommandsBegin :
    let s := { ready with
      regs := [(Reg.cfStageAddr, 0x0003000000000040#64)]
      slots := { ready.slots with stagedSt := .ready, attic := some [] } }
    s.takesWrites 1 = true ∧ activating.takesWrites 1 = true ∧ s.cfgBusy = false ∧ s.storeHome = true ∧ spaceOf (s.regFld Reg.cfStageAddr 51 0) = 3 ∧
      s.regFld Reg.cfStageAddr 51 0 % 64 = 0 ∧ s.slots.stagedSt = .ready ∧ s.slots.attic.isSome = true ∧
      s.slots.current.isSome = true ∧ on.cfgBusy = false ∧ on.slots.current = none ∧ activating.cfgBusy = true := by
  decide +kernel

theorem witness_ConfigCommandsBegin_digest :
    let s := { ready with slots := { ready.slots with current := some (zeros 512) } }
    s.slots.current.map (fun b => slice b 80 48) = some s.reqDigest := by decide +kernel

theorem witness_ConfigCommandsEnd :
    let cmd (c : CfgCmd) : State := { ready with slots := { ready.slots with cmd := some c } }
    (ready.chan 28).st = .idle ∧ (ready.chan 31).st = .idle ∧ (cmd ⟨1, false, 0, false⟩).slots.cmd = some ⟨1, false, 0, false⟩ ∧ (cmd ⟨2, true, 1, true⟩).skOn = true ∧
      (cmd ⟨2, true, 1, true⟩).slots.locks = [] ∧ (cmd ⟨2, true, 1, true⟩).mov.faults = [] ∧
      (cmd ⟨6, false, 3, false⟩).dropParked.drained = true ∧ ready.slots.wild = [] ∧ ready.slots.later = 0 ∧
      { ready with slots := { ready.slots with scrubbing := true } }.cfg.observe.mirrorBase = 0 := by decide +kernel

theorem witness_ManagementRequests :
    let r : Report := { (default : Report) with seq := 4294967295 }
    let s := { watched with sk := { watched.sk with reports := [r] }, slots := { watched.slots with stagedSt := .ready } }
    let key : Bytes := fit 200 (leBytes 1 1 ++ leBytes 1 3)
    s.skOn = true ∧ r.seq = (4294967295#32).toNat ∧ s.targetOn = true ∧ s.obs.snap.st = .idle ∧ s.cfgBusy = false ∧
      s.cfg.observe.snapBase ≠ 0 ∧ s.slots.stagedSt = .ready ∧ key.length = 200 ∧ leAt key 0 1 = 1 ∧ leAt key 1 1 = 3 ∧
      s.sk.hmac.length = 4 ∧ s.sk.signing.length = 4 ∧ s.sk.signing[3]? = some none := by decide +kernel

theorem witness_FirmwareUpdates :
    let u (x : Update) : State := { ready with sk := { ready.sk with update := x } }
    ready.sk.update.openFlag = false ∧ (u ⟨true, [1, 2], none, [], true⟩).sk.update.verified = true ∧
      (u ⟨true, [1, 2], none, [], true⟩).sk.update.cur = none ∧ ready.storeHome = true ∧ ready.cfgBusy = false ∧
      (u ⟨true, [1], some (1, 64), zeros 32, false⟩).sk.update.data.length + 32 = 64 ∧
      { ready with sk := { ready.sk with fresh := some 0, fwOk := [true, true] } }.sk.fresh = some 0 ∧
      ∀ c < 2, { ready with sk := { ready.sk with fresh := some 0, fwOk := [true, true] } }.sk.copyOk c = true := by
  decide +kernel

theorem witness_PorterMailboxes :
    let k := fun k : Work => { k with mailbox := 2 ^ 11, porters := 2 ^ 11 }
    let s := { working k with cfg := { (working k).cfg with porterImage := zeros 2048 } }
    let e : Mail := { (default : Mail) with work := 0, porter := 11 }
    let t := s.setPorter 11 { Porter.init with mail := [e] }
    bitOf ((s.work 0).map Work.mailbox |>.getD 0) 11 = true ∧ (s.mailOf 11).length < 4 ∧
      (s.porter (s.runner 11)).retired = false ∧ (t.porter 11).mail = [e] ∧ (t.porter 11).st = .idle ∧
      ((t.work 0).all fun k => t.cfg.entry (t.programOf k e) != 0xFFFFFFFF) = true := by decide +kernel

theorem witness_TasksComplete :
    let s := larderRing (working fun k => { k with ended := true, status := 2 })
    let a := s.cqAddr 3 + 32 * ((s.ring 3).cpl % s.ringSize 3)
    ((s.work 0).all fun k => k.parked == [] && !k.dead && !k.recordLost && s.quiet 0 k && !k.desc.isScore 3) = true ∧
      posDiff (s.ring 3).cpl (s.ring 3).cons < s.ringSize 3 ∧ spaceOf a = 1 ∧ s.allows (s.cfg.ringDomain 3) a 32 2 = true := by
  decide +kernel

/-- Work 1 is a class 0 request that has its answer. -/
def answered : State :=
  (offered bringUp).setWork 1 { Work.start (.class0 1 5) 0 0 (Doorbell.ofBytes plainBell).desc 0 with
    doorbell := some (Doorbell.ofBytes plainBell), answer := some (0, 1) }

theorem witness_TasksComplete_class0 :
    ((answered.work 1).all fun k => k.parked == [] && !k.dead && !k.ended && k.dataOut) = true ∧
      answered.targetOn = true := by decide +kernel

theorem witness_TasksComplete_statistics :
    let s := working fun k => { k with
      stats := some (Stats.init 64), shares := k.shares.map fun sh => { sh with count := 0, placed := true, released := true } }
    ((s.running 0).all fun k => k.bagsDone && !k.statsDone && k.unissued == 0 &&
      match s.scales 0 k.desc 64 with
      | (.bytes _, rs, s1) => !rs.any badRange && (s1.work 0 == some k)
      | _ => false) = true := by decide +kernel

theorem witness_DescriptorsAndTokens :
    let s := { larderRing ringOn with
      regs := [(Reg.rgSq 3, 0x0401000000001000#64), (Reg.rgCtl 3, 0x000F0001#64)]
      cfg := { ringOn.cfg with reserve := { ringOn.cfg.reserve with streams := [⟨1, 4⟩] } } }
    let w := { answered with disp := { answered.disp with overflow := [1], tokens := [(5, 1)] } }
    s.targetOn = true ∧ s.quiescing = false ∧ s.ringEn 3 = true ∧ (s.ring 3).fetched = [] ∧
      min 16 (posDiff (s.ring 3).prod (s.ring 3).fetch) ≠ 0 ∧
      ((List.range 10).all fun i => spaceOf (s.slotAddr 3 i) == 1 && s.reach (s.slotAddr 3 i) 128) = true ∧ s.cfg.reserve.streams[0]?.isSome = true ∧
      w.disp.tokens.get 0 5 ≠ 0 ∧ w.disp.overflow = [] ++ 1 :: [] ∧ w.host.waiting = [] ∧
      { w with host := { w.host with waiting := [.discard] } }.host.waiting = [.discard] ∧
      ((w.overflowLeave 5).targetFull = false) ∧
      ((w.work 1).all fun k => k.src == .class0 1 5) = true := by decide +kernel

/-! ### Engines and arrays -/

/-- The bring-up task with its first bag open, and its first index read as row 5. -/
def fetching : State := { working id with mem := [(0x2000, 5#8)] }

/-- Position i of a bag of work 0 can be taken, with its index x, at an engine position. -/
def mayTake (s : State) (i x pos : Nat) : Bool :=
  match s.bagRef 0 0, s.work 0 with
  | some (some g, s'), some k =>
    let b := k.bags.get default 0
    let p := g.r.start + i
    s' == s && k == g.k && i < g.r.len && !b.committed && g.sh.hasPos p && (b.taken.all fun t => t.pos != posId g.i p) &&
      (!k.desc.inOrder || b.taken.length == i) && k.link.isNone && k.desc.pool != .wsum && g.sh.desc.bagMode != 3 &&
      (match s.readIndex 0 g.sh p with | (.bytes ib, s') => s' == s && leNat ib == x | _ => false) &&
      s.routeIndex g (s.steering g b) x == some pos
  | _, _ => false

theorem witness_RowFetchIssue :
    mayTake fetching 0 5 0 = true ∧ mayTake fetching 7 0 0 = true ∧ mayTake fetching 8 0 0 = false ∧
      fetching.cfg.resolve table0 5 = .rows [(0, 5, 0x10000500)] ∧ (fetching.engine 0).lost = false ∧
      fetching.allows 0 0x10000500 256 1 = true ∧ (fetching.engine 0).freeSlot 1 0 = some 0 ∧
      fetching.freeSlots 0 1 ≠ 0 ∧ fetching.class0At 0 = false ∧ (fetching.engine 0).moving = false ∧ (fetching.engine 0).epoch < 256 ∧
      (fetching.link (fetching.ownerAgent 0x10000500)).st ≠ .down ∧
      (fetching.agent (fetching.ownerAgent 0x10000500)).noContents = false := by decide +kernel

/-- An index past the table's rows is invalid (R61). -/
theorem witness_RowFetchIssue_invalid : fetching.cfg.resolve table0 1024 = .invalid ∧
    fetching.cfg.resolve table0 1023 ≠ .invalid := by decide +kernel

/-- A fetch slot of the bring-up task at position 0. -/
def slot0 (f : FSlot → FSlot) : State :=
  fetching.setEngine 0 { Engine.init with slots := [(511, some (f { (default : FSlot) with
    addr := 0x10000500, row := 5, cls := 1, data := some (zeros 256) }))] }

theorem witness_RowReturn :
    ((slot0 id).engine 0).slots.get none 511 = some { (default : FSlot) with
      addr := 0x10000500, row := 5, cls := 1, data := some (zeros 256) } ∧
    ((slot0 id).engine 0).slots.get none 0 = none ∧ (slot0 id).tileOf 0 = some 0 ∧
    ((slot0 id).work 0).any (fun k => k.desc.kind == some .gather) = true ∧ (slot0 id).class0Row 0 = false ∧
    (((slot0 fun f => { f with dead := true }).engine 0).slots.get none 511).any FSlot.dead = true := by decide +kernel

theorem witness_RowReturn_sums :
    let td (code : Nat) : TableDesc := { table0 with fmtCode := code, hdr := true }
    let row (sum : Nat) : Bytes := fit 272 (leBytes 4 0x3F800000 ++ leBytes 4 0 ++ leBytes 4 sum)
    ((td 6).row (row 1)).badSum = true ∧ ((td 6).row (row 0)).badSum = false ∧
      ((td 0).row (row 1)).badSum = false := by decide +kernel

/-- A SCORE task of mode 0: queries of 64 elements in the Larder, which zero bytes fill. -/
def scoreTask : Bytes :=
  taskBytes [0xF0000012, 0x0000000800000008, 0, 0x2000, 0, 0x1000000000100, 0x1000000000000, 256, 0, 0, 0x0000004000000020]

/-- That task as work 0, with one candidate at array 0, which has taken some query bytes of sent packets. -/
def scoring (sent n : Nat) : State :=
  (offered scoreTask).setWork 0 { Work.start (.ring 3 4) 1 0 (TaskDesc.ofBytes scoreTask) 0 with
    bags := [(0, { (default : Bag) with
      mcast := if sent = 0 then [] else [(0, sent)], heard := if n = 0 then [] else [(0, zeros n)]
      taken := [⟨0, 5, 0, .rows [(0, 5, 0x10000500)], none⟩], cands := [⟨5, 0, 0, table0.row (zeros 256), none⟩] })] }

theorem witness_ArrayPasses_pass :
    let s := scoring 1 128
    (match (s.takePackets 0 1).bagRef 0 0 with
    | some (some g, s') => s' == s && s.running 0 == some g.k && g.scores && (g.k.bags.get default 0).due 0 &&
        s.hasQuery 0 0 0 g && !(g.k.bags.get default 0).committed && !s.linkFull (true, 0, 0)
    | _ => false) = true ∧ (s.array 0).retired = false ∧ s.issuing = true ∧ s.class0Pass 0 = false := by decide +kernel

theorem witness_ArrayPasses_multicast :
    let s := scoring 0 0
    (match s.bagRef 0 0 with
    | some (some g, s') => s' == s && s.work 0 == some g.k && g.scores && g.k.query.isNone && 0 < g.queryLen &&
        (s.receivers (g.k.bags.get default 0)).all (fun a => (g.k.bags.get default 0).mcast.get 0 a == 0) &&
        (s.receivers (g.k.bags.get default 0)) != [] && s.arr.mcast == [] &&
        (match g.query with
          | some (_, _, a) => (match s.workRead 0 a (min 256 g.queryLen) with
            | (.bytes _, s') => s' == s
            | _ => false)
          | none => false)
    | _ => false) = true := by decide +kernel

theorem witness_ArrayPasses_stall :
    let s := { (working id).setPorter 0 { Porter.init with st := .waitSem, pair := 1023 } with
      regs := [(Reg.saLimit 7, 1#64)], cfg := { ready.cfg with sems := [(1023, ⟨4, ⟨1, 0⟩, ⟨2, 0⟩⟩)] } }
    s.targetOn = true ∧ s.depth 1023 ≠ 0 ∧ s.regFld (Reg.saLimit 7) 15 0 ≠ 0 ∧ (s.sem 1023).stalled = false ∧ s.pairWaited 1023 = true := by
  decide +kernel

/-- INTERACT of 64 samples, two BF16 vectors each, in the Larder. -/
def interactTask : Bytes :=
  taskBytes [0xF0000012, 0, 64, 0x1000000000000, 0, 0, 0x1000000000000, 256, 0, 0, 0x0000004000040021, 0x0008000000000100]

theorem witness_SamplePasses_interact :
    let s := (offered interactTask).setWork 0 { Work.start (.ring 3 4) 1 0 (TaskDesc.ofBytes interactTask) 0 with
      bags := (List.range 32).filterMap fun i => if i = 0 then none else some (i, { (default : Bag) with committed := true }) }
    ((s.running 0).all fun k => k.desc.isScore 1 && k.desc.score.perPass == 32 && k.passDue 0 == [0] &&
      s.passArray 0 == 0 && (match s.inputsOf 0 k.desc k.desc.score.f (k.passDue 0) with
        | (some _, s') => s' == s
        | _ => false)) = true ∧
    (s.running 0).isSome = true ∧ s.class0Pass 0 = false := by decide +kernel

theorem witness_SamplePasses_project :
    let p : ProjSet := ⟨5, 0, 1, 2, 64, 64, [], []⟩
    let d := TaskDesc.ofBytes (taskBytes [0xF0000012, 0, 1, 0x1000000000000, 0, 0, 0x1000000000000, 256, 0, 0,
      0x0000004005000022, 0x100])
    let s := { (offered []).setWork 0 { Work.start (.ring 3 4) 1 0 d 0 with
        bags := [(0, { (default : Bag) with inp := some (vectorOfBytes .bf16 64 (zeros 128)) })] } with
      cfg := { (offered []).cfg with proj := [p] }
      arr := { ready.arr with batches := [⟨0, 0, 1, 0, 0⟩] } }
    s.cfg.projSet 5 = some p ∧ s.retiredIn p = none ∧ s.issuing = true ∧ s.class0Pass 0 = false ∧ s.dealBatches p = s ∧
      d.isScore 2 = true ∧ d.score.set = 5 ∧ (s.bagOf 0 0).inp.isSome = true ∧ p.steps = 1 := by decide +kernel

theorem witness_ResultPacketCommit :
    let row := table0.row (zeros 256)
    let s := working fun k => { k with
      desc := { k.desc with bagLen := 1 }
      shares := k.shares.map fun sh => { sh with desc := { sh.desc with bagLen := 1 }, count := 64 }
      bags := [(0, { (default : Bag) with
        taken := [⟨0, 5, 0, .rows [(0, 5, 0x10000500)], none⟩], arrivals := [⟨0, 0, none, row⟩] })] }
    (match s.assemble 0 0, s.work 0 with
    | some (.packet p _, d, lb, s'), some k => s' == s && k.doorbell.isNone && k.link.isNone && !d.sideEn &&
        spaceOf (d.result + lb * d.rstride) == 1 && s.allows k.domain (d.result + lb * d.rstride) p.data.length 2 && p.data != []
    | _, _ => false) = true ∧ s.class0Packet (some 0) = false ∧ (s.unit 0).faults < 2 ∧
      ((s.work 0).any fun k => s.unitsOf k 0 (k.bags.get default 0) == [0]) = true := by decide +kernel

/-! ### Porters -/

/-- Porter 0 runs work 0 from the first of some instruction words. -/
def porting (ws : List Nat) (f : Porter → Porter) : State :=
  let s := (working fun k => { k with porters := 1, raw := zeros 128 }).setPorter 0 (f { Porter.init with
    st := .running, cur := some ⟨0, none, 0, 0⟩, mail := [⟨0, none, 0, 0⟩] })
  { s with cfg := { s.cfg with porterImage := ws.flatMap (leBytes 4), sems := [(7, ⟨4, ⟨2, 0⟩, ⟨1, 0⟩⟩)] } }

/-- Porter 0 fetches x as the first word of a well-formed instruction. -/
def fetched (s : State) (x : Nat) : Bool :=
  match s.porterRuns 0 with
  | some (p, _, _) => s.insWord p.pc == some x && insOk x p.pc && !p.miss.any (insWaits x)
  | none => false

/-- One word with its MAJOR, D, A, B and FUNC (R356). -/
def word (major d a b func : Nat) : Nat := major * 2 ^ 26 + d * 2 ^ 21 + a * 2 ^ 16 + b * 2 ^ 11 + func

theorem witness_PorterScalar :
    ([0, 1, 2, 3, 4, 5, 6, 7, 8, 9, 10, 11, 12, 13].all fun f =>
      fetched (porting [word 0 31 1 2 f] id) (word 0 31 1 2 f)) = true ∧
    ([1, 2, 3, 4, 5, 6, 0x10, 0x11, 0x12, 0x13, 0x14, 0x15, 0x16, 0x17].all fun m =>
      fetched (porting [word m 1 2 0 8] id) (word m 1 2 0 8)) = true ∧
    fetched (porting [word 0 1 2 3 14] id) (word 0 1 2 3 14) = false := by decide +kernel

theorem witness_PorterFloatingPoint :
    ((List.range 15).all fun f => fetched (porting [word 0x18 1 2 3 f] id) (word 0x18 1 2 3 f) &&
      fetched (porting [word 0x18 1 2 3 (1024 + f)] id) (word 0x18 1 2 3 (1024 + f))) = true ∧
      (FFmt.fp32.decode 0x7FC00000).isNan = true := by decide +kernel

theorem witness_PorterLoads :
    let at_ (v : Nat) (p : Porter) : Nat := ({ p with g := p.g.set 1 v } : Porter).address (word 8 1 2 0 0)
    ([8, 9, 10, 11].all fun m => fetched (porting [word m 1 2 0 0] id) (word m 1 2 0 0)) = true ∧
      at_ (2 ^ 63) Porter.init = 2 ^ 63 ∧ at_ 0x1000000000000 Porter.init = 0x1000000000000 ∧
      (porting [] id).allows 0 0x1000000000000 8 1 = true ∧ (porting [] id).allows 0 0x2000 8 1 = true ∧
      (porting [] id).lostStack 0x2000 8 = none ∧ (porting [] id).lostStack 0x1000000000000 8 = none ∧
      ((List.range 16).foldl (fun s n => s.modAgent n fun a => { a with noContents := true }) (porting [] id)).lostStack 0x2000 8 ≠ none ∧
      spaceOf 0x2000 = 0 ∧ spaceOf 0x1000000000000 = 1 := by decide +kernel

theorem witness_PorterStores :
    ([12, 13, 14, 15].all fun m => fetched (porting [word m 1 2 0 0] id) (word m 1 2 0 0)) = true ∧
      (porting [] id).allows 0 0x1000000000000 8 2 = true ∧ (porting [] id).holdsRow 0x1000000000000 8 = false ∧
      (porting [] id).allows 0 0x2000 8 2 = true ∧ (porting [] id).checkStore 0 0 0x1000000000000 8 = porting [] id ∧
      ((porting [] id).setEngine 0 { Engine.init with placed := [⟨0x10000500, 0, 0, true, false⟩] }).holdsRow
        0x1000000000000 8 = true := by decide +kernel

theorem witness_PorterSystem :
    ([(0x19, 0), (0x19, 1), (0x19, 2), (0x19, 3), (0x1A, 0), (0x1A, 1), (0x1A, 2), (0x1A, 3), (0x1A, 4), (0x1B, 0),
      (0x1B, 1), (0x1B, 2)].all fun e => fetched (porting [word e.1 1 2 0 e.2] id) (word e.1 1 2 0 e.2)) = true ∧
      bitOf (word 0x19 1 2 16 1) 15 = true ∧ fetched (porting [word 0x19 1 2 16 1] id) (word 0x19 1 2 16 1) = true := by
  decide +kernel

theorem witness_PorterSystem_fill :
    let s := porting [] fun p => { p with st := .waitMiss, miss := some ⟨0x2000, 0x2004, 4, some 1, []⟩ }
    (s.porter 0).miss = some ⟨0x2000, 0x2004, 4, some 1, []⟩ ∧ (match s.porterRead 0 0 0x2000 64 with | .bytes _ => true | _ => false) = true ∧
      ((s.porter 0).lines.filter fun y => lineSet y.addr == lineSet 0x2000).length < 4 := by decide +kernel

theorem witness_PorterSystem_ticket :
    let s := (porting [] fun p => { p with st := .waitTicket, need := 15, tickets := p.tickets.set 15 (.running false) }).setWork 1
      { Work.start (.porter 0 0 15 none) 1 0 (TaskDesc.ofBytes bringUp) 0 with
        shares := [{ Share.whole (TaskDesc.ofBytes bringUp) with count := 0, placed := true, released := true }] }
    s.opsOf 0 15 = [1] ∧ (s.work 1).any (fun o => o.underTicket 0 15) = true ∧ (s.porter 0).cur = some ⟨0, none, 0, 0⟩ ∧ s.targetOn = true ∧
      ((s.work 1).any fun o => o.launcher == some 0 && o.opDone && !o.desc.isScore 3) = true := by
  decide +kernel

/-- A wide instruction with its UNIT and OP, TD = 1, GA = 2 and GB = 3 (R362, R363). -/
def wideWords (unit op : Nat) : List Nat := (0x3F * 2 ^ 26 + unit * 2 ^ 23 + op * 2 ^ 20 + 2 ^ 15 + 2 * 2 ^ 10 + 3 * 2 ^ 5) :: List.replicate 7 0

theorem witness_PorterLaunches :
    ([(0, 0), (0, 1), (1, 0), (2, 0), (2, 1), (2, 2), (3, 0), (3, 1), (3, 2), (3, 3)].all fun e =>
      let x := (wideWords e.1 e.2).headD 0
      let s := porting (wideWords e.1 e.2) id
      fetched s x && insMajor x == 0x3F && wideUnit x == e.1 && wideOp x == e.2 && 32 ≤ s.cfg.porterImage.length &&
        (s.porter 0).unacked == 0) = true ∧
      Porter.init.tickets.findIdx? (· == .free) = some 0 := by decide +kernel

theorem witness_PorterLaunches_descriptor :
    let s := { porting (wideWords 0 1) fun p => { p with g := p.g.set 1 0x3000 } with
      mem := (List.range 128).map fun i => (0x3000 + i, bringUp.getD i 0#8) }
    let raw := s.load 0x3000 128
    s.allows 0 0x3000 128 1 = true ∧ s.reach 0x3000 128 = true ∧ s.lostStack 0x3000 128 = none ∧ reservedTask raw = false ∧
      (TaskDesc.ofBytes raw).kind = some .gather ∧ s.badGatherTask (TaskDesc.ofBytes raw) = false ∧
      (TaskDesc.ofBytes raw).prep = false := by decide +kernel

theorem witness_PorterLaunches_owned :
    let s := { porting [] id with cfg := { (porting [] id).cfg with channels := [⟨0, true, 0⟩] } }
    (s.cfg.chan 0).porterOwned = true ∧ (s.cfg.chan 0).porter = 0 ∧ (s.chan 0).heads.length < 4 := by decide +kernel

theorem witness_PorterSemaphores :
    let s := (porting (wideWords 3 0) id).setSem 7 ⟨2, 2, false⟩
    s.depth 7 = 4 ∧ (s.sem 7).fill + (s.sem 7).space = s.depth 7 ∧ 1 ≤ (s.sem 7).space ∧ (s.sem 7).space < 3 := by
  decide +kernel

theorem witness_PorterSemaphores_waits :
    let s := (porting (wideWords 3 2) fun p => { p with st := .waitSem, pair := 7, need := 2 }).setSem 7 ⟨2, 0, true⟩
    (s.porter 0).st = .waitSem ∧ ((s.insWord (s.porter 0).pc).map wideOp) = some 2 ∧ (s.porter 0).need ≤ (s.sem 7).fill := by
  decide +kernel

/-! ### Stream programs -/

/-- The bring-up task with a stream program of some words, at a stream unit. -/
def streaming (ws : List Nat) (u : StreamU) (f : Share → Share) : State :=
  let d := TaskDesc.ofBytes (taskBytes [0xF0000610, 0x0000000000000040, 8, 0x2000, 0x3000, 0, 0x1000000000000, 256])
  let s := working fun k => { k with shares := [f { Share.whole d with stream := u, placed := true, released := true }] }
  { s with cfg := { s.cfg with programs := [ws] } }

/-- The instruction x stands at the stream unit's place. -/
def streamed (s : State) (x : Nat) : Bool :=
  match (s.running 0).bind Work.programShare with
  | some (0, sh) => match s.program sh with
    | some p => p.getD sh.stream.pc 0 == x
    | none => false
  | _ => false

theorem witness_StreamProgram :
    ((List.range 10).all fun op => streamed (streaming [op * 2 ^ 28] .init id) (op * 2 ^ 28)) = true ∧
      streamed (streaming (List.replicate 16 0x2C0FFFFF) { StreamU.init with pc := 15 } id) 0x2C0FFFFF = true := by
  decide +kernel

/-- SETA of INDEX, ADDA by −1 at 1 and at 0, LOOP with its NEXT, and an open level (R85 to R87). -/
theorem witness_StreamProgram_operands :
    let sh : Share := Share.whole (TaskDesc.ofBytes bringUp)
    sh.source 0 = some 0x2000 ∧ sh.source 8 = some 0 ∧ sh.source 9 = none ∧
      (1 : Int) + sext 20 0xFFFFF = 0 ∧ (0 : Int) + sext 20 0xFFFFF < 0 ∧
      matchNext [0x30000002, 0x50000000, 0x40000000] 0 0 = some 2 ∧ fld 0x30000002 22 0 = 2 := by decide +kernel

theorem witness_StreamProgram_emits :
    let u : StreamU := { StreamU.init with a := [0x1000000000000, 0, 0, 0], canWgt := true, loops := [(0, 2, 1)] }
    let s := streaming [0x70000004] u fun sh => { sh with emits := [⟨0x2000, none⟩] }
    streamed s 0x70000004 = true ∧ s.near 0x1000000000000 ∧ s.allows 0 0x1000000000000 4 1 = true ∧
      s.lostStack 0x1000000000000 4 = none ∧
      ((s.shareAt 0 0).any fun sh => sh.emits.length == 1 && sh.desc.indexCount == 64 && sh.count == 8 && sh.closed == []) = true := by
  unfold State.near; decide +kernel

/-! ### The mover -/

/-- Channel 2 with a list, and every domain allowed everything. -/
def moving (c : Chan) : State :=
  { ready with
    cfg := { ready.cfg with domains := [⟨7, true, true, [(0, 7), (1, 7), (2, 7)]⟩] }
    mov := { ready.mov with chans := [(2, c)] } }

/-- A mover descriptor: MD_CTL, source, destination, next and counts of a run of 8-byte elements. -/
def moverBytes (ctl src dst next n : Nat) : Bytes :=
  fit 64 (leBytes 8 ctl ++ leBytes 8 src ++ leBytes 8 dst ++ leBytes 8 next ++ leBytes 8 (n - 1) ++ leBytes 4 8 ++
    zeros 8 ++ leBytes 4 8)

/-- COPY, FILL and NOP of 8-byte elements; the last of their lists. -/
def moverCtl (op : Nat) : Nat := op + 2 ^ 9 + 3 * 2 ^ 10

theorem witness_MoverDescriptors :
    let s := moving { Chan.init with st := .running, list := some 0x4000 }
    let c := s.chan 2
    s.targetOn = true ∧ c.st = .running ∧ c.list = some 0x4000 ∧ c.reading = none ∧ c.ahead.length < 2 ∧ spaceOf 0x4000 ≤ 1 ∧ s.reach 0x4000 64 = true ∧
      s.allows (s.chanDomain 2) 0x4000 64 1 = true ∧ (s.chan 28).st = .idle ∧ s.sk.up = true ∧ s.sk.skLost = false := by
  decide +kernel

theorem witness_MoverDescriptors_start :
    ([0, 1, 2].all fun op =>
      let d := MoverDesc.ofBytes (moverBytes (moverCtl op) 0x1000000000000 0x1000000001000 0 32)
      !d.bad && d.op == op && !reservedMover (moverBytes (moverCtl op) 0x1000000000000 0x1000000001000 0 32) && d.last && d.c0 * d.c1 * d.c2 == 32) = true ∧
    (MoverDesc.ofBytes (moverBytes 3 0 0 0 1)).bad = true := by decide +kernel

/-- A COPY reads what an earlier descriptor wrote with no barrier between (R247). -/
theorem witness_MoverDescriptors_overlap :
    let d := MoverDesc.ofBytes (moverBytes (moverCtl 0) 0x1000000000000 0x1000000001000 0 32)
    let s := moving { Chan.init with st := .running, since := d.srcs }
    d.overlaps [] = false ∧ d.overlaps (s.chan 2).since = true ∧ (s.chan 2).broken = false ∧ s.worksHit d.dests = [] ∧
      s.listsHit 2 d.dests = [] ∧ spaceOf d.src = 1 := by decide +kernel

theorem witness_MoverDescriptors_complete :
    let d := MoverDesc.ofBytes (moverBytes (moverCtl 0 + 2 ^ 7 + 2 ^ 8 + 5 * 2 ^ 32) 0x1000000000000 0x1000000001000 0 32)
    let s := moving { Chan.init with st := .barrier, cur := some d, iter := 32 }
    d.irq = true ∧ d.barrier = true ∧ d.tag = 5 ∧ d.total ≤ (s.chan 2).iter ∧ s.chanQuiet 2 = true := by decide +kernel

/-- Channel 2 has a COPY or a FILL of 256 bytes between Larder addresses to issue. -/
def bursting (op : Nat) : State :=
  moving { Chan.init with
    st := .running, cur := some (MoverDesc.ofBytes (moverBytes (moverCtl op) 0x1000000000000 0x1000000001000 0 32)) }

theorem witness_MoverBursts :
    ([0, 1].all fun op =>
      let s := bursting op
      s.targetOn && ((List.range 32).all fun i => s.settleChan i == s) && (s.chan 2).reads == [] &&
        s.burstsInFlight < 256 && s.grantChan == some 2 && s.grantCold.isNone && (match s.nextBurst 2 with
          | some (d, b) => d.op == op && b.dsts == [(0x1000000001000, 256)] && b.bytes == 256 &&
              b.srcs == (if op = 0 then [(0x1000000000000, 256)] else [])
          | none => false)) = true := by decide +kernel

/-- A cold fetch of 100 bytes of space 0x2, whose page the translation copy table holds. -/
def coldFetch : Cold := ⟨2 ^ 15 + 2 * 2 ^ 9 + 7, 1, 0x2000000010040, 100, 0⟩

/-- A page of 256 MiB of space 0x2, PASID 7, from virtual address 0. -/
def page2 : TcEnt := { (default : TcEnt) with space := 2, pasid := 7, pa := 0x50000000, r := true, w := true, touch := 9 }

theorem witness_MoverBursts_cold :
    let s0 := moving Chan.init
    let s := { s0 with mov := { s0.mov with cold := [coldFetch], tc := [(3, some page2)] } }
    s.targetOn = true ∧ ((List.range 32).all fun i => s.settleChan i == s) = true ∧
      s.grantCold = some coldFetch ∧ s.grantChan = none ∧ coldFetch.granules = (0x2000000010040, 128) ∧
      hostRanges 0x2000000010040 128 = [(0x2000000010040, 128)] ∧
      s.tcFind (s.cfg.domain 0).pasid 2 0x10040 = some (3, page2) := by decide +kernel

theorem witness_MoverBursts_overwrites :
    let s := (bursting 0).setEngine 0 { Engine.init with placed := [⟨0x10000500, 0, 16, true, false⟩] }
    s.holdsRow 0x1000000001000 256 = true ∧ s.chanDomain 2 ≠ 16 := by decide +kernel

theorem witness_MoverBursts_return :
    let x : FSlot := { (default : FSlot) with addr := coldFetch.addr, epoch := 1, data := none }
    let s0 := moving Chan.init
    let s := { s0 with mov := { s0.mov with flight := [⟨coldFetch, 0, [(0x2000000010040, zeros 128)], false⟩] } }.setEngine 2
      { Engine.init with epoch := 1, slots := [(7, some x)] }
    s.mov.flight = [] ++ ⟨coldFetch, 0, [(0x2000000010040, zeros 128)], false⟩ :: [] ∧
      (s.engine (fld coldFetch.tag 14 9)).slots.get none (fld coldFetch.tag 8 0) = some x ∧
      fld coldFetch.tag 22 15 = 1 ∧ x.joined = false ∧ s.targetOn = true := by decide +kernel

/-! ### Translation and promotion -/

/-- A read of 64 bytes in page 0 that waits for its walk. -/
def waiter : Access := { (default : Access) with own := .work 0, addr := 0x2000000000040, len := 64 }

/-- A fault of that page. -/
def fault2 (walking stale : Bool) : FaultEnt := ⟨walking, stale, 7, 2, 0, [waiter]⟩

/-- Fault entry 31 stands. -/
def faulting (f : FaultEnt) : State :=
  let s := moving Chan.init
  { s with mov := { s.mov with faults := [(31, some f)] } }

theorem witness_TranslationAndPromotion_walk :
    let s := faulting (fault2 true false)
    (faulting (fault2 false false)).faultEnt 31 = some (fault2 false false) ∧ s.faultEnt 31 = some (fault2 true false) ∧
      s.mov.faults = [(31, some (fault2 true false))] ∧ s.mov.port = [] ∧ s.tcPlace = some 0 ∧ s.sk.up = true ∧
      s.sk.skLost = false ∧ s.targetOn = true ∧ (s.cfg.domain waiter.domain).pasid = 7 ∧ spaceOf waiter.addr = 2 ∧
      waiter.addr % 2 ^ 48 / 2 ^ 28 * 2 ^ 28 = 0 ∧ s.mov.tc = [] := by decide +kernel

theorem witness_TranslationAndPromotion_invalidations :
    let s := { faulting (fault2 true false) with mov := { (faulting (fault2 true false)).mov with
      tc := [(3, some page2), (4, some { page2 with pasid := 8 })], invals := [([page2], 5)] } }
    inScope (.pasid 7#20) 7 2 0 (2 ^ 28) = true ∧ inScope (.pasid 7#20) 8 2 0 (2 ^ 28) = false ∧
      inScope (.range 7#20 2 (2 ^ 28) 1) 7 2 0 (2 ^ 28) = false ∧ inScope (.range 7#20 2 (2 ^ 28 - 1) 1) 7 2 0 (2 ^ 28) = true ∧
      s.invalBusy [page2] 5 = false ∧ s.mov.invals = ([page2], 5) :: [] := by decide +kernel

/-- A promotion pool of two small frames and one page that may be promoted. -/
def promoting (fs : Tab FrameSt) : State :=
  let s := moving Chan.init
  { s with
    cfg := { s.cfg with
      trans := { s.cfg.trans with frames256M := 2, poolBase := 0x40000000, promoThreshold := 9 } }
    mov := { s.mov with tc := [(1023, some page2)], frames := fs } }

theorem witness_TranslationAndPromotion_start :
    let s := promoting []
    s.tcEnt 1023 = some page2 ∧ s.skOn = true ∧ s.targetOn = true ∧ s.quiescing = false ∧ s.hotPage page2 = true ∧
      1 ∈ s.cfg.framesOf false ∧ 2 ∉ s.cfg.framesOf false ∧ s.frame 1 = .free ∧
      s.levelAt (1 + stackOf (s.cfg.frameAddr 1)) < 2 ∧ s.cfg.frameAddr 1 < 2 ^ 52 ∧ (s.chan 29).st = .idle := by
  decide +kernel

theorem witness_TranslationAndPromotion_frames :
    let s := promoting [(0, .held page2.promo), (1, .copying page2.promo 29), (2, .draining)]
    s.mov.frames.find? (fun x => x.2.copies) = some (1, .copying page2.promo 29) ∧ s.frameWritten 1 = false ∧ s.levelAt (1 + stackOf (s.cfg.frameAddr 1)) < 3 ∧ s.frame 0 = .held page2.promo ∧
      s.frame 2 = .draining ∧ s.frameWritten 2 = false ∧ s.eng.engines = [] := by decide +kernel

/-! ### The Host Port -/

theorem witness_HostEpochRises :
    let s := { ready with host := ⟨65535, true, true, true, []⟩ }
    s.targetOn = true ∧ s.host.waiting = [] ∧ s.host.rstN = true ∧ s.host.linkUp = true ∧
      ¬ (ready.host.rstN = true ∧ (false : Bool) = false) := by decide +kernel

/-- A read of 64 bytes in class 1, of work 0. -/
def hostRead (own : Owner) : HiReq := ⟨.read, own, 1, 0, 0x2000000000040, 0x50000040, 64, [], 0, false⟩

/-- Host Port channel 3 has some credits, a queue and a request in flight. -/
def hostChan (q : List HiReq) (i : Nat) (f : Option HiReq) : State :=
  let s := working id
  { s with host := ⟨0, true, true, true, []⟩, hi := [(3, ⟨1, 8, q, [(i, f)]⟩)] }

theorem witness_InitiatorRequests :
    let s := hostChan [hostRead (.work 0)] 0 none
    s.targetOn = true ∧ s.host.portUp = true ∧ (s.hiChan 3).credits ≠ 0 ∧
      ((s.heads [] (s.hiChan 3).queue).filter fun r => decide (r.beats ≤ (s.hiChan 3).beats)) ≠ [] ∧
      ((s.hiChan 3).freeId 0).isSome = true ∧ ((s.hiChan 3).freeId 1024).isSome = true := by decide +kernel

theorem witness_InitiatorAnswers :
    ([Owner.work 0, .descr 3 4, .cold coldFetch.tag].all fun own =>
      ((hostChan [] 1023 (some (hostRead own))).hiChan 3).flight.get none (1023#10).toNat == some (hostRead own)) = true ∧
    ((hostChan [] 2047 (some { hostRead (.result 0) with ty := .writePc })).hiChan 3).flight.get none (1024 + (1023#10).toNat) =
      some { hostRead (.result 0) with ty := .writePc } ∧
    ((hostChan [] 0 none).work 0).any (fun k => !k.ended) = true ∧ (hostRead (.work 0)).old = false := by decide +kernel

/-! ### The Peer Ports -/

/-- A peer datagram: type, connection, PSN, acknowledgement, window and offset, AUX and data. -/
def datagram (ty conn psn ack win off aux : Nat) (data : Bytes) : PeerRx :=
  let h := leBytes 2 (1 + 16 * ty) ++ leBytes 2 conn ++ leBytes 4 psn ++ leBytes 4 ack ++ leBytes 4 0 ++
    leBytes 8 (off + win * 2 ^ 40) ++ leBytes 2 data.length ++ leBytes 2 aux
  ⟨0x0A000002, false, 4791, 4791, false, h ++ leBytes 4 (crc32c (h ++ zeros 4 ++ data)).toNat ++ data⟩

/-- The Peer Ports are on, connection 255 is valid on port 1, and window 7 is open to it at stack address 0x1000. -/
def peering (k : Conn) : State :=
  let s := moving { Chan.init with st := .running }
  { s with
    regs := [(Reg.pwCtl, 1#64), (Reg.pwCn 255, 0x0A000002#64), (Reg.pwCn 255 + 0x10, 0x12B70005#64),
      (Reg.pwIb 7, 0xFF70000000001000#64), (Reg.pwIb 7 + 8, 0x3F#64)]
    peer := ⟨[(255, k)], []⟩ }

/-- A packet of a type is taken in the state. -/
def takes (s : State) (k : PeerRx) (ty : Nat) : Bool :=
  s.peerOn && s.dropCause 1 k == none && (PeerHdr.ofBytes k.payload).ty == ty && !s.quiescing && s.sourceOk k

theorem witness_PeerDataAndTimers_new :
    let s := peering Conn.init
    takes s (datagram 0 255 0 0 7 0 0 (zeros 16)) 0 = true ∧ takes s (datagram 0 255 255 0 7 0 0 (zeros 16)) 0 = true ∧
      Conn.init.recorded 0 = false ∧ posDiff 255 Conn.init.exp < 256 ∧
      (match s.inWindow 255 7 0 16 2 with | .ok (0, 0x1000) => true | _ => false) = true ∧
      (match s.inWindow 255 7 48 16 1 with | .ok (0, 0x1030) => true | _ => false) = true ∧
      (match s.inWindow 255 7 49 16 2 with | .error 2 => true | _ => false) = true ∧
      (match s.inWindow 255 6 0 16 2 with | .error 1 => true | _ => false) = true := by decide +kernel

theorem witness_PeerDataAndTimers_response :
    let s0 := peering { Conn.init with reads := [⟨9, 2, some 0, 0x8000000000000, 16⟩] }
    let s := s0.setChan 2 { Chan.init with st := .running, nextRead := 1, reads := [⟨0, [(0x8000000000000, 16)],
      [(0x1000000000000, 0, 16)], 0, 0, 1, 0, none, 0, []⟩] }
    takes s (datagram 2 255 0 0 0 0 9 (zeros 16)) 2 = true ∧ (s.chan 2).reads.length = 1 ∧
      (s.conn 255).reads.filter (fun x => x.id == 9) = [⟨9, 2, some 0, 0x8000000000000, 16⟩] ∧
      s.allows 0 0x1000000000000 16 2 = true := by decide +kernel

/-- A packet that connection 255 has sent. -/
def sentPkt (psn : Nat) : Sent := ⟨psn, 0, 0, 16, 0, none, zeros 16, some (2, 0x8000000000000), none, 1, true, false⟩

theorem witness_PeerDataAndTimers_timers :
    let s := peering { Conn.init with next := 1, sent := [sentPkt 0], since := 15, expiries := 7 }
    let t := { s with peer := ⟨s.peer.conns, [(1, { PeerPort.init with queue := [⟨2, 255, [], some 0, none⟩] })]⟩ }
    s.peerOn = true ∧ s.cnValid 255 = true ∧ (s.conn 255).since ≠ 0 ∧ { s.conn 255 with owes := true }.owes = true ∧ (s.conn 255).sent ≠ [] ∧ s.queuedPsn 255 0 = false ∧
      (t.port 1).queue.find? (fun y => y.kind == 2) = some ⟨2, 255, [], some 0, none⟩ ∧
      (t.conn 255).sent.find? (fun z => z.psn == 0) = some (sentPkt 0) := by decide +kernel

theorem witness_PeerControlPackets :
    let s := peering { Conn.init with exp := 1, una := 0, next := 2, sent := [sentPkt 0, sentPkt 1] }
    takes s (datagram 3 255 0 1 0 0 0 []) 3 = true ∧ psnBefore (s.conn 255).una 1 = true ∧
      takes s (datagram 4 255 0 1 0 0 1 []) 4 = true ∧ (s.conn 255).sent.find? (fun y => y.psn == 1) = some (sentPkt 1) ∧
      (s.chan 2).st ≠ .idle ∧ (sentPkt 1).ty ≠ 1 ∧ s.dropCause 1 { datagram 3 255 0 1 0 0 0 [] with err := true } = some 5 ∧
      s.dropCause 1 { datagram 3 255 0 1 0 0 0 [] with payload := [] } = some 6 ∧
      s.dropCause 1 (datagram 5 255 0 1 0 0 0 []) = some 7 ∧
      s.sourceOk { datagram 0 255 0 0 7 0 0 (zeros 16) with srcPort := 4790 } = false := by decide +kernel

theorem witness_PeerControlPackets_duplicate :
    let s := peering { Conn.init with exp := 1 }
    takes s (datagram 0 255 0 0 7 0 0 (zeros 16)) 0 = true ∧ (s.conn 255).recorded 0 = true ∧
      (s.conn 255).una = 0 ∧ (s.conn 255).sent = [] := by decide +kernel

/-- A management packet signed with an all-zero key. -/
def signedPkt : PeerRx :=
  let head := leBytes 2 (1 + 16 * 8) ++ leBytes 2 255 ++ zeros 20 ++ leBytes 2 49 ++ leBytes 2 0
  let body := leBytes 8 0 ++ leBytes 8 5 ++ [0xAA#8]
  let data := body ++ hmacSha256 [] (head ++ body)
  ⟨0x0A000002, false, 4791, 4791, false, head ++ leBytes 4 (crc32c (head ++ zeros 4 ++ data)).toNat ++ data⟩

set_option maxRecDepth 100000 in
theorem witness_PeerControlPackets_management :
    let s0 := peering Conn.init
    let s := { s0 with sk := { s0.sk with hmac := [some ([], 4), none, none, none] } }
    s.mgmtCheck signedPkt = some (0, 5, [0xAA#8]) ∧
      { s with sk := { s.sk with hmac := [some ([], 5), none, none, none] } }.mgmtCheck signedPkt = none ∧
      (PeerHdr.ofBytes signedPkt.payload).ty = 8 ∧ s.dropCause 1 signedPkt = none ∧ s.sourceOk signedPkt = true := by
  decide +kernel

/-! ### Links -/

/-- A state with agent 5's link changed. -/
def linked (f : Link → Link) : State := ready.setLink 5 (f (ready.link 5))

theorem witness_LinkStates_training :
    let s := linked fun l => { l with st := .down, step := .exchange, exchanged := true }
    (linked fun l => { l with st := .down }).bothUp 5 = true ∧ (linked fun l => { l with st := .down }).link 5 = { ready.link 5 with st := .down } ∧
      s.bothUp 5 = true ∧ (s.link 5).step ≠ .idle ∧ (s.link 5).exchanged = true ∧
      popcount 52 (0xFFFFFFF#52).toNat = 28 ∧ popcount 52 (0x1FFFFFFF#52).toNat = 29 ∧ popcount 52 (0xF#52).toNat = 4 ∧
      (s.agent 5).marker = none := by decide +kernel

theorem witness_LinkStates_retraining :
    let s := linked fun l => { l with out := { l.out with replays := 8 }, inb := { l.inb with failed := 3 } }
    s.linkRuns 5 = true ∧ 8 ≤ (s.dir 5 .out).replays ∧ 3 ≤ (s.dir 5 .inb).failed ∧ bitOf (s.dir 5 .out).bad 51 = false ∧
      (s.link 5).up = true ∧ (linked fun l => { l with st := .retrain }).bothUp 5 = true ∧ s.sk.up = true ∧
      s.sk.skLost = false := by decide +kernel

/-- An RD of 64 bytes of stack 2's agent 5, with a tag of position 2, slot 7 and epoch 1. -/
def rdMsg (addr : Nat) : Msg := ⟨1, 1, 1, 0, 64, coldFetch.tag, addr, []⟩

theorem witness_FlitSlots :
    let q (f : LinkDir → LinkDir) : State := linked fun l => { l with out := f l.out }
    let flit := zeros 272
    (q id).linkRuns 5 = true ∧ (q id).sender 5 .out = true ∧ (q id).sender 5 .inb = true ∧
      (q fun d => { d with resend := 128, retry := List.replicate 128 ⟨flit, [], false⟩ }).link 5 ≠ (q id).link 5 ∧
      ((q fun d => { d with streams := [[1#8], [], []], slot := 30 }).dir 5 .out).streams ≠ [[], [], []] ∧
      ((q fun d => { d with slot := 31 }).dir 5 .out).slot = 31 := by decide +kernel

theorem witness_FlitSlots_messages :
    let m (o : Nat) : OutMsg := ⟨rdMsg (2 ^ 38 + o), .none⟩
    let s := linked fun l => { l with out := { l.out with queue := [m 0, m 64], credits := [512, 3072, 6144, 128] } }
    s.linkRuns 5 = true ∧ ((s.dir 5 .out).queue.filter fun x => x.msg.vc == 1) = m 0 :: [m 64] ∧
      s.packs [m 0, m 64] = true ∧ s.packs [m 0] = false ∧ (s.dir 5 .out).ready 0 = false ∧
      (s.dir 5 .out).mayStart 1 1 (packMsg [m 0, m 64]).units = true ∧ (s.dir 5 .out).mayStart 1 1 (m 0).msg.units = true ∧
      (s.linkHeads .out 1 [m 0, m 64]).take 1 = [m 0] ∧ s.linkHeads .inb 1 [m 0, m 64] = [m 0] ∧
      ((List.range 4).all fun v => s.packGroup [m 0, m 64] 2 v == [m 0, m 64]) = true ∧ LinkDir.init.mayStart 1 1 (m 0).msg.units = false ∧
      { s.dir 5 .out with queue := [⟨{ (m 0).msg with vc := 0 }, .none⟩, m 64] }.ready 0 = true := by decide +kernel

/-- A flit of a type and SEQ: header, payload and its CRC. -/
def flit (ty seq : Nat) : Bytes :=
  let b := fit 264 (leBytes 8 (ty + seq * 2 ^ 4))
  b ++ leBytes 8 (crc64 b).toNat

set_option maxRecDepth 100000 in
theorem witness_FlitReception :
    ([0, 1, 2, 3].all fun ty =>
      let s := linked fun l => { l with inb := { l.inb with wire := [⟨flit ty 0, [], false⟩] } }
      s.linkRuns 5 && (s.dir 5 .inb).wire == [⟨flit ty 0, [], false⟩] && flitOk (flit ty 0) && (FHdr.ofBytes (flit ty 0)).ty == ty &&
        (FHdr.ofBytes (flit ty 0)).seq == 0 && xorBytes (flit ty 0) [] == flit ty 0 &&
        !flitOk (xorBytes (flit ty 0) [1#8]) && (s.dir 5 .inb).partials.length == 4 &&
        (s.dir 5 .out).credits.length == 4 && (takeMsgs 256 (slice (flit ty 0) 24 240)).1.all fun m => m.vc != 3) = true ∧
    ((linked fun l => { l with inb := { l.inb with waiting := true } }).dir 5 .inb).waiting = true := by decide +kernel

/-! ### Memory agents -/

/-- Message m has been delivered on agent 5's link, in a direction. -/
def delivered (s : State) (d : Dir) (m : Msg) : State :=
  s.setLink 5 (match d with
    | .out => { s.link 5 with out := { (s.link 5).out with inbox := [m] } }
    | .inb => { s.link 5 with inb := { (s.link 5).inb with inbox := [m] } })

/-- Agent 5 takes a message of a type and channel. -/
def atAgent5 (s : State) (m : Msg) : Bool := s.agentOn 5 && s.peek 5 .out m.vc m.mtype == some m

/-- The Farnum die takes one. -/
def fromAgent5 (s : State) (m : Msg) : Bool :=
  s.targetOn && (s.link 5).st != .down && s.peek 5 .inb m.vc m.mtype == some m

/-- `ready` with agent 5 changed. -/
def agent5 (f : Agent → Agent) : State := ready.setAgent 5 (f (ready.agent 5))

theorem witness_AgentReadsAndWrites :
    let rd := rdMsg (2 ^ 38)
    let pack : Msg := packMsg [⟨rdMsg (2 ^ 38), .none⟩, ⟨rdMsg (2 ^ 38 + 64), .none⟩]
    let wr : Msg := ⟨3, 2, 2, 0, 16, 9, 2 ^ 38, zeros 16⟩
    let fl : Msg := ⟨4, 1, 1, 0, 0, 9, 0, []⟩
    let lost := agent5 fun a => { a with lost := [2 ^ 38 + 63] }
    ([rd, { rd with flags := 1 }, pack, wr, fl].all fun m => atAgent5 (delivered ready .out m) m) = true ∧
      ([rd, pack, wr].all fun m => m.rows.all fun r => !(delivered ready .out m).class0Waits 5 r.1 r.2) = true ∧
      (ready.agent 5).full = false ∧ (ready.agent 5).behind rd = false ∧ (ready.agent 5).behind wr = false ∧ (lost.agent 5).lostIn (2 ^ 38) 64 = true ∧
      (lost.agent 5).lostIn (2 ^ 38) 63 = false ∧
      ((packEntries pack.body).all fun e => !(ready.agent 5).lostIn e.1 (e.2.1 % 2 ^ 15) && !bitOf e.2.1 15) = true ∧
      (delivered ready .out fl).writesBefore 5 = false := by decide +kernel

theorem witness_AgentHoldsAndAnswers_holds :
    let rd := rdMsg (2 ^ 38)
    let s := delivered ready .out rd
    let h := agent5 fun a => { a with hold := [⟨rd⟩] }
    s.agentOn 5 = true ∧ (s.dir 5 .out).inbox.find? (fun x => x.vc == 1) = some rd ∧ (s.agent 5).full = false ∧
      (h.agent 5).hold = [⟨rd⟩] ∧ h.agentOn 5 = true ∧ s.class0Waits 5 (2 ^ 38) 64 = false ∧ rd.mtype = 1 ∧ bitOf rd.flags 0 = false ∧
      (h.agent 5).behind rd = true ∧ rd.meets rd = true ∧ rd.first = false ∧
      rd.meets (rdMsg (2 ^ 38 + 64)) = false := by decide +kernel

theorem witness_AgentHoldsAndAnswers_answers :
    let x : FSlot := { (default : FSlot) with epoch := 1, data := none }
    let e := ready.setEngine 2 { Engine.init with epoch := 1, slots := [(7, some x)] }
    let rsp : Msg := ⟨0x11, 1, 1, 0, 64, coldFetch.tag, 2 ^ 38, zeros 64⟩
    let body := leBytes 4 coldFetch.tag ++ leBytes 2 16 ++ zeros 10 ++ zeros 16
    let pack : Msg := ⟨0x12, 1, 1, 0, body.length, 0, 0, body⟩
    let ack (ty vc : Nat) : Msg := ⟨ty, vc, 2, 0, 0, 9, 0, []⟩
    let o : OutMsg := ⟨⟨3, 2, 2, 0, 16, 9, 2 ^ 38, zeros 16⟩, .result 0⟩
    let s := { ready with net := { ready.net with sent := [(9, some o)] } }
    fromAgent5 (delivered e .inb rsp) rsp = true ∧ (delivered e .inb rsp).slotAt rsp.tag = some x ∧
      fld coldFetch.tag 22 15 = 1 ∧ fromAgent5 (delivered e .inb pack) pack = true ∧
      packRows 8 pack.body = [(coldFetch.tag, 0, zeros 16)] ∧ s.net.sent.get none 9 = some o ∧
      fromAgent5 (delivered s .inb (ack 0x14 1)) (ack 0x14 1) = true ∧
      ([0, 1, 2, 3].all fun vc => fromAgent5 (delivered s .inb (ack 0x13 vc)) (ack 0x13 vc)) = true := by decide +kernel

/-! ### Scatter -/

/-- A gradient record of slot 1, epoch 3 with one pair. -/
def gradMsg : Msg := ⟨5, 2, 2, 0, 20, 0, 0, leBytes 8 (2 ^ 38) ++ leBytes 4 3 ++ leBytes 2 1 ++ leBytes 2 0 ++ leBytes 4 0x3F800000⟩

/-- An OPEN Crate of slot 1, epoch 3 with one record. -/
def crate0 : Crate := { Crate.empty with st := .open_, slot := 1, epoch := 3, got := 1, entries := [⟨2 ^ 38, 1, [⟨0, 0⟩]⟩] }

/-- A Crate in area 0 of agent 5. -/
def crated (f : Crate → Crate) : State :=
  agent5 fun a => { a with crates := f crate0 :: List.replicate 3 Crate.empty }

theorem witness_CrateRecords :
    let other := { crate0 with entries := [⟨2 ^ 38 + 256, 1, [⟨0, 0⟩]⟩] }
    gradMsg.gradFields = (1, 3, 2 ^ 38, [⟨0x3F800000, 0⟩]) ∧ atAgent5 (delivered ready .out gradMsg) gradMsg = true ∧
      (ready.agent 5).areaOf 1 3 = none ∧ (ready.agent 5).crates.findIdx? (fun c => c.st == .free) = some 0 ∧
      ((crated id).agent 5).areaOf 1 3 = some (0, crate0) ∧
      ((crated fun _ => other).agent 5).areaOf 1 3 = some (0, other) ∧ other.lines < 65536 ∧ crate0.hwm = false := by
  decide +kernel

/-- A Crate with as many rows as an area may list. -/
theorem witness_CrateRecords_full :
    let c := { crate0 with entries := List.replicate 8192 ⟨2 ^ 38 + 256, 1, []⟩ }
    ((crated fun _ => c).agent 5).areaOf 1 3 = some (0, c) ∧ c.entries.length = 8192 ∧ ∀ e ∈ c.entries, e.addr ≠ 2 ^ 38 := by
  refine ⟨rfl, List.length_replicate .., fun e h => ?_⟩
  rw [List.eq_of_mem_replicate h]
  decide

/-- An OPEN Crate that crosses the high mark with the next record of a row that it lists. -/
theorem witness_CrateRecords_high :
    let c := { crate0 with entries := ⟨2 ^ 38, 1, []⟩ :: List.replicate 4095 ⟨2 ^ 38 + 256, 1, []⟩ }
    (∃ e ∈ c.entries, e.addr = 2 ^ 38) ∧ c.hwm = false ∧
      Crate.high { c with got := 2, entries := c.entries.map fun e => if e.addr = 2 ^ 38 then e.merge [] else e } = true := by
  refine ⟨⟨_, List.mem_cons_self .., rfl⟩, rfl, ?_⟩
  unfold Crate.high
  rw [Bool.or_eq_true]
  right
  simp only [List.length_map, List.length_cons, List.length_replicate]
  decide

/-- COMMIT of slot 1, epoch 3 with a count. -/
def commitMsg (n : Nat) : Msg := ⟨6, 2, 2, 0, 32, 0, 0, leBytes 4 1 ++ leBytes 4 3 ++ leBytes 4 n ++ zeros 20⟩

/-- A message without a body that names slot 1, epoch 3. -/
def crateMsg (ty : Nat) : Msg := ⟨ty, 2, 2, 0, 0, 0, slotEpoch 1 3, []⟩

theorem witness_CrateCommits :
    let sealed_ := crated fun c => { c with st := .sealed, go := true, want := some 1 }
    ([1, 2].all fun n => atAgent5 (delivered (crated id) .out (commitMsg n)) (commitMsg n)) = true ∧
      leAt (commitMsg 2).body 8 4 = 2 ∧ (crateMsg 0x0A).slotOf = 1 ∧ (crateMsg 0x0A).epochOf = 3 ∧
      atAgent5 (delivered sealed_ .out (crateMsg 0x0A)) (crateMsg 0x0A) = true ∧
      atAgent5 (delivered (crated id) .out (crateMsg 7)) (crateMsg 7) = true ∧
      (((sealed_.agent 5).crates.zipIdx.filter fun x => x.1.st == .sealed && x.1.go).map (·.2)) = [0] ∧
      ((sealed_.agent 5).crates.all fun c => !c.committing && !sealed_.crateLost 5 c) = true ∧
      ((sealed_.crateImages (crate0)).all fun e => !e.2.2.1) = true ∧ (sealed_.unit 101).faults = 0 ∧
      sealed_.commitWaits 5 (crate0.entries.map fun e => (e.addr, 64 * e.lines)) = false ∧
      (sealed_.setScatter 1 (some default)).scatter 1 = some default := by decide +kernel

theorem witness_CrateCommits_applying :
    let s (dir : List (Nat × Nat)) := ready.setAgent 5 { ((crated fun c => { c with
      st := .applying, images := [(2 ^ 38, zeros 16)] }).agent 5) with dir := dir }
    let r := crated fun c => { c with st := .refreshing, refresh := [(2 ^ 38, 47)] }
    let g : Migration := ⟨0, 5, 2 ^ 38, 47, 0, 0, 0, true, true, false⟩
    let m := agent5 fun a => { a with mig := some g }
    let ack (fl : Nat) : Msg := ⟨9, 2, 2, fl, 0, 47, 2 ^ 38, []⟩
    ([[], [(2 ^ 38, 47)]].all fun dir =>
      ((s dir).agent 5).crates.zipIdx.find? (fun x => x.1.st == .applying) == some (((s dir).agent 5).crates.headD default, 0) &&
        ((s dir).agent 5).up) = true ∧
      atAgent5 (delivered r .out (ack 0)) (ack 0) = true ∧ atAgent5 (delivered m .out (ack 1)) (ack 1) = true ∧
      (m.agent 5).mig = some g ∧ eraseFirst (fun x => x == (2 ^ 38, 47)) [(2 ^ 38, 47)] = [] ∧
      atAgent5 (delivered ready .out ⟨8, 2, 2, 0, 0, 47, 2 ^ 38, []⟩) ⟨8, 2, 2, 0, 0, 47, 2 ^ 38, []⟩ = true ∧
      (s []).class0Waits 5 (2 ^ 38) 16 = false ∧ (s []).commitWaits 5 [(2 ^ 38, 16)] = false ∧ m.sk.repin = [] ∧ (ready.engine 47).slots = [] ∧ (ready.engine 47).placed = [] ∧ (ready.engine 47).cache = [] ∧
      ((ready.setEngine 47 { Engine.init with placed := [⟨2 ^ 38, 0, 3, false, false⟩] }).engine 47).placed ≠ [] := by
  decide +kernel

/-- Scatter slot 1 serves work 0. -/
def scattering (f : Scatter → Scatter) : State :=
  let s := working fun k => { k with desc := { k.desc with kindCode := 1 } }
  s.setScatter 1 (some (f { (default : Scatter) with work := 0 }))

theorem witness_ScatterEpochs_cuts :
    let a := scattering fun sc => { sc with issued := [0, 1, 2], wantCut := true }
    let b := scattering fun sc => { sc with issued := [0, 1, 2], cuts := [3] }
    (a.running 0).isSome = true ∧ (a.scatter 1).any (fun sc => sc.wantCut && sc.cuts == [] && sc.issued != []) = true ∧
      (b.scatter 1).any (fun sc => sc.issued.contains (sc.start 1 - 1) && !b.holdsEpoch 47 sc 0) = true ∧
      (b.engine 47).lost = false ∧ (b.engine 47).moving = false ∧ 0 ∈ b.reporters ∧ b.targetOn = true := by decide +kernel

theorem witness_ScatterEpochs_messages :
    let m (ty e : Nat) : Msg := ⟨ty, 2, 2, 0, 0, 0, slotEpoch 1 e, []⟩
    let s := scattering fun sc => { sc with issued := [0, 1, 2], cuts := [3], committed := [0], counts := [(0, 5, 3)] }
    ([(0x15, 1), (0x16, 0), (0x1A, 0), (0x17, 0)].all fun x => fromAgent5 (delivered s .inb (m x.1 x.2)) (m x.1 x.2) &&
      (m x.1 x.2).slotOf == 1 && (m x.1 x.2).epochOf == x.2) = true ∧
      s.scatterSlot 0 = some 1 ∧ (s.scatter 1).any (fun sc => sc.base == 0 && sc.cuts.length == 1 &&
        s.dueAgents { sc with sealedBy := [(0, 5)] } 0 == [5] &&
        s.dueAgents { sc with counts := [(0, 5, 3), (0, 6, 1)] } 0 == [5, 6]) = true ∧
      (s.work 0).isSome = true := by decide +kernel

theorem witness_CopyRefreshes :
    let m (ty : Nat) : Msg := ⟨ty, 2, 2, 0, 256, 47, 2 ^ 38, zeros 256⟩
    let s := (offered bringUp).setEngine 47 { Engine.init with placed := [⟨2 ^ 38, 0, 3, false, false⟩] }
    fromAgent5 (delivered ready .inb (m 0x18)) (m 0x18) = true ∧ fromAgent5 (delivered s .inb (m 0x18)) (m 0x18) = true ∧
      fromAgent5 (delivered s .inb (m 0x19)) (m 0x19) = true ∧ (ready.engine 47).placed = [] ∧
      (s.engine 47).placed.find? (fun y => y.addr == 2 ^ 38) = some ⟨2 ^ 38, 0, 3, false, false⟩ ∧
      s.cfg.table 0 = some table0 ∧ s.posOfTile 47 = 47 ∧ s.levelAt 3 < 3 ∧
      (let h := { s with eng := { s.eng with block := 3 } }.setAgent 5 { s.agent 5 with
        mig := some ⟨0, 5, 2 ^ 38, 47, 0, 0, 0, true, true, false⟩ }
      fromAgent5 (delivered h .inb (m 0x19)) (m 0x19) && decide (3 ≤ h.levelAt 3) &&
        (h.agent 5).mig.any (fun g => !g.pinned) && h.sk.repin == []) = true := by decide +kernel

/-! ### Stacks -/

theorem witness_StackManagement :
    let s := agent5 fun a => { a with
      errUnits := [(0x3000, 8, 0), (0x4000, 1, 2), (0x5000, 7, 0), (0x6000, 7, 1)], touch := [(2 ^ 38, 47, 9)], reading := true }
    let full := agent5 fun a => { a with errUnits := [(0x3000, 8, 0)], remap := (List.range 256).map fun i =>
      (2 ^ 36 + 4096 * i, 96 * 2 ^ 30 - 2 ^ 20 + 4096 * i) }
    s.managed 5 = true ∧ (s.agent 5).clustered 0x3000 = true ∧ (s.agent 5).clustered 0x4000 = true ∧
      (s.agent 5).clustered 0x5000 = false ∧ (s.agent 5).clustered 0x6000 = false ∧ s.skOn = true ∧
      (s.agent 5).up = true ∧ (s.link 5).st ≠ .down ∧ (s.agent 5).reading = true ∧
      (s.agent 5).touch.find? (fun t => t.1 == 2 ^ 38) = some (2 ^ 38, 47, 9) ∧ s.remaps 2 = [] ∧ s.managed 4 = true ∧ s.freeFrame 5 = some (96 * 2 ^ 30 - 2 ^ 20) ∧
      full.freeFrame 5 = none ∧ (full.remaps 2).all (fun e => e.1 != 0x3000) = true ∧
      s.eng.stackLevels.get 0 2 < 2 ∧ (on.agent 5).repairDone = false ∧
      (on.setLink 5 (ready.link 5)).targetOn = true := by decide +kernel

/-- A CONTROL flit with SEQ 0 that carries one management message. -/
def mgmtFlit (kind : Nat) (body : Bytes) : Flit :=
  let m : Msg := ⟨0x20, 3, 0, 0, body.length + 1, 0, 0, leBytes 1 kind ++ body⟩
  let b := fit 264 (leBytes 8 2 ++ zeros 16 ++ m.encode)
  ⟨b ++ leBytes 8 (crc64 b).toNat, [], false⟩

/-- That flit is the next of a direction of agent n's link. -/
def brought (s : State) (n : Nat) (d : Dir) (kind : Nat) (body : Bytes) : State :=
  let l := s.link n
  s.setLink n (match d with
    | .out => { l with out := { l.out with wire := [mgmtFlit kind body] } }
    | .inb => { l with inb := { l.inb with wire := [mgmtFlit kind body] } })

/-- The conditions of `State.brings` in that state, for an error-free flit. -/
def bringsIt (s0 : State) (n : Nat) (d : Dir) (kind : Nat) (body : Bytes) : Bool :=
  let s := brought s0 n d kind body
  let raw := mgmtFlit kind body
  let b := xorBytes raw.bytes []
  let old := (s.dir n d).partials.getD 3 []
  (s.dir n d).wire == [raw] && s.linkRuns n && (FHdr.ofBytes raw.bytes).ty == 2 && flitOk b &&
    (FHdr.ofBytes b).seq == (s.dir n d).expect &&
    (match (takeMsgs (old.length + 256) (old ++ slice b 24 240)).1 with
      | [m] => m.vc == 3 && m.body == leBytes 1 kind ++ body
      | _ => false) && ((s.dir n d).inbox.all fun x => x.vc != 3) && (d != .inb || s.skOn) &&
    !(raw.trig && d == .out && s.obs.snap.st == .latching && s.obs.snap.waiting.contains n)

set_option maxRecDepth 100000 in
theorem witness_StackManagement_brings :
    ([(Dir.inb, 1, leBytes 1 3), (.inb, 2, leBytes 8 (2 ^ 38) ++ leBytes 4 47 ++ leBytes 4 9), (.inb, 3, leBytes 8 0x3000),
      (.inb, 4, leBytes 8 (2 ^ 38)), (.inb, 5, [1#8]), (.inb, 6, [1#8]), (.out, 16, leBytes 8 0x3000 ++ leBytes 8 0x4000), (.out, 20, [1#8]),
      (.out, 21, [1#8])].all fun x => bringsIt ready 5 x.1 x.2.1 x.2.2) = true ∧ ready.remaps 2 = [] ∧
      ready.cfg.observe.mirrorBase = 0 := by decide +kernel

theorem witness_StackManagement_repair :
    let s := agent5 fun a => { a with repairDone := false }
    s.managed 5 = true ∧ (s.agent 5).repairDone = false := by decide +kernel

theorem witness_StackManagement_holds :
    let wr : Msg := ⟨3, 2, 2, 0, 16, 9, 2 ^ 38, zeros 16⟩
    let s := agent5 fun a => { a with hold := [⟨rdMsg (2 ^ 38 + 256)⟩, ⟨wr⟩] }
    s.agentOn 5 = true ∧ s.skOn = true ∧ (s.agent 5).hold[1]? = some ⟨wr⟩ ∧ (s.agent 5).hold[0]? = some ⟨rdMsg (2 ^ 38 + 256)⟩ ∧
      wr.mtype ≠ 1 ∧ wr.mtype ≠ 2 ∧ s.cfg.observe.mirrorBase = 0 ∧
      (packEntries (packMsg [⟨rdMsg (2 ^ 38), .none⟩, ⟨rdMsg (2 ^ 38 + 64), .none⟩]).body).map (fun e => bitOf e.2.1 15) = [false, false] ∧ (packMsg [⟨rdMsg (2 ^ 38), .none⟩, ⟨rdMsg (2 ^ 38 + 64), .none⟩]).mtype = 2 := by
  decide +kernel

/-- Table 0 with rows that may migrate. -/
def table0m : TableDesc := { table0 with migrateEn := true }

/-- The agent of row 5 of that table. -/
def owner5 : Nat := (offered bringUp).ownerAgent 0x10000500

/-- The agent of row 5 changed, and 1,024 placed blocks. -/
def moves (f : Agent → Agent) : State :=
  let s := offered bringUp
  let s := { s with cfg := { s.cfg with tables := [(0, some table0m)], placedUnits := 1 } }
  s.setAgent owner5 (f (s.agent owner5))

theorem witness_RowsMoved_start :
    let s := moves id
    s.managed owner5 = true ∧ s.quiescing = false ∧ (s.agent owner5).mig = none ∧ (s.agent owner5).noContents = false ∧
      (s.agent owner5).repairDone = true ∧ s.cfg.table (0#12).toNat = some table0m ∧ table0m.hashMode ≠ 2 ∧
      table0m.place 5 = 0x10000500 ∧ (s.agent owner5).lostIn 0x10000500 table0m.rowBytes = false ∧
      s.levelAt (1 + owner5 / 2) < 2 ∧ (s.engine 47).lost = false ∧ (s.engine 47).moving = false ∧ (s.engine 47).placed = [] ∧
      s.blocksFree 47 1023 table0m.blocks = true ∧ s.blocksFree 47 1024 table0m.blocks = false := by decide +kernel

/-- Row 5 moves to block 1023 of position 47: its third attempt. -/
def move5 : Migration := ⟨0, 5, 0x10000500, 47, 1023, 3, 0, true, false, false⟩

theorem witness_RowsMoved_copy :
    let g := move5
    let s := (moves fun a => { a with mig := some g }).setEngine 47
      { Engine.init with placed := [⟨0x10000500, 0, 1023, false, false⟩] }
    s.managed owner5 = true ∧ (s.agent owner5).mig = some g ∧ g.enabled = false ∧ s.version table0m g.addr = g.v0 ∧
      s.levelAt (1 + owner5 / 2) < 3 ∧ (s.agent owner5).dir = [] ∧ s.copyDone 47 1023 table0m.blocks = true ∧
      g.noted = true ∧ g.pinned = false ∧ s.sk.repin = [] ∧ (s.engine 46).placed = [] ∧ 3 ≤ g.attempt ∧
      { s with mov := { s.mov with chans := [(29, { Chan.init with
        st := .running, heads := [⟨0, some (copyDescr g.addr (larderAddr 47 (256 * 1023)) 256), none⟩] })] } }.copyDone 47 1023 1 =
        false ∧
      ((s.engine 47).placed.any fun p => p.addr == g.addr && !p.valid) = true := by decide +kernel

theorem witness_RowsMoved_recovery :
    let s := (moves fun a => { a with lost := [0x10000507], dir := [(0x10000500, 47)] }).setEngine 47
      { Engine.init with placed := [⟨0x10000500, 0, 1023, true, false⟩] }
    let t := moves fun a => { a with lost := [0x10000507] }
    s.managed owner5 = true ∧ 0x10000507 ∈ (s.agent owner5).lost ∧ s.remaps (owner5 / 2) = [] ∧
      (s.goodCopy owner5 0x10000507).map (fun r => (r.1, r.2.length)) = some (0x10000500, 256) ∧
      (s.freeFrame owner5).isSome = true ∧ t.goodCopy owner5 0x10000507 = none ∧ (t.agent owner5).told = [] := by
  decide +kernel

set_option maxRecDepth 100000 in
theorem witness_RowsMoved_arrive :
    let s := moves fun a => { a with mig := some { move5 with noted := false }, remap := [(0x3000, 0x4000)] }
    let row := leBytes 8 0x10000500
    (bringsIt s owner5 .out 17 (leBytes 4 47 ++ row) && bringsIt s owner5 .out 18 (leBytes 8 0x3000 ++ leBytes 8 0x4000 ++ row) &&
      bringsIt s owner5 .out 19 (leBytes 4 47 ++ row)) = true ∧ s.posOfTile 47 = 47 ∧ (s.engine 47).placed = [] ∧
      (s.engine 47).cache = [] ∧ (s.agent owner5).remap = [(0x3000, 0x4000)] := by decide +kernel

theorem witness_RowsMoved_remove :
    let s := (moves id).setEngine 47 { Engine.init with placed := [⟨0x10000500, 0, 1023, true, false⟩] }
    s.managed (s.ownerAgent 0x10000500) = true ∧
      ((s.engine 47).placed.any fun p => p.addr == 0x10000500 && p.valid && !p.pinned) = true := by decide +kernel

/-! ### Power, clocks and faults -/

theorem witness_PowerAndClocks :
    let s := { ready with
      pwr := { ready.pwr with supply := [.engine], lost := [.sclk] }
      cfg := { ready.cfg with thermal := [85, 95, 105] } }
    ready.skOn = true ∧ SupplyDom.engineFails ≠ .engine ∧ s.cfg.thermal.getD 2 0 = 105 ∧ s.pwr.aonUp = true ∧ .engine ∈ s.pwr.supply ∧ .sclk ∈ s.pwr.lost ∧
      Clk.sclk ∉ ready.pwr.lost ∧ (working id).targetOn = true ∧ ((working id).work 0).any (fun k => !k.ended) = true ∧
      (working id).scatterSlot 0 = none ∧ s.sk.up = true ∧ (s.port 1).held = [] ∧ (ready.agent 5).up = true := by
  decide +kernel

theorem witness_PowerAndClocks_lockstep :
    let ok (x : List Bool) : State := { ready with sk := { ready.sk with fwOk := x } }
    ready.skOn = true ∧ (ok [true, true]).sk.copyOk (ok [true, true]).sk.active = true ∧ (ok [true, true]).sk.copyOk 1 = true ∧
      (ok [false, true]).sk.copyOk (ok [false, true]).sk.active = false ∧ (ok [false, true]).sk.copyOk 1 = true ∧
      (ok [true, false]).sk.copyOk (1 - (ok [true, false]).sk.active) = false := by decide +kernel

theorem witness_UnitFaults :
    let s := { ready with obs := { ready.obs with units := [(64, ⟨1, true, 0, 0, 0⟩), (0, ⟨1, false, 9, 8, 4⟩)] } }
    s.targetOn = true ∧ s.checked 0 = true ∧ s.checked 49 = true ∧ s.checked 50 = false ∧
      (delivered ready .out (rdMsg (2 ^ 38))).stuck 101 = true ∧ ready.stuck 101 = false ∧ (s.unit 0).faults + 1 < 3 ∧ (s.porter 0).retired = false ∧
      (s.unit 64).failed = true ∧ (s.unit 65).failed = false ∧ s.freeSpare = some 48 := by decide +kernel

theorem witness_ScrubAndReturn :
    let s := { ready with eng := { ready.eng with engines :=
      [(47, { Engine.init with moving := true, placed := [⟨0x10000500, 0, 1023, true, false⟩] })] } }
    let down := ready.setLink 5 Link.init
    let lost := down.setLink 4 Link.init
    let parked := working fun k => { k with parked := [.link 5] }
    (([.larder 47 0, .sideArray 0 0, .reuse 0 0, .merge 0 0, .resultQueue 0, .tc 0, .faultTable 0, .porterMem 11, .porterCache 0 0,
      .journal 15 3, .copyDir 0 0, .touch 0, .remap 0, .skSram, .porterAlu 0, .mergeAdder 0, .gradAdder 15 3, .gradRecord 0] : List ScrubStore).all fun st => s.scrubOn st) = true ∧
      (s.engine 47).moving = true ∧ (down.dir 5 .out).queue = [] ∧ ((porting [] id).porter 0).cur.isSome = true ∧ (down.link 5).st = .down ∧ down.inService 4 = true ∧ (down.agent 5).out = false ∧
      down.skOn = true ∧ down.targetOn = true ∧ lost.stackPresent 2 = true ∧
      ((stackAgents 2).all fun n => (lost.link n).st == .down) = true ∧ parked.cleared (.link 5) = true ∧
      (parked.work 0).any (fun k => k.parked.find? parked.cleared == some (.link 5)) = true ∧ s.copyDone 47 0 (1024 * s.cfg.placedUnits) = true ∧
      { down with disp := parked.disp }.cleared (.link 5) = false := by decide +kernel

theorem witness_ResetCommands :
    let off := { on with pwr := { on.pwr with engineUp := false, coreRstN := true } }
    on.pwr.engineUp = true ∧ State.reset.pwr.engineUp = false ∧ off.pwr.engineUp = false ∧ off.mayLeave = true ∧
      off.slots.current = none ∧ { off with slots := ready.slots }.slots.current.isSome = true ∧
      (0x3FFFFFFFFFFFE#50).getLsbD 0 = false ∧ on.targetOn = true ∧ (on.link 5).resetDone = false ∧
      (ready.agent 5).released = true ∧ (on.agent 5).released = false ∧ on.pwr.aonUp = true ∧
      State.reset.pwr.aonUp = false ∧ Clk.sclk ∉ State.reset.pwr.lost ∧ (State.reset.port 1).held = [] ∧
      State.reset.sk.minSvn ≤ State.reset.sk.svn 1 ∧ State.reset.sk.signing.any Option.isSome = true := by decide +kernel

theorem witness_ResetCommands_training :
    let s := linked fun l => { l with resetDone := false }
    s.targetOn = true ∧ (s.link 5).resetDone = false ∧ s.slots.current.isSome = true ∧ s.slots.activating = false ∧
      ((List.range 16).all fun m => m == 5 || (s.link m).resetDone) = true := by decide +kernel

/-! ### Ill-formed commands -/

theorem test_wf_beats : (Instr.registerWrite 0#24 65 0#64).wellFormed = false ∧
    (Instr.sqProd 0 0 0#64).wellFormed = false ∧ (Instr.registerWrite 0#24 64 0#64).wellFormed = true := by decide

theorem test_wf_doorbell : (Instr.class0Pool 0 0 []).wellFormed = false ∧
    (Instr.class0Score 0 63 plainBell).wellFormed = true := by decide

theorem test_wf_image (b : Bytes) (h : 2 ^ 26 < b.length) : (Instr.stageReadDone (.image b)).wellFormed = false := by
  simp [Instr.wellFormed, StageRead.ok]; omega

theorem test_wf_mover : (Instr.firmwareChannelStart 0 [] false).wellFormed = false := by decide

theorem test_wf_mapping : (Instr.walkDone 0 (some ⟨true, 2 ^ 28, true, true, false⟩)).wellFormed = false ∧
    (Instr.walkDone 0 (some ⟨false, 2 ^ 28, true, true, true⟩)).wellFormed = true := by decide

theorem test_wf_invalidation : (Instr.translationInvalidate (.range 0#20 1 0 1)).wellFormed = false ∧
    (Instr.translationInvalidate (.range 0#20 2 0 0)).wellFormed = false := by decide

theorem test_wf_hostData (b : Bytes) (h : 256 < b.length) : (Instr.readData 0 0#10 .ok b).wellFormed = false := by
  simp [Instr.wellFormed]; omega

theorem test_wf_datagram : (Instr.write 0 ⟨2 ^ 32, false, 0, 0, false, []⟩).wellFormed = false ∧
    (Instr.ack 1 ⟨2 ^ 32, true, 0, 0, false, []⟩).wellFormed = true ∧
    (Instr.mgmt 1 ⟨0, false, 2 ^ 16, 0, false, []⟩).wellFormed = false ∧
    (Instr.nak 1 ⟨0, false, 0, 2 ^ 16, false, []⟩).wellFormed = false := by decide

theorem test_wf_links : (Instr.exchange 0 0 0 129 0#32).wellFormed = false ∧
    (Instr.linkMessageSend 0 .out 1 9).wellFormed = false := by decide

theorem test_wf_flit (b : Bytes) (h : 272 < b.length) : (Instr.dataFlit 0 .out b).wellFormed = false := by
  simp [Instr.wellFormed]; omega

theorem test_wf_stacks : (Instr.linkMgmt 0 (.corrected (2 ^ 37))).wellFormed = false ∧
    (Instr.remapInstall 0 (2 ^ 37)).wellFormed = false ∧ (Instr.stackRepair 0 [4097]).wellFormed = false ∧
    (Instr.stackRepair 0 [4096, 4096]).wellFormed = false ∧
    (Instr.migrationStart 0 0#12 0#40 0 32768).wellFormed = false := by decide

theorem test_wf_scrub : (Instr.scrubRead (.larder 0 32768) .good).wellFormed = false ∧
    (Instr.scrubRead (.sideArray 0 32768) .good).wellFormed = false ∧
    (Instr.scrubRead .dualQueue .good).wellFormed = true ∧
    (Instr.scrubRead (.merge 0 2048) .good).wellFormed = false := by decide

theorem test_wf_keeper : (Instr.thermalSample []).wellFormed = false ∧
    (Instr.aonResetRelease true true (some ⟨[], [], [], [], []⟩)).wellFormed = false ∧ (Instr.logRead 0 65).wellFormed = false ∧
    (Instr.counters 0 0).wellFormed = false ∧ (Instr.config 4#3 []).wellFormed = false ∧
    (Instr.keySet [] true).wellFormed = false := by decide

/-! ### Values -/

/-- What holds of the state that a command answers. -/
def after (o : Out) (p : State → Bool) : Bool :=
  match o with
  | .next t => p t
  | _ => false

/-- The check values of the two CRCs over the digits 1 to 9. -/
theorem test_crcs :
    let b : Bytes := (List.range 9).map fun i => BitVec.ofNat 8 (0x31 + i)
    crc32c b = 0xE3069283#32 ∧ crc64 b = 0x6C40DF5F0B497347#64 := by decide +kernel

/-- A Porter with G1 and G2 runs one scalar instruction into G3. -/
def scalar (f g1 g2 : Nat) : State :=
  porting [word 0 3 1 2 f] fun p => { p with g := (p.g.set 0 g1).set 1 g2 }

/-- G3 of Porter 0. -/
def g3 (v : Nat) (t : State) : Bool := (t.porter 0).g.getD 2 0 == v && (t.porter 0).pc == 4

theorem test_add_wraps : after (exec (.add 0) (scalar 0 (2 ^ 64 - 1) 2)) (g3 1) = true := by decide +kernel

theorem test_mulhu : after (exec (.mulhu 0) (scalar 9 (2 ^ 63) 6)) (g3 3) = true := by decide +kernel

theorem test_sra_sign : after (exec (.sra 0) (scalar 7 (2 ^ 63) 63)) (g3 (2 ^ 64 - 1)) = true := by decide +kernel

theorem test_divu_zero : after (exec (.divu 0) (scalar 10 5 0)) (g3 (2 ^ 64 - 1)) = true := by decide +kernel

theorem test_slt : after (exec (.slt 0) (scalar 12 (2 ^ 64 - 1) 1)) (g3 1) = true ∧
    after (exec (.sltu 0) (scalar 13 (2 ^ 64 - 1) 1)) (g3 0) = true := by decide +kernel

/-- 1.5 + 2.25 = 3.75 in FP32. -/
theorem test_fadd :
    after (exec (.fadd 0) (porting [word 0x18 3 1 2 0] fun p => { p with g := (p.g.set 0 0x3FC00000).set 1 0x40100000 }))
      (g3 0x40700000) = true := by decide +kernel

/-- A FILL of a pattern from the byte 0x11 on. -/
theorem test_fill :
    let d := MoverDesc.ofBytes (moverBytes (moverCtl 1) 0x8877665544332211 0x1000000001000 0 2)
    let s := moving { Chan.init with st := .running, cur := some d }
    after (exec .moverBurstGrant s) (fun t => leNat (t.load 0x1000000001008 8) == 0x8877665544332211 &&
      leNat (t.load 0x1000000001010 8) == 0) = true := by decide +kernel

/-- 95 °C, in quarters of a degree, reaches the second entry point. -/
theorem test_thermal :
    let s := { ready with cfg := { ready.cfg with thermal := [85, 95, 105] } }
    after (exec (.thermalSample (List.replicate 64 380#16)) s) (fun t => t.eng.block == 2) = true := by decide +kernel

/-- The bring-up task is taken from its ring and waits for its completion (R71, R72). -/
theorem test_gather : after (exec (.gather 3) (offered bringUp)) (fun t => t.disp.works.length == 1 &&
    (t.work 0).any fun k => k.cls == 1 && !k.ended) = true := by decide +kernel

/-- An index past the table's end is an invalid index (R61). -/
theorem test_invalid : fetching.cfg.resolve table0 1024 = .invalid := by decide +kernel

/-- Step i of a ramp allows i eighths of the way (R29). -/
theorem test_ramp : (Ramp.now ⟨0, 65536, 0, 32768, 0⟩) = (8192, 4096) ∧ (Ramp.now ⟨0, 65536, 0, 32768, 7⟩) = (65536, 32768) := by
  decide

theorem test_noWords : decodeTableWord 32 0 = none ∧ on.withFetchWord 32 0 = on := by decide +kernel

end Sys2Proof.Tests
end

namespace Sys2Proof.Machine

open Sys2Proof

/-! ### Frames from State.Keeps -/

/-- Where the Keeps lemmas bound what an operation changes, the statements' word for it follows. -/
theorem State.Keeps.changes {s t : State} {T : List TileSt} {ps : List Part}
    (h : t.Keeps (fun p => decide (p ∈ ps)) False s T) : s.changes t ps :=
  ⟨h.pending, fun p hp => h.same p (by simpa using hp)⟩

theorem State.tallyNotice_changes (s : State) (u : Nat) : s.changes (s.tallyNotice u) [.fresh, .obs] :=
  (State.tallyNotice_keeps (.refl _ s) (by decide) (by decide)).changes

@[simp] theorem State.tallyNotice_notices (s : State) (u : Nat) : (s.tallyNotice u).notices = s.notices :=
  (s.tallyNotice_changes u).2 .notices (by decide)

@[simp] theorem State.tallyNotice_chan (s : State) (u n : Nat) : (s.tallyNotice u).chan n = s.chan n := by
  have mov : (s.tallyNotice u).mov = s.mov := (s.tallyNotice_changes u).2 .mov (by decide)
  rw [State.chan, mov, State.chan]

theorem State.setChan_changes (s : State) (ch : Nat) (v : Chan) : s.changes (s.setChan ch v) [.mov] :=
  (State.setChan_keeps (.refl _ s) (by decide)).changes

/-! ### Bits of bytes and of notices -/

theorem bitOf_eq_testBit (w i : Nat) : bitOf w i = w.testBit i := by
  rw [Bool.eq_iff_iff]
  simp only [bitOf, beq_iff_eq, Nat.testBit_eq_decide_div_mod_eq, Nat.shiftRight_eq_div_pow, decide_eq_true_eq]

/-- Bit j of byte i is bit 8 i + j of the number that the bytes spell. -/
theorem testBit_leNat (bs : Bytes) (i j : Nat) (hj : j < 8) :
    (leNat bs).testBit (8 * i + j) = (bs.getD i 0#8).toNat.testBit j := by
  induction bs generalizing i with
  | nil => simp [leNat]
  | cons b bs ih =>
    have split (n : Nat) : (b.toNat + 256 * leNat bs).testBit n =
        if n < 8 then b.toNat.testBit n else (leNat bs).testBit (n - 8) := by
      rw [Nat.add_comm]
      exact Nat.testBit_two_pow_mul_add (leNat bs) (i := 8) b.isLt n
    rw [leNat, split]
    cases i with
    | zero => simp [hj]
    | succ i =>
      have shift : 8 * (i + 1) + j - 8 = 8 * i + j := by omega
      rw [if_neg (by omega), shift, ih, List.getD_cons_succ]

theorem length_fit (n : Nat) (bs : Bytes) : (fit n bs).length = n := by simp [fit, zeros]; omega

theorem getD_fit (n i : Nat) (bs : Bytes) (hi : i < n) : (fit n bs).getD i 0#8 = bs.getD i 0#8 := by
  simp only [fit, List.getD_eq_getElem?_getD]
  by_cases h : i < bs.length
  · rw [List.getElem?_append_left (by rw [List.length_take]; omega), List.getElem?_take_of_lt hi]
  · rw [List.getElem?_append_right (by rw [List.length_take]; omega), List.length_take, zeros,
      List.getElem?_replicate_of_lt (by omega), List.getElem?_eq_none (by omega), Option.getD_some, Option.getD_none]

/-- LAST is bit 9 of MD_CTL, bit 1 of its second byte (R248). -/
theorem MoverDesc.ofBytes_last (b : Bytes) : (MoverDesc.ofBytes b).last = (b.getD 1 0#8).toNat.testBit 1 := by
  have byte : (slice b 0 8).getD 1 0#8 = b.getD 1 0#8 := by
    rw [slice, getD_fit _ _ _ (by decide)]; simp [List.getD_eq_getElem?_getD]
  calc (MoverDesc.ofBytes b).last = bitOf (leNat (slice b 0 8)) 9 := rfl
    _ = (b.getD 1 0#8).toNat.testBit 1 := by
      rw [bitOf_eq_testBit, testBit_leNat _ 1 1 (by decide), byte]

/-! ### The destinations that a host error of a descriptor opens (R8, R247) -/

@[simp] theorem State.openBytes_chan (s : State) (dom : Nat) (rs : List Wild) (n : Nat) :
    (s.openBytes dom rs).chan n = s.chan n := rfl

/-- From s to t bytes became open and lists were marked as having committed a host error; the rest of the channels, the
works and the configuration, by which a channel has its domain, stay. -/
structure State.Opened (s t : State) : Prop where
  cfg : t.cfg = s.cfg
  disp : t.disp = s.disp
  chan : ∀ n, ∃ b, t.chan n = { s.chan n with broken := b }

theorem State.Opened.refl (s : State) : s.Opened s := ⟨rfl, rfl, fun _ => ⟨_, rfl⟩⟩

theorem State.Opened.openBytes {s t : State} (h : s.Opened t) (dom : Nat) (rs : List Wild) :
    s.Opened (t.openBytes dom rs) := ⟨h.cfg, h.disp, h.chan⟩

theorem State.Opened.openDests {s t : State} (h : s.Opened t) (w : Nat) : s.Opened (t.openDests w) := by
  unfold State.openDests
  split
  · exact h.openBytes _ _
  · exact h

theorem State.Opened.openList {s t : State} (h : s.Opened t) (ch : Nat) (more : List Wild) :
    s.Opened (t.openList ch more) := by
  refine ⟨h.cfg, h.disp, fun n => ?_⟩
  obtain ⟨b, hb⟩ := h.chan n
  by_cases hn : n = ch
  · subst hn
    exact ⟨true, by simp [State.openList, hb]⟩
  · exact ⟨b, by rw [State.openList, State.setChan_chan_get, if_neg hn, State.openBytes_chan, hb]⟩

theorem State.Opened.each {α : Type} {s t : State} {f : State → α → State} (h : s.Opened t) (l : List α)
    (hf : ∀ t a, s.Opened t → s.Opened (f t a)) : s.Opened (t.each l f) :=
  foldl_keeps s.Opened _ _ _ h hf

theorem State.Opened.chanDomain {s t : State} (h : s.Opened t) (ch : Nat) : t.chanDomain ch = s.chanDomain ch := by
  obtain ⟨b, hb⟩ := h.chan ch
  simp [State.chanDomain, State.chanWork, State.work, hb, h.cfg, h.disp]

/-- A list that commits a host error opens the destinations named and is marked. -/
theorem State.Opened.openList_opens {s t : State} (h : s.Opened t) (ch : Nat) (more : List Wild) :
    (t.openList ch more).chan ch = { s.chan ch with broken := true } ∧
      ∀ r ∈ s.runsOf (s.chanDomain ch) more, r ∈ (t.openList ch more).wild := by
  obtain ⟨b, hb⟩ := h.chan ch
  refine ⟨by simp [State.openList, hb], fun r hr => ?_⟩
  have mine : t.runsOf (t.chanDomain ch) more = s.runsOf (s.chanDomain ch) more := by
    rw [h.chanDomain, State.runsOf, h.cfg, State.runsOf]
  rw [← mine] at hr
  simp only [State.openList, State.setChan_wild, State.openBytes, List.mem_append]
  refine .inr ?_
  simp only [State.runsOf, List.map_append, List.mem_append] at hr ⊢
  exact .inl (.inl hr)

/-- A descriptor that starts without a host error opens nothing. -/
theorem State.checkDesc_clean {s : State} {ch : Nat} {d : MoverDesc} (overlaps : d.overlaps (s.chan ch).since = false)
    (broken : (s.chan ch).broken = false) (works : s.worksHit d.dests = []) (lists : s.listsHit ch d.dests = []) :
    s.checkDesc ch d false = s := by
  simp [State.checkDesc, overlaps, broken, works, lists]

/-- One that is malformed or overlaps opens its destinations and marks its list. -/
theorem State.checkDesc_opens {s : State} {ch : Nat} {d : MoverDesc} {bad : Bool}
    (err : bad = true ∨ d.overlaps (s.chan ch).since = true ∨ s.worksHit d.dests ≠ [] ∨ s.listsHit ch d.dests ≠ []) :
    (s.checkDesc ch d bad).chan ch = { s.chan ch with broken := true } ∧
      ∀ r ∈ s.runsOf (s.chanDomain ch) d.dests, r ∈ (s.checkDesc ch d bad).wild := by
  have hit : (bad || (s.chan ch).broken || d.overlaps (s.chan ch).since || s.worksHit d.dests != [] ||
      s.listsHit ch d.dests != []) = true := by
    simp only [Bool.or_eq_true, bne_iff_ne]
    rcases err with h | h | h | h <;> simp only [h, true_or, or_true, not_false_eq_true, ne_eq]
  have others : s.Opened ((s.each (s.worksHit d.dests) State.openDests).each (s.listsHit ch d.dests)
      fun s q => s.openList q []) :=
    ((State.Opened.refl s).each _ fun _ w h => h.openDests w).each _ fun _ q h => h.openList q []
  rw [State.checkDesc, if_pos hit]
  exact others.openList_opens ch d.dests

/-! ### A descriptor starts (R251, R252, R255) -/

/-- A channel is about to start the descriptor of some bytes. -/
structure State.Starting (s : State) (ch : Nat) (b : Bytes) (rest : List (Nat × Option Bytes)) : Prop where
  on : s.targetOn = true
  running : (s.chan ch).st = .running
  free : (s.chan ch).cur = none
  ahead : ∃ a, (s.chan ch).ahead = (a, some b) :: rest

section Start

variable {s : State} {ch : Nat} {b : Bytes} {rest : List (Nat × Option Bytes)}

/-- The state in which a malformed descriptor has started. -/
def State.startedBad (s : State) (ch : Nat) (b : Bytes) (rest : List (Nat × Option Bytes)) : State :=
  let d := MoverDesc.ofBytes b
  let e := d.broken s.draw.1
  let t := s.draw.2.checkDesc ch d true
  t.setChan ch { (t.chan ch).start e rest d.dests with list := if e.last then none else some e.next }

/-- The state in which any other descriptor has started. -/
def State.started (s : State) (ch : Nat) (b : Bytes) (rest : List (Nat × Option Bytes)) : State :=
  let d := MoverDesc.ofBytes b
  let t := s.checkDesc ch d false
  t.setChan ch ((t.chan ch).start d rest d.dests)

theorem State.startDesc_bad (h : s.Starting ch b rest) (op : Nat)
    (bad : (MoverDesc.ofBytes b).bad = true ∨ reservedMover b = true) :
    s.startDesc ch op = .next (s.startedBad ch b rest) := by
  obtain ⟨on, running, free, a, ahead⟩ := h
  simp [State.startDesc, on, running, free, ahead, bad, State.startedBad]

theorem State.startDesc_good (h : s.Starting ch b rest) (bad : (MoverDesc.ofBytes b).bad = false)
    (reserved : reservedMover b = false) :
    s.startDesc ch (MoverDesc.ofBytes b).op = .next (s.started ch b rest) := by
  obtain ⟨on, running, free, a, ahead⟩ := h
  simp [State.startDesc, on, running, free, ahead, bad, reserved, State.started]

theorem State.startedBad_changes : s.changes (s.startedBad ch b rest) [.fresh, .wild, .mov] :=
  (State.setChan_keeps (State.checkDesc_keeps (State.draw_keeps (.refl _ s) (by decide)) (by decide) (by decide))
    (by decide)).changes

theorem State.started_changes : s.changes (s.started ch b rest) [.wild, .mov] :=
  (State.setChan_keeps (State.checkDesc_keeps (.refl _ s) (by decide) (by decide)) (by decide)).changes

/-- A malformed descriptor starts as a NOP, with the destinations that it names open. -/
theorem State.startedBad_opens :
    (∃ d', ((s.startedBad ch b rest).chan ch).cur = some d' ∧ d'.op = 2) ∧
      ((s.startedBad ch b rest).chan ch).ahead = rest ∧
      ∀ r ∈ s.runsOf (s.chanDomain ch) (MoverDesc.ofBytes b).dests, r ∈ (s.startedBad ch b rest).wild := by
  have opens := State.checkDesc_opens (s := s.draw.2) (ch := ch) (d := MoverDesc.ofBytes b) (bad := true) (.inl rfl)
  refine ⟨⟨(MoverDesc.ofBytes b).broken s.draw.1, ?_, rfl⟩, ?_, opens.2⟩ <;> simp [State.startedBad, Chan.start]

/-- One that overlaps starts too, with its destinations open. -/
theorem State.started_opens (err : (MoverDesc.ofBytes b).overlaps (s.chan ch).since = true ∨
      s.worksHit (MoverDesc.ofBytes b).dests ≠ [] ∨ s.listsHit ch (MoverDesc.ofBytes b).dests ≠ []) :
    ((s.started ch b rest).chan ch).cur = some (MoverDesc.ofBytes b) ∧
      ((s.started ch b rest).chan ch).broken = true ∧
      ∀ r ∈ s.runsOf (s.chanDomain ch) (MoverDesc.ofBytes b).dests, r ∈ (s.started ch b rest).wild := by
  obtain ⟨marked, opened⟩ := State.checkDesc_opens (bad := false) (.inr err)
  refine ⟨?_, ?_, opened⟩ <;> simp [State.started, Chan.start, marked]

/-- The state of a channel as a descriptor starts: with no element it waits at its barrier at once. -/
theorem MoverDesc.total_eq_zero_and_barrier_iff (d : MoverDesc) : (d.total = 0 ∧ d.barrier = true) ↔
    (d.op = 2 ∧ d.barrier = true ∨ d.op ≠ 2 ∧ d.c0 * d.c1 * d.c2 = 0 ∧ d.barrier = true) := by
  by_cases nop : d.op = 2 <;> simp [MoverDesc.total, nop]

/-- A descriptor with no host error is taken, and nothing else changes. -/
theorem State.started_clean (clean : s.checkDesc ch (MoverDesc.ofBytes b) false = s) :
    s.started ch b rest = s.setChan ch ((s.chan ch).start (MoverDesc.ofBytes b) rest (MoverDesc.ofBytes b).dests) := by
  rw [State.started, clean]

theorem Chan.start_eq (c : Chan) (d : MoverDesc) (rest : List (Nat × Option Bytes)) (ds : List Wild) :
    c.start d rest ds = { c with
      ahead := rest, cur := some d, iter := 0, part := 0, dno := c.dno + 1, dests := c.dests ++ ds
      since := if d.barrier then [] else c.since ++ ds
      st := if d.op = 2 ∧ d.barrier = true ∨ d.op ≠ 2 ∧ d.c0 * d.c1 * d.c2 = 0 ∧ d.barrier = true then .barrier
        else .running } := by
  simp only [Chan.start, d.total_eq_zero_and_barrier_iff]

end Start

/-! ### A descriptor is read ahead (R255) -/

/-- A channel whose list goes on: it is neither idle nor stopping. -/
theorem ChanSt.active_of_cases {st : ChanSt} (h : st = .running ∨ st = .barrier ∨ st = .faultWait) :
    st ≠ .idle ∧ st ≠ .stopping := by
  rcases h with rfl | rfl | rfl <;> decide

/-- A descriptor at hand and readable is read ahead. -/
theorem execMoverDescriptorRead_of_readable {s : State} {ch : ChanId} {a : Nat} (on : s.targetOn = true)
    (active : (s.chan ch).st ≠ .idle ∧ (s.chan ch).st ≠ .stopping) (list : (s.chan ch).list = some a)
    (idle : (s.chan ch).reading = none) (room : (s.chan ch).ahead.length < 2) (space : spaceOf a ≤ 1)
    (near : s.reach a 64 = true) (allowed : s.allows (s.chanDomain ch) a 64 1 = true) :
    execMoverDescriptorRead ch s =
      .next (s.setChan ch ({ s.chan ch with reading := some a }.gotDesc (s.load a 64))) := by
  have untranslated : ¬ (spaceOf a = 2 ∨ spaceOf a = 3) ∧ spaceOf a ≠ 8 := by omega
  have found : s.readNow (s.chanDomain ch) a 64 = .bytes (s.load a 64) := by
    simp [State.readNow, near, allowed]
  simp [execMoverDescriptorRead, list, on, active, idle, Nat.not_le.2 room, untranslated, found]

/-- The bytes that arrive are kept, with the address of the next descriptor, none after LAST. -/
theorem Chan.gotDesc_eq (c : Chan) (a : Nat) (b : Bytes) (idle : c.reading = none) :
    { c with reading := some a }.gotDesc b = { c with
      ahead := c.ahead ++ [(a, some b)]
      list := if (MoverDesc.ofBytes b).last ∨ (MoverDesc.ofBytes b).bad then none
        else some (MoverDesc.ofBytes b).next } := by
  simp [Chan.gotDesc, nextDesc, idle]

/-! ### The next list of a channel (R255) -/

@[simp] theorem State.nextList_chan_other (s : State) (ch code n : Nat) (hn : n ≠ ch) :
    (s.nextList ch code).chan n = s.chan n := by
  unfold State.nextList
  dsimp only
  split
  · split <;> simp [hn]
  · simp [hn]

theorem State.nextList_cur_last (s : State) (ch code : Nat) :
    ((s.nextList ch code).chan ch).cur = none ∧ ((s.nextList ch code).chan ch).last = (s.chan ch).last := by
  unfold State.nextList
  dsimp only
  split
  · split <;> simp
  · simp

/-- With no head queued the channel becomes idle with the code. -/
theorem State.nextList_of_no_head {s : State} {ch : Nat} (code : Nat) (empty : (s.chan ch).heads = []) :
    ((s.nextList ch code).chan ch).st = .idle ∧ ((s.nextList ch code).chan ch).code = code := by
  simp [State.nextList, empty]

/-- With heads queued the channel takes the oldest. -/
theorem State.nextList_of_head {s : State} {ch : Nat} (code : Nat) (queued : (s.chan ch).heads ≠ []) :
    ((s.nextList ch code).chan ch).st = .running ∧ ((s.nextList ch code).chan ch).heads = (s.chan ch).heads.tail := by
  obtain ⟨h, rest, heads⟩ := List.exists_cons_of_ne_nil queued
  cases built : h.built <;> simp [State.nextList, heads, built]

theorem State.nextList_changes (s : State) (ch code : Nat) : s.changes (s.nextList ch code) [.mov] :=
  (State.nextList_keeps (.refl _ s) (by decide)).changes

/-! ### A descriptor completes (R253 to R255) -/

/-- The IRQ of a descriptor that completes: its tag and the notice of its channel (R254). -/
def State.signalled (s : State) (ch : Nat) (d : MoverDesc) : State :=
  if d.irq then ((s.setChan ch { s.chan ch with last := d.tag }).raise Reg.mvNotice (2 ^ ch)).tallyNotice 114 else s

/-- The state in which the descriptor of a channel has completed. -/
def State.completed (s : State) (ch : Nat) (d : MoverDesc) : State :=
  if d.last then (s.signalled ch d).nextList ch 0
  else (s.signalled ch d).modChan ch fun c => { c with cur := none, st := .running, iter := 0, part := 0 }

theorem execMoverDescriptorComplete_of_issued {s : State} {ch : ChanId} {d : MoverDesc} (on : s.targetOn = true)
    (active : (s.chan ch).st ≠ .idle ∧ (s.chan ch).st ≠ .stopping) (cur : (s.chan ch).cur = some d)
    (issued : d.total ≤ (s.chan ch).iter) (quiet : d.barrier = true → s.chanQuiet ch = true) :
    execMoverDescriptorComplete ch s = .next (s.completed ch d) := by
  have waits : (d.barrier && !s.chanQuiet ch) = false := by
    cases barrier : d.barrier
    · rfl
    · simp [quiet barrier]
  cases last : d.last <;>
    simp [execMoverDescriptorComplete, cur, on, active, Nat.not_lt.2 issued, waits, last, State.completed,
      State.signalled]

section Signalled

variable (s : State) (ch : Nat) (d : MoverDesc)

theorem State.signalled_chan (n : Nat) : (s.signalled ch d).chan n =
    if n = ch then { s.chan ch with last := if d.irq then d.tag else (s.chan ch).last } else s.chan n := by
  cases irq : d.irq
  · simp only [State.signalled, irq, Bool.false_eq_true, if_false]
    split <;> simp [*]
  · simp [State.signalled, irq]

theorem State.signalled_notices (irq : d.irq = false) : (s.signalled ch d).notices = s.notices := by
  simp [State.signalled, irq]

theorem State.signalled_notice (irq : d.irq = true) (hch : ch < 64) :
    bitOf ((s.signalled ch d).noticeBits Reg.mvNotice) ch = true := by
  have bits : (s.signalled ch d).noticeBits Reg.mvNotice = s.noticeBits Reg.mvNotice ||| 2 ^ ch :=
    calc (s.signalled ch d).noticeBits Reg.mvNotice
      _ = ((s.setChan ch { s.chan ch with last := d.tag }).raise Reg.mvNotice (2 ^ ch)).noticeBits Reg.mvNotice := by
        simp [State.signalled, irq, State.noticeBits]
      _ = s.noticeBits Reg.mvNotice ||| 2 ^ ch := by
        rw [State.raise_noticeBits _ _ _ _ (Nat.pow_lt_pow_right (by decide) hch), if_pos rfl, State.noticeBits,
          State.setChan_notices, State.noticeBits]
  rw [bits, bitOf_eq_testBit, Nat.testBit_or, Nat.testBit_two_pow_self, Bool.or_true]

theorem State.completed_changes : s.changes (s.completed ch d) [.fresh, .notices, .mov, .obs] := by
  have signalled : (s.signalled ch d).Keeps (fun p => decide (p ∈ [Part.fresh, .notices, .mov, .obs])) False s
      s.eng.tiles := by
    unfold State.signalled
    split
    · exact State.tallyNotice_keeps (State.raise_keeps (State.setChan_keeps (.refl _ s) (by decide)) (by decide))
        (by decide) (by decide)
    · exact .refl _ s
  unfold State.completed
  split
  · exact (State.nextList_keeps signalled (by decide)).changes
  · exact (State.modChan_keeps signalled (by decide)).changes

/-- The step that follows the signal leaves the notices and the other channels, and the channel's last tag. -/
theorem State.completed_frame : (s.completed ch d).notices = (s.signalled ch d).notices ∧
    (∀ n, n ≠ ch → (s.completed ch d).chan n = s.chan n) ∧ ((s.completed ch d).chan ch).cur = none ∧
    ((s.completed ch d).chan ch).last = if d.irq then d.tag else (s.chan ch).last := by
  unfold State.completed
  split
  · obtain ⟨cur, last⟩ := (s.signalled ch d).nextList_cur_last ch 0
    refine ⟨((s.signalled ch d).nextList_changes ch 0).2 .notices (by decide), fun n hn => ?_, cur, ?_⟩
    · rw [State.nextList_chan_other _ _ _ _ hn, State.signalled_chan, if_neg hn]
    · rw [last, State.signalled_chan, if_pos rfl]
  · refine ⟨rfl, fun n hn => ?_, ?_, ?_⟩ <;> simp [State.signalled_chan, *]

/-- Before LAST the list goes on. -/
theorem State.completed_proceeds (last : d.last = false) : ((s.completed ch d).chan ch).st = .running ∧
    ((s.completed ch d).chan ch).list = (s.chan ch).list ∧
    ((s.completed ch d).chan ch).ahead = (s.chan ch).ahead := by
  simp [State.completed, last, State.signalled_chan]

theorem State.signalled_heads : ((s.signalled ch d).chan ch).heads = (s.chan ch).heads := by
  simp [State.signalled_chan]

theorem State.completed_idles (last : d.last = true) (empty : (s.chan ch).heads = []) :
    ((s.completed ch d).chan ch).st = .idle ∧ ((s.completed ch d).chan ch).code = 0 := by
  rw [State.completed, if_pos last]
  exact State.nextList_of_no_head 0 ((s.signalled_heads ch d).trans empty)

theorem State.completed_takes_head (last : d.last = true) (queued : (s.chan ch).heads ≠ []) :
    ((s.completed ch d).chan ch).st = .running ∧
      ((s.completed ch d).chan ch).heads = (s.chan ch).heads.tail := by
  rw [State.completed, if_pos last, ← s.signalled_heads ch d]
  exact State.nextList_of_head 0 (by rwa [s.signalled_heads ch d])

end Signalled

/-! ### A firmware start (R257) -/

/-- The descriptor of a firmware start, taken as LAST. -/
def asLast (desc : Bytes) : Bytes := (fit 64 desc).set 1 ((fit 64 desc).getD 1 0#8 ||| 2#8)

theorem asLast_last (desc : Bytes) : (MoverDesc.ofBytes (asLast desc)).last = true := by
  have byte : (asLast desc).getD 1 0#8 = (fit 64 desc).getD 1 0#8 ||| 2#8 := by
    have long : 1 < (fit 64 desc).length := by rw [length_fit]; decide
    simp [asLast, List.getD_eq_getElem?_getD, long]
  rw [MoverDesc.ofBytes_last, byte, BitVec.toNat_or, Nat.testBit_or]
  simp [show Nat.testBit 2 1 = true from rfl]

theorem asLast_getD (desc : Bytes) (i : Nat) (hi : i ≠ 1) (h : i < 64) : (asLast desc).getD i 0#8 = desc.getD i 0#8 :=
  calc (asLast desc).getD i 0#8
    _ = (fit 64 desc).getD i 0#8 := by simp [asLast, List.getD_eq_getElem?_getD, Ne.symm hi]
    _ = desc.getD i 0#8 := getD_fit 64 i desc h

theorem execFirmwareChannelStart_of_idle {s : State} {ch : FwChanId} (desc : Bytes) (phys : Bool)
    (up : s.sk.up = true) (kept : s.sk.skLost = false) (on : s.targetOn = true)
    (idle : (s.chan (28 + ch.val)).st = .idle) :
    execFirmwareChannelStart ch desc phys s = .next (s.setChan (28 + ch.val) { s.chan (28 + ch.val) with
      st := .running, code := 0, fault := none, list := none, ahead := [(0, some (asLast desc))], phys := phys }) := by
  simp [execFirmwareChannelStart, up, kept, on, idle, asLast]

/-! ### The statement -/

/-- The three operations start a descriptor by one rule, each with its own code (R249). -/
theorem exec_startDesc {ch : ChanId} {e : Instr × Nat} (he : e ∈ [(Instr.copy ch, 0), (.fill ch, 1), (.nop ch, 2)])
    (s : State) : exec e.1 s = s.startDesc ch e.2 := by
  simp only [List.mem_cons, List.not_mem_nil, or_false] at he
  rcases he with rfl | rfl | rfl <;> rfl

/-- Settles O38: each clause by the lemma about its command. -/
theorem moverDescriptors : Obligations.MoverDescriptors := by
  unfold Obligations.MoverDescriptors
  refine ⟨?read, ?start, ?complete, ?firmware⟩
  case read =>
    intro ch a s c d on active list idle room space near allowed
    refine ⟨_, execMoverDescriptorRead_of_readable on (ChanSt.active_of_cases active) list idle room space near allowed,
      ?_, fun n hn => by simp [hn], s.setChan_changes _ _⟩
    rw [State.setChan_chan_get, if_pos rfl, Chan.gotDesc_eq _ _ _ idle]
  case start =>
    intro ch a b rest s c d on running free ahead e he
    have starting : s.Starting ch b rest := ⟨on, running, free, a, ahead⟩
    have start : exec e.1 s = s.startDesc ch e.2 := exec_startDesc he s
    refine ⟨fun bad => ?_, fun bad reserved op => ?_⟩
    · obtain ⟨nop, ahead, opened⟩ := State.startedBad_opens (s := s) (ch := ch) (b := b) (rest := rest)
      exact ⟨_, start.trans (State.startDesc_bad starting _ bad), nop, ahead, opened, State.startedBad_changes⟩
    have good : exec e.1 s = .next (s.started ch b rest) :=
      start.trans (op ▸ State.startDesc_good starting bad reserved)
    refine ⟨fun overlaps broken works lists => ?_, fun err => ?_⟩
    · rw [State.started_clean (State.checkDesc_clean overlaps broken works lists)] at good
      refine ⟨_, good, ?_, fun n hn => by simp [hn], s.setChan_changes _ _⟩
      rw [State.setChan_chan_get, if_pos rfl, Chan.start_eq]
    · obtain ⟨cur, broken, opened⟩ := State.started_opens (rest := rest) err
      exact ⟨_, good, cur, broken, opened, State.started_changes⟩
  case complete =>
    intro ch d s c on active cur issued quiet
    obtain ⟨notices, others, free, last⟩ := s.completed_frame ch d
    refine ⟨_, execMoverDescriptorComplete_of_issued on (ChanSt.active_of_cases active) cur issued quiet, last, free,
      fun irq => ?_, fun irq => notices.trans (s.signalled_notices ch d irq), s.completed_proceeds ch d,
      s.completed_idles ch d, s.completed_takes_head ch d, others, s.completed_changes ch d⟩
    rw [State.noticeBits, notices]
    exact s.signalled_notice ch d irq (by omega)
  case firmware =>
    intro ch desc phys s up kept on idle
    refine ⟨_, execFirmwareChannelStart_of_idle desc phys up kept on idle, ?_, ?_, ?_, ?_, fun n hn => by simp [hn],
      s.setChan_changes _ _⟩
    · simp
    · simp
    · simp
    · exact ⟨asLast desc, by simp, asLast_last desc, asLast_getD desc⟩

end Sys2Proof.Machine

/-! # The frame of every command -/

namespace Sys2Proof

/-- The parts that a command may change, as the Keeps lemmas take them. -/
def Instr.mayChange (c : Instr) (p : Machine.Part) : Bool := decide (p ∈ c.touches)

end Sys2Proof

namespace Sys2Proof.Machine

open Sys2Proof State

section Outcomes

variable {F : Part → Bool} {I : Prop} {o : State} {T : List TileSt}

/-! ### Conditionals -/

theorem OutK.ite {c : Prop} [Decidable c] {a b : Out} (ha : OutK F I o T a) (hb : OutK F I o T b) :
    OutK F I o T (if c then a else b) := by
  split
  · exact ha
  · exact hb

theorem OutKept.ite {c : Prop} [Decidable c] {a b : Out} (ha : OutKept F I o a) (hb : OutKept F I o b) :
    OutKept F I o (if c then a else b) := by
  split
  · exact ha
  · exact hb

theorem State.Keeps.ite {c : Prop} [Decidable c] {a b : State} (ha : a.Keeps F I o T) (hb : b.Keeps F I o T) :
    (if c then a else b).Keeps F I o T := by
  split
  · exact ha
  · exact hb

/-- A free value is drawn only under some condition. -/
theorem State.Keeps.ite_snd {α : Type} {c : Prop} [Decidable c] {p q : α × State} (hp : p.2.Keeps F I o T)
    (hq : q.2.Keeps F I o T) : (if c then p else q).2.Keeps F I o T := by
  split
  · exact hp
  · exact hq

end Outcomes

/-! ### What a frame says of a command

The commands are taken in the order of exec. Each lemma follows the branches of its command's meaning and composes the
Keeps lemmas of the operations that a branch runs; every `rfl` is the check that a part which the operation may change
is one that `Instr.touches` lists. -/

/-- The meaning f of command c leaves every part that c does not touch, and the tiles. -/
def Framed (c : Instr) (f : State → Out) : Prop :=
  ∀ {I : Prop} {o : State} {T : List TileSt} {s : State}, s.Keeps c.mayChange I o T → OutK c.mayChange I o T (f s)

/-- The meaning f of command c leaves every part that c does not touch; positions may move between tiles (R409). -/
def FramedTiles (c : Instr) (f : State → Out) : Prop :=
  ∀ {I : Prop} {o s : State}, s.Kept c.mayChange I o → OutKept c.mayChange I o (f s)

theorem Framed.tiles {c : Instr} {f : State → Out} (h : Framed c f) : FramedTiles c f :=
  OutKept.lift fun _ _ => h

theorem execRegisterWrite_framed {off size data} : Framed (.registerWrite off size data)
    (execRegisterWrite off size data) :=
  fun h => atTarget_keeps h (runTarget_keeps h rfl rfl rfl rfl rfl rfl rfl rfl rfl rfl rfl rfl rfl rfl rfl rfl) rfl
    rfl

theorem execW1cClear_framed {off size data hwSet} : Framed (.w1cClear off size data hwSet)
    (execW1cClear off size data hwSet) :=
  fun h => atTarget_keeps h (w1cClear_keeps h rfl rfl rfl) rfl rfl

theorem execSqProd_framed {page size data} : Framed (.sqProd page size data) (execSqProd page size data) :=
  fun h => atTarget_keeps h (pageWrite_keeps h rfl rfl rfl rfl rfl rfl rfl rfl rfl rfl rfl) rfl rfl

theorem execCqCons_framed {page size data} : Framed (.cqCons page size data) (execCqCons page size data) :=
  fun h => atTarget_keeps h (pageWrite_keeps h rfl rfl rfl rfl rfl rfl rfl rfl rfl rfl rfl) rfl rfl

theorem execClass0Pool_framed {page slot bytes} : Framed (.class0Pool page slot bytes)
    (execClass0Pool page slot bytes) :=
  fun h => atTarget_keeps h (class0Write_keeps h rfl rfl rfl rfl rfl rfl rfl rfl rfl rfl rfl) rfl rfl

theorem execClass0Score_framed {page slot bytes} : Framed (.class0Score page slot bytes)
    (execClass0Score page slot bytes) :=
  fun h => atTarget_keeps h (class0Write_keeps h rfl rfl rfl rfl rfl rfl rfl rfl rfl rfl rfl) rfl rfl

theorem execRgCtlEnSet_framed {r} : Framed (.rgCtlEnSet r) (execRgCtlEnSet r) :=
  fun h => atTarget_keeps h (runTarget_keeps h rfl rfl rfl rfl rfl rfl rfl rfl rfl rfl rfl rfl rfl rfl rfl rfl) rfl
    rfl

theorem execRgCtlEnClear_framed {r} : Framed (.rgCtlEnClear r) (execRgCtlEnClear r) :=
  fun h => atTarget_keeps h (runTarget_keeps h rfl rfl rfl rfl rfl rfl rfl rfl rfl rfl rfl rfl rfl rfl rfl rfl) rfl
    rfl

theorem execRgAbort_framed {r slot all} : Framed (.rgAbort r slot all) (execRgAbort r slot all) :=
  fun h => atTarget_keeps h (runTarget_keeps h rfl rfl rfl rfl rfl rfl rfl rfl rfl rfl rfl rfl rfl rfl rfl rfl) rfl
    rfl

theorem execAbortAll_framed : Framed .abortAll execAbortAll :=
  fun h => atTarget_keeps h (runTarget_keeps h rfl rfl rfl rfl rfl rfl rfl rfl rfl rfl rfl rfl rfl rfl rfl rfl) rfl
    rfl

theorem execMvChHead_framed {ch addr} : Framed (.mvChHead ch addr) (execMvChHead ch addr) :=
  fun h => atTarget_keeps h (runTarget_keeps h rfl rfl rfl rfl rfl rfl rfl rfl rfl rfl rfl rfl rfl rfl rfl rfl) rfl
    rfl

theorem execMvChAbort_framed {ch} : Framed (.mvChAbort ch) (execMvChAbort ch) :=
  fun h => atTarget_keeps h (runTarget_keeps h rfl rfl rfl rfl rfl rfl rfl rfl rfl rfl rfl rfl rfl rfl rfl rfl) rfl
    rfl

/-! ### Target writes and commands of the configuration -/

theorem execChannelStopped_framed {ch} : Framed (.channelStopped ch) (execChannelStopped ch) := by
  intro I o T s h
  unfold execChannelStopped
  refine .ite (.next h) ?_
  exact .next (each_keeps (tallyNotice_keeps (raise_keeps (nextList_keeps (setChan_keeps h rfl) rfl) rfl) rfl rfl)
    (fun _ _ h1 => endWork_keeps (each_keeps h1 (fun _ _ h2 => leaveCache_keeps h2 rfl rfl rfl rfl rfl rfl rfl rfl))
    rfl rfl rfl rfl rfl rfl rfl rfl rfl))

theorem execStage_framed : Framed .stage execStage :=
  fun h => atTarget_keeps h (cfCommand_keeps h rfl rfl rfl rfl rfl rfl rfl rfl rfl) rfl rfl

theorem execStageReadDone_framed {res} : Framed (.stageReadDone res) (execStageReadDone res) := by
  intro I o T s h
  unfold execStageReadDone
  split
  · refine .ite (.next h) ?_
    cases res with
    | noAccess => exact .next (stageFails_keeps h rfl rfl rfl rfl rfl rfl rfl)
    | image img =>
      exact .next (endCmd_keeps (modSlots_keeps (staged_keeps h rfl rfl rfl rfl rfl)
        (fun _ h => h) rfl) rfl rfl rfl rfl rfl)
  · exact .next h

theorem execActivate_framed : Framed .activate execActivate :=
  fun h => atTarget_keeps h (cfCommand_keeps h rfl rfl rfl rfl rfl rfl rfl rfl rfl) rfl rfl

theorem execRollback_framed : Framed .rollback execRollback :=
  fun h => atTarget_keeps h (cfCommand_keeps h rfl rfl rfl rfl rfl rfl rfl rfl rfl) rfl rfl

theorem execActivateDigest_framed : Framed .activateDigest execActivateDigest :=
  fun h => atTarget_keeps h (cfCommand_keeps h rfl rfl rfl rfl rfl rfl rfl rfl rfl) rfl rfl

theorem execDiscard_framed : Framed .discard execDiscard :=
  fun h => atTarget_keeps h (cfCommand_keeps h rfl rfl rfl rfl rfl rfl rfl rfl rfl) rfl rfl

theorem execTeardown_framed : Framed .teardown execTeardown :=
  fun h => atTarget_keeps h (cfCommand_keeps h rfl rfl rfl rfl rfl rfl rfl rfl rfl) rfl rfl

theorem execActivationDrainEnd_framed : Framed .activationDrainEnd execActivationDrainEnd := by
  intro I o T s h
  unfold execActivationDrainEnd
  split
  · exact .next h
  refine .ite (.next h) (.ite ?loaded ?drained)
  case loaded =>
    have locked := startLocks_keeps h rfl rfl
    exact .ite (.next (resume_keeps locked rfl rfl rfl rfl rfl rfl rfl rfl rfl rfl rfl rfl rfl rfl rfl rfl))
      (.next locked)
  case drained =>
    have dropped := dropParked_keeps h rfl rfl rfl
    refine .ite (.next dropped) (.ite (.next (tearDown_keeps dropped rfl rfl rfl rfl rfl rfl rfl rfl rfl rfl rfl rfl
      rfl rfl rfl rfl rfl)) (.ite (.next dropped) ?_))
    refine .ite (.next (restartFails_keeps dropped rfl rfl rfl rfl rfl rfl rfl rfl rfl rfl rfl rfl rfl rfl rfl rfl))
      ?_
    have swapped {n} := swapSlots_keeps (swap := n) (clear_keeps dropped rfl rfl rfl rfl rfl rfl rfl rfl) rfl
    dsimp only
    split
    · have locked {n img} := startLocks_keeps (loadImage_keeps (img := img) (swapped
        (n := n)) rfl rfl rfl rfl rfl rfl rfl rfl rfl) rfl rfl
      exact .ite (.next (resume_keeps locked rfl rfl rfl rfl rfl rfl rfl rfl rfl rfl rfl rfl rfl rfl rfl rfl)) (.next
        (modSlots_keeps locked (fun _ h => h) rfl))
    · exact .next swapped

theorem execScrubDone_framed : Framed .scrubDone execScrubDone := by
  intro I o T s h
  unfold execScrubDone
  have cleared := with_mem (v := s.mem.filter fun e => spaceOf e.1 != 1) h rfl fun i => Tab.wf_filter _ _ _ (h.mem i)
  refine .ite (.next h) (.ite (.next h) (.next (log_keeps (raise_keeps (modSlots_keeps ?_
    (fun _ h => h) rfl) rfl) rfl rfl rfl rfl)))
  exact each_keeps cleared fun _ _ h => scrubRange_keeps h rfl

theorem execFire_framed {release} : Framed (.fire release) (execFire release) :=
  fun h => atTarget_keeps h (runTarget_keeps h rfl rfl rfl rfl rfl rfl rfl rfl rfl rfl rfl rfl rfl rfl rfl rfl) rfl
    rfl

theorem execSnapRelease_framed : Framed .snapRelease execSnapRelease :=
  fun h => atTarget_keeps h (runTarget_keeps h rfl rfl rfl rfl rfl rfl rfl rfl rfl rfl rfl rfl rfl rfl rfl rfl) rfl
    rfl

theorem execObSinkPtr_framed {size data} : Framed (.obSinkPtr size data) (execObSinkPtr size data) :=
  fun h => atTarget_keeps h (runTarget_keeps h rfl rfl rfl rfl rfl rfl rfl rfl rfl rfl rfl rfl rfl rfl rfl rfl) rfl
    rfl

theorem execSkMbLogRead_framed : Framed .skMbLogRead execSkMbLogRead :=
  fun h => atTarget_keeps h (runTarget_keeps h rfl rfl rfl rfl rfl rfl rfl rfl rfl rfl rfl rfl rfl rfl rfl rfl) rfl
    rfl

theorem execSkMbSensors_framed : Framed .skMbSensors execSkMbSensors :=
  fun h => atTarget_keeps h (runTarget_keeps h rfl rfl rfl rfl rfl rfl rfl rfl rfl rfl rfl rfl rfl rfl rfl rfl) rfl
    rfl

theorem execSkMbFwInfo_framed : Framed .skMbFwInfo execSkMbFwInfo :=
  fun h => atTarget_keeps h (runTarget_keeps h rfl rfl rfl rfl rfl rfl rfl rfl rfl rfl rfl rfl rfl rfl rfl rfl) rfl
    rfl

theorem execSkMbReports_framed : Framed .skMbReports execSkMbReports :=
  fun h => atTarget_keeps h (runTarget_keeps h rfl rfl rfl rfl rfl rfl rfl rfl rfl rfl rfl rfl rfl rfl rfl rfl) rfl
    rfl

theorem execPwCnValidSet_framed {c ctl} : Framed (.pwCnValidSet c ctl) (execPwCnValidSet c ctl) :=
  fun h => atTarget_keeps h (runTarget_keeps h rfl rfl rfl rfl rfl rfl rfl rfl rfl rfl rfl rfl rfl rfl rfl rfl) rfl
    rfl

/-! ### Tasks, from the ring to the completion record -/

theorem execDescriptorFetch_framed {r} : Framed (.descriptorFetch r) (execDescriptorFetch r) := by
  intro I o T s h
  unfold execDescriptorFetch
  refine .ite (.next h) ?_
  exact .next (setRing_keeps (each_keeps h (fun _ _ h1 => fetchSlot_keeps h1 rfl rfl rfl rfl rfl rfl rfl rfl rfl rfl
    rfl rfl)) rfl)

theorem execGather_framed {r} : Framed (.gather r) (execGather r) :=
  fun h => admitTask_keeps h (fun _ _ _ h1 => startGather_keeps h1 rfl) rfl rfl rfl rfl rfl rfl rfl rfl rfl rfl

theorem execScatter_framed {r} : Framed (.scatter r) (execScatter r) := by
  intro I o T s h
  unfold execScatter
  refine admitTask_keeps h (fun w d s h => ?_) rfl rfl rfl rfl rfl rfl rfl rfl rfl rfl
  split
  · exact .ite (takeShares_keeps (setScatter_keeps h rfl) rfl) (endWork_keeps h rfl rfl rfl rfl rfl rfl rfl rfl rfl)
  · exact h

theorem execScoreCandidate_framed {r} : Framed (.scoreCandidate r) (execScoreCandidate r) :=
  fun h => admitTask_keeps h (fun _ _ _ h1 => takeShares_keeps h1 rfl) rfl rfl rfl rfl rfl rfl rfl rfl rfl rfl

theorem execInteract_framed {r} : Framed (.interact r) (execInteract r) :=
  fun h => admitTask_keeps h (fun _ _ _ h1 => startArray_keeps h1 rfl) rfl rfl rfl rfl rfl rfl rfl rfl rfl rfl

theorem execProject_framed {r} : Framed (.project r) (execProject r) := by
  intro I o T s h
  unfold execProject
  refine admitTask_keeps h (fun w d s h => ?_) rfl rfl rfl rfl rfl rfl rfl rfl rfl rfl
  dsimp only
  split
  · have started {a} := startArray_keeps (w := w) (n := a) (d := d) h rfl
    split
    · exact park_keeps started rfl rfl rfl rfl rfl rfl
    · exact started
  · exact h

theorem execQload_framed {r} : Framed (.qload r) (execQload r) :=
  fun h => admitTask_keeps h (fun _ _ _ h1 => tryQload_keeps h1 rfl rfl rfl rfl rfl rfl rfl rfl rfl rfl rfl rfl rfl
    rfl) rfl rfl rfl rfl rfl rfl rfl rfl rfl rfl

theorem execFence_framed {r} : Framed (.fence r) (execFence r) :=
  fun h => admitTask_keeps h (fun _ _ _ h1 => .ite (issueFlushes_keeps h1 rfl rfl rfl rfl rfl rfl rfl) h1) rfl rfl
    rfl rfl rfl rfl rfl rfl rfl rfl

theorem execPorter_framed {r} : Framed (.porter r) (execPorter r) := by
  intro I o T s h
  unfold execPorter
  refine admitTask_keeps h (fun w d s h => ?_) rfl rfl rfl rfl rfl rfl rfl rfl rfl rfl
  have named {f} := modWork_keeps (w := w) (f := f) h rfl
  dsimp only
  split
  · exact park_keeps named rfl rfl rfl rfl rfl rfl
  · exact named

theorem execMailboxPlace_framed {m w} : Framed (.mailboxPlace m w) (execMailboxPlace m w) := by
  intro I o T s h
  unfold execMailboxPlace
  split
  · refine .ite (.next h) ?_
    exact .ite (.next (park_keeps h rfl rfl rfl rfl rfl rfl)) (.next (setWork_keeps (modPorter_keeps h rfl) rfl))
  · exact .next h

theorem execPorterProgramStart_framed {m} : Framed (.porterProgramStart m) (execPorterProgramStart m) := by
  intro I o T s h
  unfold execPorterProgramStart
  dsimp only
  split
  · exact .next h
  split
  · exact .next h
  exact .ite (.next h) (.ite (.next (openWork_keeps h rfl rfl rfl rfl rfl rfl rfl rfl rfl rfl)) (.next (tally_keeps
    (setPorter_keeps h rfl) rfl rfl)))

theorem execCompletionRecordWrite_framed {w} : Framed (.completionRecordWrite w) (execCompletionRecordWrite w) := by
  intro I o T s h
  unfold execCompletionRecordWrite
  have tried := tryQload_keeps (w := w) h rfl rfl rfl rfl rfl rfl rfl rfl rfl rfl rfl rfl rfl rfl
  dsimp only
  generalize s.tryQload w = s at tried
  split
  · split
    · refine .ite (.next tried) (.ite (.next (forgetAll_keeps tried rfl rfl rfl)) (.ite (.ite ?lost ?_)
        (.next tried)))
      case lost => exact .next (writeRecord_keeps tried rfl rfl rfl rfl rfl rfl rfl rfl rfl rfl rfl rfl rfl)
      split
      all_goals
        rename_i pages
        have asked := Keeps.snd pages (pagesOk_keeps tried rfl rfl rfl rfl)
      · exact .next (writeRecord_keeps asked rfl rfl rfl rfl rfl rfl rfl rfl rfl rfl rfl rfl rfl)
      · exact .next asked
      · exact .next (writeRecord_keeps asked rfl rfl rfl rfl rfl rfl rfl rfl rfl rfl rfl rfl rfl)
    · exact .next tried
  · exact .next tried

theorem execStatisticsWrite_framed {w} : Framed (.statisticsWrite w) (execStatisticsWrite w) := by
  intro I o T s h
  unfold execStatisticsWrite
  split
  · split
    · refine .ite (.next h) ?_
      dsimp only
      split
      all_goals
        rename_i scales
        have read := Keeps.snd2 scales (scales_keeps h rfl rfl rfl rfl rfl rfl rfl rfl rfl rfl rfl rfl rfl rfl)
      · exact .next read
      · exact .next (endWork_keeps read rfl rfl rfl rfl rfl rfl rfl rfl rfl)
      · exact .ite (.next (openWork_keeps read rfl rfl rfl rfl rfl rfl rfl rfl rfl rfl)) (.next (each_keeps
          (modWork_keeps read rfl) fun _ _ h => writeOut_keeps h rfl rfl rfl rfl rfl rfl rfl rfl rfl rfl rfl rfl rfl))
    · exact .next h
  · exact .next h

theorem execClass0TrailerWrite_framed {w} : Framed (.class0TrailerWrite w) (execClass0TrailerWrite w) := by
  intro I o T s h
  unfold execClass0TrailerWrite
  split
  · split
    · refine .ite (.next h) (.ite (.next (forget_keeps (.ite (count_keeps h rfl) h) rfl rfl rfl)) (.ite (.ite ?_
        (.next h)) ?_))
      · exact .next (writeTrailer_keeps h rfl rfl rfl rfl rfl rfl rfl rfl rfl rfl rfl rfl rfl)
      split
      all_goals
        rename_i dest
        have asked := Keeps.snd dest (destOk_keeps h rfl rfl rfl rfl)
      · exact .next (writeTrailer_keeps asked rfl rfl rfl rfl rfl rfl rfl rfl rfl rfl rfl rfl rfl)
      · exact .next asked
      · exact .next (forget_keeps (count_keeps asked rfl) rfl rfl rfl)
    · exact .next h
  · exact .next h

/-! ### Streams and stream programs -/

theorem execTokenRefill_framed {stream} : Framed (.tokenRefill stream) (execTokenRefill stream) := by
  intro I o T s h
  unfold execTokenRefill
  refine .ite (.next h) ?_
  split
  · exact .next (modDisp_keeps h rfl)
  · exact .next h

theorem execOverflowRelease_framed {stream} : Framed (.overflowRelease stream) (execOverflowRelease stream) := by
  intro I o T s h
  unfold execOverflowRelease
  refine .ite (.next h) ?_
  exact .next (resumeTarget_keeps (overflowLeave_keeps h rfl) rfl rfl rfl rfl rfl rfl rfl rfl rfl rfl rfl rfl rfl rfl
    rfl rfl rfl rfl)

theorem execEndProg_framed {w} : Framed (.endProg w) (execEndProg w) :=
  fun h => stream_keeps h rfl rfl rfl rfl rfl rfl rfl rfl rfl rfl

theorem execSeta_framed {w} : Framed (.seta w) (execSeta w) :=
  fun h => stream_keeps h rfl rfl rfl rfl rfl rfl rfl rfl rfl rfl

theorem execAdda_framed {w} : Framed (.adda w) (execAdda w) :=
  fun h => stream_keeps h rfl rfl rfl rfl rfl rfl rfl rfl rfl rfl

theorem execLoop_framed {w} : Framed (.loop w) (execLoop w) :=
  fun h => stream_keeps h rfl rfl rfl rfl rfl rfl rfl rfl rfl rfl

theorem execNext_framed {w} : Framed (.next w) (execNext w) :=
  fun h => stream_keeps h rfl rfl rfl rfl rfl rfl rfl rfl rfl rfl

theorem execIdx_framed {w} : Framed (.idx w) (execIdx w) :=
  fun h => stream_keeps h rfl rfl rfl rfl rfl rfl rfl rfl rfl rfl

theorem execWgt_framed {w} : Framed (.wgt w) (execWgt w) :=
  fun h => stream_keeps h rfl rfl rfl rfl rfl rfl rfl rfl rfl rfl

theorem execLen_framed {w} : Framed (.len w) (execLen w) := by
  intro I o T s h
  unfold execLen
  split
  · refine .ite (stream_keeps h rfl rfl rfl rfl rfl rfl rfl rfl rfl rfl) ?_
    dsimp only
    split
    all_goals
      rename_i bytes
      have read := Keeps.snd bytes (workRead_keeps h rfl rfl rfl rfl rfl rfl rfl rfl rfl rfl rfl rfl rfl rfl)
    · exact stream_keeps read rfl rfl rfl rfl rfl rfl rfl rfl rfl rfl
    · exact .next read
    · exact .next (endWork_keeps read rfl rfl rfl rfl rfl rfl rfl rfl rfl)
  · exact .next h

theorem execBag_framed {w} : Framed (.bag w) (execBag w) :=
  fun h => stream_keeps h rfl rfl rfl rfl rfl rfl rfl rfl rfl rfl

/-! ### Rows, packets, epochs and arrays -/

theorem execRowFetchIssue_framed {w bag i} : Framed (.rowFetchIssue w bag i) (execRowFetchIssue w bag i) := by
  intro I o T s h
  unfold execRowFetchIssue
  split
  · exact .next (openWork_keeps h rfl rfl rfl rfl rfl rfl rfl rfl rfl rfl)
  all_goals
    rename_i range
    have ranged := OptK.of1 range (bagRef_keeps h rfl rfl rfl rfl rfl rfl rfl rfl rfl rfl rfl rfl rfl rfl)
  · exact .next ranged
  refine .ite (.next ranged) ?_
  split
  all_goals
    rename_i space
    have spaced := Keeps.fst space (takeSpace_keeps ranged rfl rfl)
  · exact .next spaced
  split
  all_goals
    rename_i index
    have read := Keeps.snd index (readIndex_keeps spaced rfl rfl rfl rfl rfl rfl rfl rfl rfl rfl rfl rfl rfl rfl)
  · exact .next read
  · exact .next (endWork_keeps read rfl rfl rfl rfl rfl rfl rfl rfl rfl)
  refine .ite ?weight (issueIndex_keeps read rfl rfl rfl rfl rfl rfl rfl rfl rfl rfl rfl rfl rfl rfl)
  split
  all_goals
    rename_i weight
    have weighed := Keeps.snd weight (readWeight_keeps read rfl rfl rfl rfl rfl rfl rfl rfl rfl rfl rfl rfl rfl rfl)
  · exact .next weighed
  · exact .next (endWork_keeps weighed rfl rfl rfl rfl rfl rfl rfl rfl rfl)
  · exact issueIndex_keeps weighed rfl rfl rfl rfl rfl rfl rfl rfl rfl rfl rfl rfl rfl rfl

theorem execRowReturn_framed {tag} : Framed (.rowReturn tag) (execRowReturn tag) := by
  intro I o T s h
  unfold execRowReturn
  have freed {p f} := modEngine_keeps (p := p) (f := f) h rfl
  refine .ite (.next h) ?_
  split
  · exact .next (countTile_keeps h rfl)
  refine .ite (.next (countTile_keeps h rfl)) (.ite (.next freed) ?_)
  split
  · exact .next h
  refine .ite (.next freed) (.ite (.next h) ?_)
  split
  · refine .ite ?scored (.next (arrive_keeps (checkSum_keeps freed rfl) rfl rfl rfl rfl rfl rfl))
    split
    all_goals
      rename_i sel
      have taken := Keeps.fst sel (takeSel_keeps h rfl)
    · exact .next (arrive_keeps (checkSum_keeps (modEngine_keeps taken rfl) rfl) rfl rfl rfl rfl rfl rfl)
    · exact .next taken
  · exact .next freed

theorem execResultPacketCommit_framedTiles {w bag err} : FramedTiles (.resultPacketCommit w bag err)
    (execResultPacketCommit w bag err) := by
  rintro I o s ⟨T, hT, h⟩
  unfold execResultPacketCommit
  split
  · exact .next ⟨T, hT, h⟩
  all_goals
    rename_i packet
    have built := OptK.of3 packet (assemble_keeps h rfl rfl rfl rfl rfl rfl rfl rfl rfl rfl rfl rfl rfl rfl)
  · exact .next ⟨T, hT, built⟩
  · exact .next ⟨T, hT, endWork_keeps built rfl rfl rfl rfl rfl rfl rfl rfl rfl⟩
  · exact .next ⟨T, hT, openWork_keeps built rfl rfl rfl rfl rfl rfl rfl rfl rfl rfl⟩
  split
  · exact .next ⟨T, hT, built⟩
  refine .ite (.next ⟨T, hT, built⟩) ?_
  have rewound {s : State} (h : s.Keeps (Instr.resultPacketCommit w bag err).mayChange I o T) :
      (s.rewindPacket w bag).Kept _ I o :=
    ⟨T, hT, rewindPacket_keeps h rfl rfl rfl rfl rfl⟩
  cases err with
  | word =>
    refine .next (transient_kept (rewound ?_) rfl rfl rfl rfl rfl rfl rfl rfl rfl rfl rfl rfl rfl)
    split
    · exact countError_keeps built rfl rfl
    · exact built
  | residue u =>
    exact .ite (.next (transient_kept (rewound (countResidue_keeps built rfl)) rfl rfl rfl rfl rfl rfl rfl rfl rfl
      rfl rfl rfl rfl)) (.next ⟨T, hT, built⟩)
  | none =>
    dsimp only
    split
    · exact .next ⟨T, hT, park_keeps built rfl rfl rfl rfl rfl rfl⟩
    split
    all_goals
      rename_i space
      have spaced := Keeps.fst space (takeSpace_keeps built rfl rfl)
    · exact .next ⟨T, hT, spaced⟩
    refine .ite ?_ (.next ⟨T, hT, commitPacket_keeps spaced rfl rfl rfl rfl rfl rfl rfl rfl rfl rfl rfl rfl rfl⟩)
    split
    all_goals
      rename_i dest
      have asked := Keeps.snd dest (destOk_keeps spaced rfl rfl rfl rfl)
    · exact .next ⟨T, hT, commitPacket_keeps asked rfl rfl rfl rfl rfl rfl rfl rfl rfl rfl rfl rfl rfl⟩
    · exact .next ⟨T, hT, asked⟩
    · exact .next ⟨T, hT, endWork_keeps (modWork_keeps asked rfl) rfl rfl rfl rfl rfl rfl rfl rfl rfl⟩

theorem execEngineEpochReport_framed {slot pos} : Framed (.engineEpochReport slot pos)
    (execEngineEpochReport slot pos) := by
  intro I o T s h
  unfold execEngineEpochReport
  extract_lets i p
  split
  · split
    · exact .next h
    refine .ite (.next h) ?_
    extract_lets mine rows s₁ s₂ s₃
    have emitted : s₂.Keeps (Instr.engineEpochReport slot pos).mayChange I o T :=
      each_keeps (modEngine_keeps h rfl) fun s r h => emitRecord_keeps h rfl rfl rfl
    have told : s₃.Keeps (Instr.engineEpochReport slot pos).mayChange I o T := by
      clear_value s₂
      unfold s₃
      split
      · exact tally_keeps emitted rfl rfl
      · exact emitted
    clear_value s₃
    split
    · exact .ite (.next (sendCommits_keeps (setScatter_keeps told rfl) rfl rfl rfl)) (.next
        (setScatter_keeps told rfl))
    · exact .next told
  · exact .next h

theorem execEpochCut_framed {slot} : Framed (.epochCut slot) (execEpochCut slot) := by
  intro I o T s h
  unfold execEpochCut
  split
  · split
    · exact .ite (.next h) (.next (setScatter_keeps h rfl))
    · exact .next h
  · exact .next h

theorem execArrayPass_framed {w bag arr} : Framed (.arrayPass w bag arr) (execArrayPass w bag arr) := by
  intro I o T s h
  unfold execArrayPass
  split
  · exact .next h
  refine .ite (.next h) (.ite (.ite (.next h) ?interact) ?score)
  case interact =>
    split
    all_goals
      rename_i inputs
      have read := Keeps.snd inputs (inputsOf_keeps h rfl rfl rfl rfl rfl rfl rfl rfl rfl rfl rfl rfl rfl rfl)
    · exact .next (unitStarts_keeps (count_keeps (each_keeps read fun _ _ h => count_keeps
        (modBag_keeps h rfl) rfl) rfl) rfl rfl rfl)
    · exact .next read
  case score =>
    have packets {a c} := takePackets_keeps (a := a) (cls := c) h rfl rfl rfl
    dsimp only
    split
    · exact .next (openWork_keeps packets rfl rfl rfl rfl rfl rfl rfl rfl rfl rfl)
    all_goals
      rename_i range
      have ranged := OptK.of1 range (bagRef_keeps packets rfl rfl rfl rfl rfl rfl rfl rfl rfl rfl rfl rfl rfl rfl)
    · exact .next ranged
    · exact .ite (.next ranged) (.next (syncLinks_keeps (modBag_keeps (unitStarts_keeps (countN_keeps
        (count_keeps ranged rfl) rfl) rfl rfl rfl) rfl) rfl))

theorem execMulticastPacket_framed {w bag} : Framed (.multicastPacket w bag) (execMulticastPacket w bag) := by
  intro I o T s h
  unfold execMulticastPacket
  split
  · exact .next (openWork_keeps h rfl rfl rfl rfl rfl rfl rfl rfl rfl rfl)
  all_goals
    rename_i range
    have ranged := OptK.of1 range (bagRef_keeps h rfl rfl rfl rfl rfl rfl rfl rfl rfl rfl rfl rfl rfl rfl)
  · exact .next ranged
  refine .ite (.next ranged) ?_
  split
  · exact .next (sendPacket_keeps ranged rfl rfl)
  · split
    all_goals
      rename_i bytes
      have read := Keeps.snd bytes (workRead_keeps ranged rfl rfl rfl rfl rfl rfl rfl rfl rfl rfl rfl rfl rfl rfl)
    · exact .next (sendPacket_keeps read rfl rfl)
    · exact .next read
    · exact .next (endWork_keeps read rfl rfl rfl rfl rfl rfl rfl rfl rfl)
  · exact .next ranged

theorem execRotationStep_framed {set} : Framed (.rotationStep set) (execRotationStep set) := by
  intro I o T s h
  unfold execRotationStep
  split
  · have dealt {p} := dealBatches_keeps (p := p) h rfl rfl rfl rfl rfl rfl rfl rfl rfl rfl rfl rfl rfl rfl
    exact .ite (.next h) (.ite (.next dealt) (.next (with_arr (each_keeps dealt
      fun _ _ h => batchStep_keeps h rfl rfl rfl rfl) rfl)))
  · exact .next h

theorem execSemaphoreStall_framed {pair} : Framed (.semaphoreStall pair) (execSemaphoreStall pair) := by
  intro I o T s h
  unfold execSemaphoreStall
  have stalled {p v a j} := count_keeps (i := arrayCounter a j) (setSem_keeps (p := p) (v := v) h rfl) rfl
  exact .ite (.next h) (.next (tallyNotice_keeps (notice_keeps (.ite (setArray_keeps stalled rfl) stalled) rfl rfl
    rfl rfl rfl) rfl rfl))

theorem execAdd_framed {m} : Framed (.add m) (execAdd m) :=
  fun h => aluOp_keeps h rfl rfl rfl rfl rfl rfl rfl rfl rfl rfl

theorem execSub_framed {m} : Framed (.sub m) (execSub m) :=
  fun h => aluOp_keeps h rfl rfl rfl rfl rfl rfl rfl rfl rfl rfl

theorem execAnd_framed {m} : Framed (.and m) (execAnd m) :=
  fun h => aluOp_keeps h rfl rfl rfl rfl rfl rfl rfl rfl rfl rfl

theorem execOr_framed {m} : Framed (.or m) (execOr m) :=
  fun h => aluOp_keeps h rfl rfl rfl rfl rfl rfl rfl rfl rfl rfl

theorem execXor_framed {m} : Framed (.xor m) (execXor m) :=
  fun h => aluOp_keeps h rfl rfl rfl rfl rfl rfl rfl rfl rfl rfl

theorem execSll_framed {m} : Framed (.sll m) (execSll m) :=
  fun h => shiftOp_keeps h rfl rfl rfl rfl rfl rfl rfl rfl rfl rfl

theorem execSrl_framed {m} : Framed (.srl m) (execSrl m) :=
  fun h => shiftOp_keeps h rfl rfl rfl rfl rfl rfl rfl rfl rfl rfl

theorem execSra_framed {m} : Framed (.sra m) (execSra m) :=
  fun h => shiftOp_keeps h rfl rfl rfl rfl rfl rfl rfl rfl rfl rfl

theorem execMul_framed {m} : Framed (.mul m) (execMul m) :=
  fun h => aluOp_keeps h rfl rfl rfl rfl rfl rfl rfl rfl rfl rfl

theorem execMulhu_framed {m} : Framed (.mulhu m) (execMulhu m) :=
  fun h => aluOp_keeps h rfl rfl rfl rfl rfl rfl rfl rfl rfl rfl

theorem execDivu_framed {m} : Framed (.divu m) (execDivu m) :=
  fun h => aluOp_keeps h rfl rfl rfl rfl rfl rfl rfl rfl rfl rfl

theorem execRemu_framed {m} : Framed (.remu m) (execRemu m) :=
  fun h => aluOp_keeps h rfl rfl rfl rfl rfl rfl rfl rfl rfl rfl

theorem execSlt_framed {m} : Framed (.slt m) (execSlt m) :=
  fun h => aluOp_keeps h rfl rfl rfl rfl rfl rfl rfl rfl rfl rfl

theorem execSltu_framed {m} : Framed (.sltu m) (execSltu m) :=
  fun h => aluOp_keeps h rfl rfl rfl rfl rfl rfl rfl rfl rfl rfl

theorem execAddi_framed {m} : Framed (.addi m) (execAddi m) :=
  fun h => immOp_keeps h rfl rfl rfl rfl rfl rfl rfl rfl rfl rfl

theorem execAndi_framed {m} : Framed (.andi m) (execAndi m) :=
  fun h => immOp_keeps h rfl rfl rfl rfl rfl rfl rfl rfl rfl rfl

theorem execOri_framed {m} : Framed (.ori m) (execOri m) :=
  fun h => immOp_keeps h rfl rfl rfl rfl rfl rfl rfl rfl rfl rfl

theorem execXori_framed {m} : Framed (.xori m) (execXori m) :=
  fun h => immOp_keeps h rfl rfl rfl rfl rfl rfl rfl rfl rfl rfl

/-! ### Porters -/

theorem execShi_framed {m} : Framed (.shi m) (execShi m) := by
  intro I o T s h
  unfold execShi
  refine insn_keeps h (fun a => ?_) rfl rfl rfl rfl rfl rfl rfl rfl rfl rfl
  split
  · exact .next (retireReg_keeps h rfl rfl)
  · exact .next (retireReg_keeps h rfl rfl)
  · exact .next (retireReg_keeps h rfl rfl)
  · exact Running.broken_keeps h rfl rfl rfl rfl rfl rfl rfl rfl rfl rfl

theorem execLui_framed {m} : Framed (.lui m) (execLui m) :=
  fun h => immOp_keeps h rfl rfl rfl rfl rfl rfl rfl rfl rfl rfl

theorem execLdB_framed {m} : Framed (.ldB m) (execLdB m) :=
  fun h => loadOp_keeps h rfl rfl rfl rfl rfl rfl rfl rfl rfl rfl rfl rfl rfl

theorem execLdH_framed {m} : Framed (.ldH m) (execLdH m) :=
  fun h => loadOp_keeps h rfl rfl rfl rfl rfl rfl rfl rfl rfl rfl rfl rfl rfl

theorem execLdW_framed {m} : Framed (.ldW m) (execLdW m) :=
  fun h => loadOp_keeps h rfl rfl rfl rfl rfl rfl rfl rfl rfl rfl rfl rfl rfl

theorem execLdD_framed {m} : Framed (.ldD m) (execLdD m) :=
  fun h => loadOp_keeps h rfl rfl rfl rfl rfl rfl rfl rfl rfl rfl rfl rfl rfl

theorem execStB_framed {m} : Framed (.stB m) (execStB m) :=
  fun h => storeOp_keeps h rfl rfl rfl rfl rfl rfl rfl rfl rfl rfl rfl rfl rfl

theorem execStH_framed {m} : Framed (.stH m) (execStH m) :=
  fun h => storeOp_keeps h rfl rfl rfl rfl rfl rfl rfl rfl rfl rfl rfl rfl rfl

theorem execStW_framed {m} : Framed (.stW m) (execStW m) :=
  fun h => storeOp_keeps h rfl rfl rfl rfl rfl rfl rfl rfl rfl rfl rfl rfl rfl

theorem execStD_framed {m} : Framed (.stD m) (execStD m) :=
  fun h => storeOp_keeps h rfl rfl rfl rfl rfl rfl rfl rfl rfl rfl rfl rfl rfl

theorem execBeq_framed {m} : Framed (.beq m) (execBeq m) :=
  fun h => branchOp_keeps h rfl rfl rfl rfl rfl rfl rfl rfl rfl rfl

theorem execBne_framed {m} : Framed (.bne m) (execBne m) :=
  fun h => branchOp_keeps h rfl rfl rfl rfl rfl rfl rfl rfl rfl rfl

theorem execBlt_framed {m} : Framed (.blt m) (execBlt m) :=
  fun h => branchOp_keeps h rfl rfl rfl rfl rfl rfl rfl rfl rfl rfl

theorem execBge_framed {m} : Framed (.bge m) (execBge m) :=
  fun h => branchOp_keeps h rfl rfl rfl rfl rfl rfl rfl rfl rfl rfl

theorem execBltu_framed {m} : Framed (.bltu m) (execBltu m) :=
  fun h => branchOp_keeps h rfl rfl rfl rfl rfl rfl rfl rfl rfl rfl

theorem execBgeu_framed {m} : Framed (.bgeu m) (execBgeu m) :=
  fun h => branchOp_keeps h rfl rfl rfl rfl rfl rfl rfl rfl rfl rfl

theorem execJal_framed {m} : Framed (.jal m) (execJal m) :=
  fun h => insn_keeps h (fun _ => .next (retireTo_keeps (modPorter_keeps h rfl) rfl rfl)) rfl rfl rfl rfl rfl rfl rfl
    rfl rfl rfl

theorem execJalr_framed {m} : Framed (.jalr m) (execJalr m) :=
  fun h => insn_keeps h (fun _ => .next (retireTo_keeps (modPorter_keeps h rfl) rfl rfl)) rfl rfl rfl rfl rfl rfl rfl
    rfl rfl rfl

theorem execFadd_framed {m} : Framed (.fadd m) (execFadd m) :=
  fun h => fpOp_keeps h rfl rfl rfl rfl rfl rfl rfl rfl rfl rfl

theorem execFsub_framed {m} : Framed (.fsub m) (execFsub m) :=
  fun h => fpOp_keeps h rfl rfl rfl rfl rfl rfl rfl rfl rfl rfl

theorem execFmul_framed {m} : Framed (.fmul m) (execFmul m) :=
  fun h => fpOp_keeps h rfl rfl rfl rfl rfl rfl rfl rfl rfl rfl

theorem execFdiv_framed {m} : Framed (.fdiv m) (execFdiv m) :=
  fun h => fpOp_keeps h rfl rfl rfl rfl rfl rfl rfl rfl rfl rfl

theorem execFsqrt_framed {m} : Framed (.fsqrt m) (execFsqrt m) :=
  fun h => fpOp_keeps h rfl rfl rfl rfl rfl rfl rfl rfl rfl rfl

theorem execFmin_framed {m} : Framed (.fmin m) (execFmin m) :=
  fun h => fpOp_keeps h rfl rfl rfl rfl rfl rfl rfl rfl rfl rfl

theorem execFmax_framed {m} : Framed (.fmax m) (execFmax m) :=
  fun h => fpOp_keeps h rfl rfl rfl rfl rfl rfl rfl rfl rfl rfl

theorem execFle_framed {m} : Framed (.fle m) (execFle m) :=
  fun h => fpOp_keeps h rfl rfl rfl rfl rfl rfl rfl rfl rfl rfl

theorem execFlt_framed {m} : Framed (.flt m) (execFlt m) :=
  fun h => fpOp_keeps h rfl rfl rfl rfl rfl rfl rfl rfl rfl rfl

theorem execFeq_framed {m} : Framed (.feq m) (execFeq m) :=
  fun h => fpOp_keeps h rfl rfl rfl rfl rfl rfl rfl rfl rfl rfl

theorem execFcvtD_framed {m} : Framed (.fcvtD m) (execFcvtD m) :=
  fun h => fcvtOp_keeps h rfl rfl rfl rfl rfl rfl rfl rfl rfl rfl

theorem execFcvtS_framed {m} : Framed (.fcvtS m) (execFcvtS m) :=
  fun h => fcvtOp_keeps h rfl rfl rfl rfl rfl rfl rfl rfl rfl rfl

theorem execFcvtI_framed {m} : Framed (.fcvtI m) (execFcvtI m) := by
  intro I o T s h
  unfold execFcvtI
  refine insn_keeps h (fun a => ?_) rfl rfl rfl rfl rfl rfl rfl rfl rfl rfl
  dsimp only
  split
  · exact .next (retireReg_keeps h rfl rfl)
  · exact .next (retireReg_keeps (draw_keeps h rfl) rfl rfl)

theorem execIcvt_framed {m} : Framed (.icvt m) (execIcvt m) :=
  fun h => insn_keeps h (fun _ => .next (retireReg_keeps h rfl rfl)) rfl rfl rfl rfl rfl rfl rfl rfl rfl rfl

theorem execFpk_framed {m} : Framed (.fpk m) (execFpk m) := by
  intro I o T s h
  unfold execFpk
  refine insn_keeps h (fun a => ?_) rfl rfl rfl rfl rfl rfl rfl rfl rfl rfl
  split
  · exact Running.broken_keeps h rfl rfl rfl rfl rfl rfl rfl rfl rfl rfl
  · exact .next (retireReg_keeps h rfl rfl)
  · exact .ite (.next (retireReg_keeps (draw_keeps h rfl) rfl rfl)) (.next (retireReg_keeps h rfl rfl))

theorem execCsrr_framed {m} : Framed (.csrr m) (execCsrr m) := by
  intro I o T s h
  unfold execCsrr
  refine insn_keeps h (fun a => ?_) rfl rfl rfl rfl rfl rfl rfl rfl rfl rfl
  split
  · exact .next (retireReg_keeps h rfl rfl)
  · exact .next (retireReg_keeps h rfl rfl)
  · exact .next (retireReg_keeps h rfl rfl)
  · exact .next (retireReg_keeps (draw_keeps h rfl) rfl rfl)

theorem execCsrw_framed {m} : Framed (.csrw m) (execCsrw m) :=
  fun h => insn_keeps h (fun _ => .next (retireNext_keeps (.ite (modPorter_keeps h rfl) h) rfl rfl)) rfl rfl rfl rfl
    rfl rfl rfl rfl rfl rfl

theorem execCclean_framed {m} : Framed (.cclean m) (execCclean m) :=
  fun h => cacheOp_keeps h rfl rfl rfl rfl rfl rfl rfl rfl rfl rfl

theorem execCinv_framed {m} : Framed (.cinv m) (execCinv m) :=
  fun h => cacheOp_keeps h rfl rfl rfl rfl rfl rfl rfl rfl rfl rfl

theorem execCflush_framed {m} : Framed (.cflush m) (execCflush m) :=
  fun h => cacheOp_keeps h rfl rfl rfl rfl rfl rfl rfl rfl rfl rfl

theorem execCinvAll_framed {m} : Framed (.cinvAll m) (execCinvAll m) :=
  fun h => cacheOp_keeps h rfl rfl rfl rfl rfl rfl rfl rfl rfl rfl

theorem execCflushAll_framed {m} : Framed (.cflushAll m) (execCflushAll m) :=
  fun h => cacheOp_keeps h rfl rfl rfl rfl rfl rfl rfl rfl rfl rfl

theorem execSysFence_framed {m} : Framed (.sysFence m) (execSysFence m) :=
  fun h => insn_keeps h (fun _ => .ite (.next (retireNext_keeps h rfl rfl))
    (.next h)) rfl rfl rfl rfl rfl rfl rfl rfl rfl rfl

theorem execWaitt_framed {m} : Framed (.waitt m) (execWaitt m) := by
  intro I o T s h
  unfold execWaitt
  refine insn_keeps h (fun a => ?_) rfl rfl rfl rfl rfl rfl rfl rfl rfl rfl
  dsimp only
  split
  · exact .next (retireNext_keeps h rfl rfl)
  · exact .next (retireNext_keeps (modPorter_keeps h rfl) rfl rfl)
  · exact .next (modPorter_keeps h rfl)

theorem execTicketComplete_framed {m t} : Framed (.ticketComplete m t) (execTicketComplete m t) := by
  intro I o T s h
  unfold execTicketComplete
  refine .ite (.next h) ?_
  have tried {l} : (s.each l fun s w => s.tryQload w).Keeps _ I o T :=
    each_keeps h fun s w h => tryQload_keeps h rfl rfl rfl rfl rfl rfl rfl rfl rfl rfl rfl rfl rfl rfl
  dsimp only
  split
  · have ended {w} := opEnds_keeps (w := w) (tried (l := s.opsOf m t)) rfl rfl rfl
    exact .ite (.next (ticketDone_keeps ended rfl rfl)) (.next ended)
  split
  · exact .ite (.next tried) (.next (ticketDone_keeps tried rfl rfl))
  · exact .next tried

theorem execHalt_framed {m} : Framed (.halt m) (execHalt m) := by
  intro I o T s h
  unfold execHalt
  have left {i n} := leaveCache_keeps (m := n) (count_keeps (i := i) h rfl) rfl rfl rfl rfl rfl rfl rfl rfl
  refine insn_keeps h (fun a => .next (tally_keeps (leaveTickets_keeps (modPorter_keeps
    ?_ rfl) rfl rfl) rfl rfl)) rfl rfl rfl rfl rfl rfl rfl rfl rfl rfl
  split
  · exact .ite left (releaseShare_keeps left rfl)
  · exact modWork_keeps left rfl

theorem execDataCacheFill_framed {m} : Framed (.dataCacheFill m) (execDataCacheFill m) := by
  intro I o T s h
  unfold execDataCacheFill
  dsimp only
  split
  · split
    · refine .ite (.next h) ?_
      split
      · exact .next (fillLine_keeps (setPorter_keeps h rfl) rfl rfl rfl rfl rfl rfl rfl rfl)
      · exact .next h
      · exact .next (endWork_keeps h rfl rfl rfl rfl rfl rfl rfl rfl rfl)
    · exact .next h
  · exact .next h

theorem execEngineRelease_framed {m} : Framed (.engineRelease m) (execEngineRelease m) := by
  intro I o T s h
  unfold execEngineRelease
  have broken (r : Running) := Running.broken_keeps (r := r) h rfl rfl rfl rfl rfl rfl rfl rfl rfl rfl
  refine wide_keeps h (fun r w t => ?_) rfl rfl rfl rfl rfl rfl rfl rfl rfl rfl
  split
  · exact launchDesc_keeps h (fun _ => .ite (broken r) (.next (launched_keeps (modPorter_keeps
      (releaseShare_keeps h rfl) rfl) rfl rfl))) rfl rfl rfl rfl rfl rfl rfl rfl rfl rfl rfl rfl rfl
  · exact broken r

theorem execEngineGather_framed {m} : Framed (.engineGather m) (execEngineGather m) :=
  fun h => launchOp_keeps h (fun _ _ _ h1 => startGather_keeps h1 rfl) rfl rfl rfl rfl rfl rfl rfl rfl rfl rfl rfl
    rfl rfl

theorem execArrayScore_framed {m} : Framed (.arrayScore m) (execArrayScore m) :=
  fun h => launchOp_keeps h (fun _ _ _ h1 => startScore_keeps h1 rfl rfl rfl rfl rfl rfl rfl rfl rfl rfl rfl rfl rfl
    rfl) rfl rfl rfl rfl rfl rfl rfl rfl rfl rfl rfl rfl rfl

theorem execMoverList_framed {m} : Framed (.moverList m) (execMoverList m) :=
  fun h => wide_keeps h (fun _ _ _ => .ite (Running.broken_keeps h rfl rfl rfl rfl rfl rfl rfl rfl rfl rfl)
    (launchList_keeps h rfl rfl rfl rfl rfl rfl rfl rfl rfl rfl)) rfl rfl rfl rfl rfl rfl rfl rfl rfl rfl

theorem execMoverCopy_framed {m} : Framed (.moverCopy m) (execMoverCopy m) :=
  fun h => wide_keeps h (fun _ _ _ => .ite (Running.broken_keeps h rfl rfl rfl rfl rfl rfl rfl rfl rfl rfl)
    (launchList_keeps h rfl rfl rfl rfl rfl rfl rfl rfl rfl rfl)) rfl rfl rfl rfl rfl rfl rfl rfl rfl rfl

theorem execMoverAbort_framed {m} : Framed (.moverAbort m) (execMoverAbort m) := by
  intro I o T s h
  unfold execMoverAbort
  exact wide_keeps h (fun _ _ _ => .ite (Running.broken_keeps h rfl rfl rfl rfl rfl rfl rfl rfl rfl rfl) (.next
    (retireTo_keeps (stopChan_keeps h rfl rfl rfl rfl rfl) rfl rfl))) rfl rfl rfl rfl rfl rfl rfl rfl rfl rfl

theorem execWaitSpace_framed {m} : Framed (.waitSpace m) (execWaitSpace m) :=
  fun h => semWait_keeps h rfl rfl rfl rfl rfl rfl rfl rfl rfl rfl

theorem execPostFill_framed {m} : Framed (.postFill m) (execPostFill m) :=
  fun h => semPost_keeps h rfl rfl rfl rfl rfl rfl rfl rfl rfl rfl

theorem execWaitFill_framed {m} : Framed (.waitFill m) (execWaitFill m) :=
  fun h => semWait_keeps h rfl rfl rfl rfl rfl rfl rfl rfl rfl rfl

theorem execPostSpace_framed {m} : Framed (.postSpace m) (execPostSpace m) :=
  fun h => semPost_keeps h rfl rfl rfl rfl rfl rfl rfl rfl rfl rfl

theorem execSemWaitSatisfied_framed {m} : Framed (.semWaitSatisfied m) (execSemWaitSatisfied m) :=
  fun h => .ite (.next h) (.ite (.next h) (.next (retireTo_keeps (setSem_keeps h rfl) rfl rfl)))

/-! ### The mover and translation -/

theorem execMoverDescriptorRead_framed {ch} : Framed (.moverDescriptorRead ch) (execMoverDescriptorRead ch) := by
  intro I o T s h
  unfold execMoverDescriptorRead
  have set {v} := setChan_keeps (c := ch) (v := v) h rfl
  dsimp only
  split
  · refine .ite (.next h) (.ite (.next (readOut_keeps set rfl rfl rfl rfl rfl rfl rfl rfl rfl rfl rfl rfl)) (.ite
      ?peer ?near))
    case peer =>
      split
      · exact .next (sendDesc_keeps set rfl)
      · exact .next set
    case near =>
      split
      · exact .next set
      · exact .next h
      · exact .next set
  · exact .next h

theorem execCopy_framed {ch} : Framed (.copy ch) (execCopy ch) :=
  fun h => startDesc_keeps h rfl rfl rfl rfl rfl rfl rfl

theorem execFill_framed {ch} : Framed (.fill ch) (execFill ch) :=
  fun h => startDesc_keeps h rfl rfl rfl rfl rfl rfl rfl

theorem execNop_framed {ch} : Framed (.nop ch) (execNop ch) :=
  fun h => startDesc_keeps h rfl rfl rfl rfl rfl rfl rfl

theorem execMoverBurstGrant_framed : Framed .moverBurstGrant execMoverBurstGrant := by
  intro I o T s h
  unfold execMoverBurstGrant
  have settled : (s.each (List.range 32) State.settleChan).Keeps _ I o T :=
    each_keeps h fun s ch h => settleChan_keeps h rfl rfl rfl rfl rfl rfl rfl rfl
  have cold {c} := issueCold_keeps (c := c) settled rfl rfl rfl rfl rfl rfl rfl rfl rfl rfl rfl rfl
  have turn {f} := modMov_keeps (f := f) settled rfl
  have burst {f ch d b} := issueBurst_keeps (ch := ch) (d := d) (b := b) (turn (f :=
      f)) rfl rfl rfl rfl rfl rfl rfl rfl rfl rfl rfl rfl rfl
  refine .ite (.next h) ?_
  dsimp only
  split
  · refine .ite ?_ (.next cold)
    split
    · exact .ite (.next turn) (.next burst)
    · exact .next turn
  · exact .next cold
  · split
    · exact .ite (.next turn) (.next burst)
    · exact .next turn
  · exact .next settled

theorem execMoverDescriptorComplete_framed {ch} : Framed (.moverDescriptorComplete ch)
    (execMoverDescriptorComplete ch) := by
  intro I o T s h
  unfold execMoverDescriptorComplete
  dsimp only
  split
  · have signalled {v n} := tallyNotice_keeps (u := 114) (raise_keeps (off := Reg.mvNotice) (bits := n)
      (setChan_keeps (c := ch) (v := v) h rfl) rfl) rfl rfl
    exact .ite (.next h) (.ite (.next (nextList_keeps (.ite signalled h) rfl)) (.next (modChan_keeps
      (.ite signalled h) rfl)))
  · exact .next h

theorem execFirmwareChannelStart_framed {ch desc phys} : Framed (.firmwareChannelStart ch desc phys)
    (execFirmwareChannelStart ch desc phys) :=
  fun h => .ite (.next h) (.next (setChan_keeps h rfl))

theorem execColdFetchReturn_framed {tag} : Framed (.coldFetchReturn tag) (execColdFetchReturn tag) := by
  intro I o T s h
  unfold execColdFetchReturn
  dsimp only
  split
  · exact .next (deliver_keeps (modMov_keeps h rfl) rfl rfl rfl)
  · exact .next h

theorem execFaultTake_framed {e} : Framed (.faultTake e) (execFaultTake e) := by
  intro I o T s h
  unfold execFaultTake
  split
  · exact .ite (.next h) (.next (setFault_keeps h rfl))
  · exact .next h

theorem execWalkDone_framed {e res} : Framed (.walkDone e res) (execWalkDone e res) := by
  intro I o T s h
  unfold execWalkDone
  split
  · refine .ite (.next h) (.ite (.next (count_keeps (setFault_keeps h rfl) rfl)) ?_)
    cases res with
    | none =>
      refine .next (retryPort_keeps (each_keeps (setFault_keeps h rfl) fun s a h => ?_) rfl rfl rfl rfl rfl rfl rfl
        rfl rfl rfl rfl rfl)
      exact denied_keeps (unqueue_keeps h rfl rfl rfl rfl rfl) rfl rfl rfl rfl rfl rfl rfl rfl rfl rfl rfl
    | some m =>
      have filled {t} := count_keeps (i := 0x016) (tcFill_keeps (e := t) h rfl) rfl
      refine .next (retryPort_keeps (each_keeps (each_keeps filled fun _ _ h => setFault_keeps h rfl)
        fun s x h => ?_) rfl rfl rfl rfl rfl rfl rfl rfl rfl rfl rfl rfl)
      exact resumeAll_keeps h rfl rfl rfl rfl rfl rfl rfl rfl rfl rfl rfl rfl
  · exact .next h

theorem execTranslationInvalidate_framed {scope} : Framed (.translationInvalidate scope)
    (execTranslationInvalidate scope) := by
  intro I o T s h
  unfold execTranslationInvalidate
  refine .ite (.next h) ?_
  exact .next (each_keeps (modMov_keeps (count_keeps h rfl) rfl) (fun _ _ h1 => demote_keeps h1 rfl rfl))

theorem execInvalidationDone_framed : Framed .invalidationDone execInvalidationDone := by
  intro I o T s h
  unfold execInvalidationDone
  split
  · exact .ite (.next h) (.next (modMov_keeps h rfl))
  · exact .next h

theorem execInitiatorIssue_framed {c} : Framed (.initiatorIssue c) (execInitiatorIssue c) := by
  intro I o T s h
  unfold execInitiatorIssue
  refine .ite (.next h) ?_
  dsimp only
  split
  · exact .next (present_keeps h rfl rfl)
  split
  · exact .next h
  · exact .next (present_keeps h rfl rfl)
  · exact .next (present_keeps (draw_keeps h rfl) rfl rfl)

/-! ### The Host Port and the Peer Ports -/

theorem execRequestCredit_framed {c} : Framed (.requestCredit c) (execRequestCredit c) :=
  fun h => .ite (.next h) (.next (setHiChan_keeps (setHiChan_keeps h rfl) rfl))

theorem execWriteBeatCredit_framed {c} : Framed (.writeBeatCredit c) (execWriteBeatCredit c) :=
  fun h => .ite (.next h) (.next (setHiChan_keeps h rfl))

theorem execReadData_framed {c id resp data} : Framed (.readData c id resp data) (execReadData c id resp data) := by
  intro I o T s h
  unfold execReadData
  split
  · have retired {n} := retire_keeps (c := c.val) (id := n) h rfl
    refine .ite (.next retired) (.ite ?_ ?_)
    · exact .next (answer_keeps retired rfl rfl rfl rfl rfl rfl rfl rfl rfl rfl rfl rfl rfl)
    · exact .next (denied_keeps (countResp_keeps retired rfl) rfl rfl rfl rfl rfl rfl rfl rfl rfl rfl rfl)
  · exact .next h

theorem execWriteResponse_framed {c id resp} : Framed (.writeResponse c id resp) (execWriteResponse c id resp) := by
  intro I o T s h
  unfold execWriteResponse
  split
  · have retired {n} := retire_keeps (c := c.val) (id := n) h rfl
    have acked {n own} := ownAcked_keeps (own := own) (host := true) (retired (n := n)) rfl rfl rfl rfl rfl
    refine .ite (.next retired) (.ite (.next acked) ?_)
    exact .next (denied_keeps (countResp_keeps acked rfl) rfl rfl rfl rfl rfl rfl rfl rfl rfl rfl rfl)
  · exact .next h

theorem execTargetCreditStart_framed : Framed .targetCreditStart execTargetCreditStart :=
  fun h => .ite (.next (with_pwr h rfl)) (.next h)

theorem execHostEpochRise_framed {rstN linkUp} : Framed (.hostEpochRise rstN linkUp)
    (execHostEpochRise rstN linkUp) := by
  intro I o T s h
  unfold execHostEpochRise
  refine .ite (.next h) (.ite (.next (with_host h rfl h.epoch)) ?_)
  have risen := with_host (v := ⟨(s.host.epoch + 1) % 2 ^ 16, rstN, linkUp, false, s.host.waiting⟩) h rfl
      fun _ => Nat.mod_lt _ (by decide)
  refine .next (resumeTarget_keeps ?_ rfl rfl rfl rfl rfl rfl rfl rfl rfl rfl rfl rfl rfl rfl rfl rfl rfl rfl)
  refine each_keeps (each_keeps (each_keeps (each_keeps (each_keeps ?noted ?ends) ?stops) ?rings) ?channels) ?reads
  case noted =>
    exact stageFails_keeps (count_keeps (tallyNotice_keeps (raise_keeps risen rfl) rfl rfl) rfl) rfl rfl rfl rfl rfl
      rfl rfl
  case ends => exact fun s e h => epochEnd_keeps h rfl rfl rfl rfl rfl rfl rfl rfl rfl
  case stops => exact fun s ch h => stopChan_keeps h rfl rfl rfl rfl rfl
  case rings => exact fun s r h => setRingEn_keeps (setRing_keeps (dropFetched_keeps h rfl rfl rfl) rfl) rfl
  case channels => exact fun s c h => resetChannel_keeps h rfl rfl rfl rfl rfl rfl
  case reads => exact fun _ _ h => modChan_keeps h rfl

theorem execHostPortResume_framed : Framed .hostPortResume execHostPortResume :=
  fun h => .ite (.next (with_host h rfl h.epoch)) (.next h)

theorem execWrite_framed {p pkt} : Framed (.write p pkt) (execWrite p pkt) :=
  fun h => receive_keeps h rfl rfl rfl rfl rfl rfl rfl rfl rfl rfl rfl rfl rfl rfl

theorem execReadReq_framed {p pkt} : Framed (.readReq p pkt) (execReadReq p pkt) :=
  fun h => receive_keeps h rfl rfl rfl rfl rfl rfl rfl rfl rfl rfl rfl rfl rfl rfl

theorem execReadResp_framed {p pkt} : Framed (.readResp p pkt) (execReadResp p pkt) :=
  fun h => receive_keeps h rfl rfl rfl rfl rfl rfl rfl rfl rfl rfl rfl rfl rfl rfl

theorem execAck_framed {p pkt} : Framed (.ack p pkt) (execAck p pkt) :=
  fun h => receive_keeps h rfl rfl rfl rfl rfl rfl rfl rfl rfl rfl rfl rfl rfl rfl

theorem execNak_framed {p pkt} : Framed (.nak p pkt) (execNak p pkt) :=
  fun h => receive_keeps h rfl rfl rfl rfl rfl rfl rfl rfl rfl rfl rfl rfl rfl rfl

theorem execMgmt_framed {p pkt} : Framed (.mgmt p pkt) (execMgmt p pkt) :=
  fun h => receive_keeps h rfl rfl rfl rfl rfl rfl rfl rfl rfl rfl rfl rfl rfl rfl

theorem execPeerAckTimer_framed {c} : Framed (.peerAckTimer c) (execPeerAckTimer c) :=
  fun h => .ite (.next (sendAck_keeps h rfl)) (.next h)

theorem execPeerRtoExpire_framed {c} : Framed (.peerRtoExpire c) (execPeerRtoExpire c) := by
  intro I o T s h
  unfold execPeerRtoExpire
  refine .ite (.next h) ?_
  exact .next (each_keeps (.ite (count_keeps (tallyNotice_keeps (notice_keeps
    (setConn_keeps h rfl) rfl rfl rfl rfl rfl) rfl rfl) rfl) (setConn_keeps h rfl))
    (fun _ _ h1 => resend_keeps h1 rfl))

/-! ### Links and flits -/

theorem execLinkTrainStart_framed {n} : Framed (.linkTrainStart n) (execLinkTrainStart n) :=
  fun h => .ite (.next (setLink_keeps h rfl)) (.next h)

theorem execTrainingStepTimeout_framed {n} : Framed (.trainingStepTimeout n) (execTrainingStepTimeout n) := by
  intro I o T s h
  unfold execTrainingStepTimeout
  refine .ite (.next h) ?_
  exact .ite (.next (linkDown_keeps h rfl rfl rfl rfl rfl rfl rfl rfl rfl rfl rfl rfl)) (.ite (.next
    (setLink_keeps h rfl)) (.next h))

theorem execExchange_framed {n agentNo stackNo capGib version} : Framed (.exchange n agentNo stackNo capGib version)
    (execExchange n agentNo stackNo capGib version) := by
  intro I o T s h
  unfold execExchange
  refine .ite (.next h) ?_
  exact .ite (.next (setLink_keeps (modAgent_keeps h rfl) rfl)) (.next (setLink_keeps h rfl))

theorem execTrainingComplete_framed {n badOut badIn} : Framed (.trainingComplete n badOut badIn)
    (execTrainingComplete n badOut badIn) := by
  intro I o T s h
  unfold execTrainingComplete
  refine .ite (.next h) (.ite (.next (setLink_keeps h rfl)) ?_)
  refine .next (nextMig_keeps (noteReady_keeps ?_ rfl) rfl rfl rfl)
  have trained {v f} := reportHalf_keeps (n := n) (modAgent_keeps (n := n) (f := f) (installRemaps_keeps (n := n)
      (setLink_keeps (n := n) (v := v) h rfl) rfl) rfl) rfl rfl rfl rfl rfl
  exact .ite (agentReturns_keeps trained rfl rfl rfl rfl rfl rfl rfl rfl rfl rfl rfl rfl) trained

theorem execFlitSlot_framed {n dir} : Framed (.flitSlot n dir) (execFlitSlot n dir) := by
  intro I o T s h
  unfold execFlitSlot
  have one {d f} := modDir_keeps (n := n.val) (d := d) (f := f) h rfl
  have both {d e f g} := modDir_keeps (n := n.val) (d := e) (f := g) (one (d := d) (f := f)) rfl
  refine .ite (.next h) (.ite (.next one) (.ite (.next one) (.ite (.next both) (.ite (.next both) (.ite ?_
    (.next both))))))
  exact .next (modDir_keeps (modDir_keeps (.ite_snd (draw_keeps h rfl) h) rfl) rfl)

theorem execIdleFlit_framed {n dir err} : Framed (.idleFlit n dir err) (execIdleFlit n dir err) :=
  fun h => rxFlit_keeps h (fun _ _ _ h => h) rfl rfl

theorem execDataFlit_framed {n dir err} : Framed (.dataFlit n dir err) (execDataFlit n dir err) :=
  fun h => rxFlit_keeps h (fun _ _ _ h => h) rfl rfl

theorem execControlFlit_framed {n dir err} : Framed (.controlFlit n dir err) (execControlFlit n dir err) := by
  intro I o T s h
  unfold execControlFlit
  exact rxFlit_keeps h (fun _ _ _ h1 => .ite (latchAgent_keeps (takeMgmt_keeps h1 rfl rfl rfl rfl rfl rfl rfl rfl)
    rfl rfl rfl) (takeMgmt_keeps h1 rfl rfl rfl rfl rfl rfl rfl rfl)) rfl rfl

theorem execRetryFlit_framed {n dir err} : Framed (.retryFlit n dir err) (execRetryFlit n dir err) :=
  fun h => rxFlit_keeps h (fun _ _ _ h1 => tally_keeps (count_keeps (modDir_keeps h1 rfl) rfl) rfl rfl) rfl rfl

theorem execRetryTimeout_framed {n dir} : Framed (.retryTimeout n dir) (execRetryTimeout n dir) :=
  fun h => .ite (.next (modDir_keeps h rfl)) (.next h)

theorem execRetrainOnReplays_framed {n dir} : Framed (.retrainOnReplays n dir) (execRetrainOnReplays n dir) :=
  fun h => .ite (.next (enterRetrain_keeps h rfl rfl)) (.next h)

theorem execEyeMarginLow_framed {n dir lane} : Framed (.eyeMarginLow n dir lane) (execEyeMarginLow n dir lane) :=
  fun h => .ite (.next (enterRetrain_keeps h rfl rfl)) (.next h)

theorem execNoFlitTimeout_framed {n dir} : Framed (.noFlitTimeout n dir) (execNoFlitTimeout n dir) :=
  fun h => .ite (.next (linkDown_keeps h rfl rfl rfl rfl rfl rfl rfl rfl rfl rfl rfl rfl)) (.next h)

theorem execRetrainComplete_framed {n badOut badIn} : Framed (.retrainComplete n badOut badIn)
    (execRetrainComplete n badOut badIn) := by
  intro I o T s h
  unfold execRetrainComplete
  refine .ite (.next h) ?_
  refine .ite ?_ ?_
  · exact .next (linkDown_keeps (setLink_keeps h rfl) rfl rfl rfl rfl rfl rfl rfl rfl rfl rfl rfl rfl)
  · exact .next (reportHalf_keeps (tally_keeps (log_keeps (setLink_keeps h rfl) rfl rfl rfl rfl) rfl rfl) rfl rfl rfl
      rfl rfl)

theorem execLinkMessageSend_framed {n dir vc pack} : Framed (.linkMessageSend n dir vc pack)
    (execLinkMessageSend n dir vc pack) := by
  intro I o T s h
  unfold execLinkMessageSend
  have drawn {c : Prop} [Decidable c] : (if c then s.draw else (0, s)).2.Keeps _ I o T := .ite_snd
      (draw_keeps h rfl) h
  refine .ite (.next h) (.ite (.ite (.next (modDir_keeps drawn rfl)) (.next drawn)) ?_)
  split
  · exact .ite (.next (modDir_keeps drawn rfl)) (.next drawn)
  · exact .next drawn

theorem execRd_framed {n vc} : Framed (.rd n vc) (execRd n vc) :=
  fun h => takeRequest_keeps h rfl rfl rfl rfl

theorem execRdPack_framed {n} : Framed (.rdPack n) (execRdPack n) :=
  fun h => takeRequest_keeps h rfl rfl rfl rfl

theorem execWr_framed {n vc} : Framed (.wr n vc) (execWr n vc) :=
  fun h => takeRequest_keeps h rfl rfl rfl rfl

/-! ### Messages at the agents and at the die -/

theorem execFlush_framed {n} : Framed (.flush n) (execFlush n) :=
  fun h => .ite (.next h) (atAgent_keeps h (fun _ _ h1 => queueMsg_keeps h1 rfl) rfl)

theorem execGrad_framed {n} : Framed (.grad n) (execGrad n) := by
  intro I o T s h
  unfold execGrad
  refine atAgent_keeps h (fun m s h => ?_) rfl
  dsimp only
  split
  · exact record_keeps h rfl rfl rfl
  split
  · exact record_keeps (tallyCrate_keeps (setCrate_keeps h rfl) rfl rfl) rfl rfl rfl
  · exact h

theorem execCommit_framed {n} : Framed (.commit n) (execCommit n) := by
  intro I o T s h
  unfold execCommit
  refine atAgent_keeps h (fun m s h => ?_) rfl
  dsimp only
  split
  · exact .ite h (trySeal_keeps (modAgent_keeps h rfl) rfl)
  · exact h

theorem execAbort_framed {n} : Framed (.abort n) (execAbort n) := by
  intro I o T s h
  unfold execAbort
  refine atAgent_keeps h (fun m s h => ?_) rfl
  split
  · exact .ite h (tallyCrate_keeps (setCrate_keeps h rfl) rfl rfl)
  · exact h

theorem execGo_framed {n} : Framed (.go n) (execGo n) := by
  intro I o T s h
  unfold execGo
  refine atAgent_keeps h (fun m s h => ?_) rfl
  split
  · exact .ite (setCrate_keeps h rfl) h
  · exact h

theorem execEvict_framed {n} : Framed (.evict n) (execEvict n) :=
  fun h => atAgent_keeps h (fun _ _ h1 => .ite h1 (modAgent_keeps h1 rfl)) rfl

theorem execRefreshAck_framed {n} : Framed (.refreshAck n) (execRefreshAck n) := by
  intro I o T s h
  unfold execRefreshAck
  refine atAgent_keeps h (fun m s h => .ite ?migration ?crate) rfl
  case migration =>
    split
    · exact .ite (nextMig_keeps (count_keeps (modAgent_keeps h rfl) rfl) rfl rfl rfl) h
    · exact h
  case crate =>
    split
    · exact .ite (crateDone_keeps h rfl rfl rfl rfl) (setCrate_keeps h rfl)
    · exact h

theorem execCrateCommitStart_framedTiles {x} : FramedTiles (.crateCommitStart x) (execCrateCommitStart x) := by
  rintro I o s h
  unfold execCrateCommitStart
  dsimp only
  split
  · have checked {l : List Nat} {u : Nat} : (s.each l fun s _ => (s.countResidue u).transient u).Kept _ I o :=
      foldl_keeps (State.Kept · _ I o) _ _ _ h fun s _ h => transient_kept (h.lift
        fun _ _ h => countResidue_keeps h rfl) rfl rfl rfl rfl rfl rfl rfl rfl rfl rfl rfl rfl rfl
    refine .ite (.next h) (.ite (.next checked) (.ite (.next (checked.lift
      fun _ _ h => startCommit_keeps h rfl rfl rfl rfl rfl rfl)) ?_))
    split
    · exact .next (checked.lift fun _ _ h => rewindWork_keeps h rfl rfl rfl rfl rfl rfl)
    · exact .next checked
  · exact .next h

theorem execCrateApplyDone_framed {n} : Framed (.crateApplyDone n) (execCrateApplyDone n) := by
  intro I o T s h
  unfold execCrateApplyDone
  dsimp only
  split
  · exact .ite (.next h) (.next (beginRefresh_keeps (each_keeps h fun _ _ h => store_keeps h rfl) rfl rfl rfl rfl))
  · exact .next h

theorem execRdRsp_framed {n vc} : Framed (.rdRsp n vc) (execRdRsp n vc) :=
  fun h => atDie_keeps h (fun _ _ h1 => deliver_keeps h1 rfl rfl rfl) rfl

theorem execRdPackRsp_framed {n} : Framed (.rdPackRsp n) (execRdPackRsp n) :=
  fun h => atDie_keeps h (fun _ _ h1 => each_keeps h1 (fun _ _ h2 => deliver_keeps h2 rfl rfl rfl)) rfl

theorem execWrAck_framed {n vc} : Framed (.wrAck n vc) (execWrAck n vc) :=
  fun h => atDie_keeps h (fun _ _ h1 => acked_keeps h1 rfl rfl rfl rfl rfl rfl) rfl

theorem execFlushAck_framed {n} : Framed (.flushAck n) (execFlushAck n) :=
  fun h => atDie_keeps h (fun _ _ h1 => acked_keeps h1 rfl rfl rfl rfl rfl rfl) rfl

theorem execHwm_framed {n} : Framed (.hwm n) (execHwm n) := by
  intro I o T s h
  unfold execHwm
  refine atDie_keeps h (fun m s h => ?_) rfl
  split
  · exact .ite (setScatter_keeps h rfl) h
  · exact h

theorem execFull_framed {n} : Framed (.full n) (execFull n) := by
  intro I o T s h
  unfold execFull
  refine atDie_keeps h (fun m s h => ?_) rfl
  dsimp only
  split
  · refine .ite h ?_
    have noted {j} := count_keeps (i := j) (notice_keeps (off := Reg.scNotice) (bits := 1)
        (k := 7) h rfl rfl rfl rfl rfl) rfl
    have replayed {j i v w e} := replayFrom_keeps (w := w) (e := e) (setScatter_keeps (i := i) (v := v) (noted
        (j := j)) rfl) rfl rfl rfl
    split
    · exact setScatter_keeps replayed rfl
    · exact replayed
  · exact h

theorem execSealed_framed {n} : Framed (.sealed n) (execSealed n) := by
  intro I o T s h
  unfold execSealed
  refine atDie_keeps h (fun m s h => ?_) rfl
  dsimp only
  split
  · exact .ite h (.ite (each_keeps (setScatter_keeps h rfl) fun _ _ h => sendCtl_keeps h rfl)
      (setScatter_keeps h rfl))
  · exact h

theorem execCrateAck_framed {n} : Framed (.crateAck n) (execCrateAck n) :=
  fun h => atDie_keeps h (fun _ _ h1 => crateAcked_keeps (modAgent_keeps h1 rfl) rfl rfl) rfl

theorem execRefresh_framed {n} : Framed (.refresh n) (execRefresh n) := by
  intro I o T s h
  unfold execRefresh
  refine atDie_keeps h (fun m s h => ackRefresh_keeps ?_ rfl) rfl
  have cached {p f} := modEngine_keeps (p := p) (f := f) h rfl
  split
  · split
    · exact writePlaced_keeps cached rfl
    · exact cached
  · exact cached

theorem execEnable_framed {n} : Framed (.enable n) (execEnable n) :=
  fun h => atDie_keeps h (fun _ _ h1 => .ite (abandonMigration_keeps h1 rfl rfl rfl rfl rfl) (ackRefresh_keeps
    (modEngine_keeps h1 rfl) rfl)) rfl

theorem execLinkMgmt_framed {n msg} : Framed (.linkMgmt n msg) (execLinkMgmt n msg) := by
  intro I o T s h
  unfold execLinkMgmt
  refine .ite (.next h) ?_
  cases msg with
  | thermal level => exact .next (sendMgmt_keeps h rfl)
  | touch addr =>
    dsimp only
    split
    · exact .next (sendMgmt_keeps h rfl)
    · exact .next h
  | corrected unit => exact .next (count_keeps (sendMgmt_keeps h rfl) rfl)
  | uncorrectable addr => exact .next (count_keeps (sendMgmt_keeps (modAgent_keeps h rfl) rfl) rfl)
  | ieee1500 wr => exact .ite (.next (sendParts_keeps h rfl)) (.next h)
  | wso bits => exact .ite (.next (sendParts_keeps (modAgent_keeps h rfl) rfl)) (.next h)

/-! ### Hold queue, repair, migration and promotion -/

theorem execControllerBusy_framed {n vc} : Framed (.controllerBusy n vc) (execControllerBusy n vc) := by
  intro I o T s h
  unfold execControllerBusy
  dsimp only
  split
  · exact .ite (.next h) (.next (hold_keeps h rfl rfl rfl))
  · exact .next h

theorem execHoldReissue_framed {n accepted} : Framed (.holdReissue n accepted) (execHoldReissue n accepted) := by
  intro I o T s h
  unfold execHoldReissue
  refine .ite (.next h) ?_
  exact .next (each_keeps (modAgent_keeps h rfl) (fun _ _ h1 => serveHeld_keeps h1 rfl rfl rfl))

theorem execHoldTimeout_framed {n i} : Framed (.holdTimeout n i) (execHoldTimeout n i) := by
  intro I o T s h
  unfold execHoldTimeout
  dsimp only
  split
  · refine .ite (.next h) ?_
    have taken {f d g} := modDir_keeps (n := n.val) (d := d) (f := g) (modAgent_keeps (n := n.val) (f := f) h rfl) rfl
    have noted {f d g off b j u k x y} := tally_keeps (u := u) (event := k) (arg0 := x) (arg1 := y) (count_keeps
        (i := j) (raise_keeps (off := off) (bits := b) (taken (f := f) (d := d) (g := g)) rfl) rfl) rfl rfl
    exact .ite (.next (servePack_keeps (each_keeps (report_keeps (draw_keeps noted rfl) rfl rfl rfl rfl rfl)
      fun _ _ h => modAgent_keeps h rfl) rfl rfl)) (.next (queueMsg_keeps (each_keeps (report_keeps
      (draw_keeps noted rfl) rfl rfl rfl rfl rfl) fun _ _ h => modAgent_keeps h rfl) rfl))
  · exact .next h

theorem execRemapInstall_framed {n unit} : Framed (.remapInstall n unit) (execRemapInstall n unit) := by
  intro I o T s h
  unfold execRemapInstall
  refine .ite (.next h) ?_
  split
  · exact .next (tellPartner_keeps (sendMgmt_keeps h rfl) rfl)
  · exact .next (report_keeps h rfl rfl rfl rfl rfl)

theorem execRowRecovery_framed {n addr} : Framed (.rowRecovery n addr) (execRowRecovery n addr) := by
  intro I o T s h
  unfold execRowRecovery
  refine .ite (.next h) ?_
  have parked {s : State} (h : s.Keeps (Instr.rowRecovery n addr).mayChange I o T) :
      (s.each (s.worksOfRow n addr.toNat) fun s w => s.rewindAndPark w 1 (.row addr.toNat)).Keeps _ I o T :=
    each_keeps h fun s w h => rewindAndPark_keeps h rfl rfl rfl rfl rfl rfl rfl rfl rfl rfl rfl rfl
  split
  · exact .next (tellPartner_keeps (sendMgmt_keeps h rfl) rfl)
  · have reported {r} := parked (report_keeps (cause := 0x04) (n := r) h rfl rfl rfl rfl rfl)
    exact .next (.ite reported (report_keeps (modAgent_keeps reported rfl) rfl rfl rfl rfl rfl))
  · exact .next (.ite (parked h) (report_keeps (modAgent_keeps (parked h) rfl) rfl rfl rfl rfl rfl))

theorem execStackRepair_framed {n repaired} : Framed (.stackRepair n repaired) (execStackRepair n repaired) := by
  intro I o T s h
  unfold execStackRepair
  refine .ite (.next h) ?_
  exact .next (agentReturns_keeps (log_keeps (modAgent_keeps (each_keeps (each_keeps (modSk_keeps h
    (fun _ h => h) rfl) (fun _ _ h1 => modAgent_keeps h1 rfl)) (fun _ _ h1 => freeBytes_keeps h1 rfl rfl)) rfl) rfl
    rfl rfl rfl) rfl rfl rfl rfl rfl rfl rfl rfl rfl rfl rfl rfl)

theorem execTouchPeriod_framed {n} : Framed (.touchPeriod n) (execTouchPeriod n) := by
  intro I o T s h
  unfold execTouchPeriod
  refine .ite (.next h) ?_
  exact .next (modAgent_keeps (each_keeps (.ite h (tally_keeps h rfl rfl)) (fun _ _ h1 => sendMgmt_keeps h1 rfl)) rfl)

theorem execMigrationStart_framed {n table row pos block} : Framed (.migrationStart n table row pos block)
    (execMigrationStart n table row pos block) := by
  intro I o T s h
  unfold execMigrationStart
  split
  · exact .ite (.next h) (.next (beginMig_keeps h rfl rfl))
  · exact .next h

theorem execMigrationCopyAck_framed {n late} : Framed (.migrationCopyAck n late) (execMigrationCopyAck n late) := by
  intro I o T s h
  unfold execMigrationCopyAck
  have abandoned := abandonMigration_keeps (n := n.val) h rfl rfl rfl rfl rfl
  dsimp only
  split
  · split
    · refine .ite (.next h) (.ite (.next abandoned) (.ite (.next h) (.ite (.ite ?enabled (.next abandoned)) (.ite
        (.next abandoned) ?again))))
      case enabled => exact .next (tally_keeps (agentSends_keeps (setAgent_keeps h rfl) rfl) rfl rfl)
      case again => exact .next (tally_keeps (count_keeps (copyMig_keeps h rfl rfl) rfl) rfl rfl)
    · exact .next h
  · exact .next h

theorem execMigrationRemove_framed {pos addr} : Framed (.migrationRemove pos addr) (execMigrationRemove pos addr) :=
  fun h => .ite (.next h) (.next (sendMgmt_keeps (modEngine_keeps h rfl) rfl))

theorem execPromotionStart_framed {tc frame recent} : Framed (.promotionStart tc frame recent) (execPromotionStart tc
    frame recent) := by
  intro I o T s h
  unfold execPromotionStart
  split
  · refine .ite (.next h) (.ite ?free (.ite (.next h) ?demoted))
    case free =>
      split
      · exact .ite (.next h) (.next (modChan_keeps (setFrame_keeps h rfl) rfl))
      · exact .next h
    case demoted =>
      split
      · exact .next (demote_keeps h rfl rfl)
      · exact .next (count_keeps h rfl)
  · exact .next h

theorem execPromotionCopyDone_framed : Framed .promotionCopyDone execPromotionCopyDone := by
  intro I o T s h
  unfold execPromotionCopyDone
  split
  · exact .ite (.next h) (.ite (.next (setFrame_keeps h rfl)) (.next (count_keeps (setFrame_keeps h rfl) rfl)))
  · exact .next h

theorem execDemotion_framed {frame} : Framed (.demotion frame) (execDemotion frame) :=
  fun h => .ite (.next (demote_keeps h rfl rfl)) (.next h)

theorem execFrameFree_framed {frame} : Framed (.frameFree frame) (execFrameFree frame) :=
  fun h => .ite (.next h) (.next (modMov_keeps (setFrame_keeps h rfl) rfl))

/-! ### Failure hiding -/

theorem execThermalSample_framed {temps} : Framed (.thermalSample temps) (execThermalSample temps) := by
  intro I o T s h
  unfold execThermalSample
  refine .ite (.next h) ?_
  refine .ite ?_ (.next (modSk_keeps h (fun _ h => h) rfl))
  exact .next (pinsGoOn_keeps (setLevel_keeps (modSk_keeps h (fun _ h => h) rfl) rfl rfl rfl rfl rfl rfl) rfl rfl rfl)

theorem execRampStep_framed {pos} : Framed (.rampStep pos) (execRampStep pos) :=
  fun h => .ite (.next h) (.next (each_keeps h (fun _ _ h1 => modEng_keeps h1 (by simp) rfl)))

theorem execSupplyExcursion_framed {dom third} : Framed (.supplyExcursion dom third)
    (execSupplyExcursion dom third) := by
  intro I o T s h
  unfold execSupplyExcursion
  refine .ite (.next h) ?_
  have stopped {v} := with_pwr (v := v) (count_keeps (i := 0x063) h rfl) rfl
  have failed {v} {c : Prop} [Decidable c] : State.Keeps (if c then State.coreLost { s.count 0x063 with pwr := v } 3
      else { s.count 0x063 with pwr := v }) _ I o T :=
    .ite (coreLost_keeps stopped rfl rfl rfl rfl rfl rfl rfl rfl) stopped
  have rewound {s : State} {ws : List Nat} (h : s.Keeps (Instr.supplyExcursion dom third).mayChange I o T) :
      (s.each ws fun s w => if (s.scatterSlot w).isSome then s else s.rewindWork w 3).Keeps _ I o T :=
    each_keeps h fun s w h => .ite h (rewindWork_keeps h rfl rfl rfl rfl rfl rfl)
  exact .ite (.next (report_keeps (.ite (rewound failed) failed) rfl rfl rfl rfl rfl)) (.next (.ite (rewound failed)
    failed))

theorem execSupplyRecovered_framed {dom} : Framed (.supplyRecovered dom) (execSupplyRecovered dom) := by
  intro I o T s h
  unfold execSupplyRecovered
  refine .ite (.next h) ?_
  exact .ite (.next (rampAll_keeps (with_pwr h rfl) rfl)) (.next (with_pwr h rfl))

theorem execClockLoss_framed {clk} : Framed (.clockLoss clk) (execClockLoss clk) := by
  intro I o T s h
  unfold execClockLoss
  refine .ite (.next h) ?_
  have counted {v} := count_keeps (i := 0x064) (with_pwr (v := v) h rfl) rfl
  cases clk with
  | eclk => exact .next (coreLost_keeps counted rfl rfl rfl rfl rfl rfl rfl rfl)
  | hclk => exact .next (coreLost_keeps counted rfl rfl rfl rfl rfl rfl rfl rfl)
  | pclk => exact .next (coreLost_keeps counted rfl rfl rfl rfl rfl rfl rfl rfl)
  | sclk =>
    refine .ite (.next (raise_keeps ?_ rfl)) (.next ?_)
    all_goals exact modSk_keeps counted (fun _ h => h) rfl
  | mclk n =>
    exact .ite (.next (agentStops_keeps counted rfl rfl rfl rfl rfl rfl rfl rfl rfl rfl rfl rfl)) (.next
      (agentPower_keeps counted rfl))
  | lclk n =>
    exact .ite (.next (linkDown_keeps counted rfl rfl rfl rfl rfl rfl rfl rfl rfl rfl rfl rfl)) (.next counted)

theorem execLockstepMismatch_framed {withinSecond} : Framed (.lockstepMismatch withinSecond)
    (execLockstepMismatch withinSecond) := by
  intro I o T s h
  unfold execLockstepMismatch
  refine .ite (.next h) ?_
  exact .next (report_keeps (skStarts_keeps h rfl rfl rfl rfl) rfl rfl rfl rfl rfl)

theorem execFwStartTimeout_framed : Framed .fwStartTimeout execFwStartTimeout := by
  intro I o T s h
  unfold execFwStartTimeout
  split
  · exact .ite (.next h) (.next (logFw_keeps (skStarts_keeps (modSk_keeps h
      (fun _ h => h) rfl) rfl rfl rfl rfl) rfl rfl rfl rfl))
  · exact .next h

theorem execKnownAnswerCheck_framedTiles {u pass again} : FramedTiles (.knownAnswerCheck u pass again)
    (execKnownAnswerCheck u pass again) := by
  rintro I o s ⟨T, hT, h⟩
  unfold execKnownAnswerCheck
  have suspected {i j v b c u} := suspect_keeps (u := u) (tallyCheck_keeps (u := b) (event := v) (bag := c)
      (count_keeps (i := j) (count_keeps (i := i) (draw_keeps h rfl) rfl) rfl) rfl rfl) rfl rfl rfl rfl rfl
  refine .ite (.next ⟨T, hT, h⟩) (.ite (.next ⟨T, hT, tallyCheck_keeps (checkPassed_keeps h rfl rfl) rfl rfl⟩) (.ite
    (.next ?_) (.next ?_)))
  · exact transient_kept ⟨T, hT, checkPassed_keeps suspected rfl rfl⟩ rfl rfl rfl rfl rfl rfl rfl rfl rfl rfl rfl rfl
      rfl
  · exact permanent_kept ⟨T, hT, count_keeps (count_keeps suspected rfl) rfl⟩ rfl rfl rfl rfl rfl rfl rfl rfl rfl rfl
      rfl rfl rfl

theorem execPorterKnownAnswer_framedTiles {m pass} : FramedTiles (.porterKnownAnswer m pass)
    (execPorterKnownAnswer m pass) := by
  rintro I o s ⟨T, hT, h⟩
  unfold execPorterKnownAnswer
  have counted {i j} := count_keeps (i := j) (count_keeps (i := i) h rfl) rfl
  refine .ite (.next ⟨T, hT, h⟩) (.ite (.next ⟨T, hT, setUnit_keeps h rfl⟩) (.ite (.next ?_) (.next ?_)))
  · exact permanent_kept ⟨T, hT, counted⟩ rfl rfl rfl rfl rfl rfl rfl rfl rfl rfl rfl rfl rfl
  · exact transient_kept ⟨T, hT, replayProgram_keeps (setUnit_keeps counted rfl) rfl rfl rfl rfl rfl rfl rfl rfl⟩ rfl
      rfl rfl rfl rfl rfl rfl rfl rfl rfl rfl rfl rfl

theorem execWatchdogFire_framedTiles {u} : FramedTiles (.watchdogFire u) (execWatchdogFire u) :=
  fun h => .ite (.next (permanent_kept (h.lift fun _ _ h => count_keeps h rfl) rfl rfl rfl rfl rfl rfl rfl rfl rfl
    rfl rfl rfl rfl)) (.next h)

theorem execScrubRead_framedTiles {st res} : FramedTiles (.scrubRead st res) (execScrubRead st res) := by
  rintro I o s ⟨T, hT, h⟩
  unfold execScrubRead
  refine .ite (.next ⟨T, hT, h⟩) ?_
  have drawn := draw_keeps h rfl
  have read {c : Prop} [Decidable c] := Keeps.ite (c := c) (count_keeps (i := 0x067) drawn rfl) drawn
  cases res with
  | good => exact .next ⟨T, hT, read⟩
  | corrected => exact .ite (.next ⟨T, hT, read⟩) (.next ⟨T, hT, countError_keeps read rfl rfl⟩)
  | uncorrectable =>
    exact .next (storageError_kept ⟨T, hT, .ite read (countError_keeps read rfl rfl)⟩ rfl rfl rfl rfl rfl rfl rfl rfl
      rfl rfl rfl rfl rfl)

theorem execSpareRelease_framed {pos} : Framed (.spareRelease pos) (execSpareRelease pos) :=
  fun h => .ite (.next h) (.next (modEngine_keeps h rfl))

theorem execAgentFailover_framed {n} : Framed (.agentFailover n) (execAgentFailover n) := by
  intro I o T s h
  unfold execAgentFailover
  refine .ite (.next h) (.next (report_keeps (each_keeps (each_keeps ?moved ?replays) ?unparks) rfl rfl rfl rfl rfl))
  case moved =>
    exact modDir_keeps (modDir_keeps (modAgent_keeps (setAgent_keeps (takeCommits_keeps
      (dropHalf_keeps h rfl) rfl rfl rfl rfl) rfl) rfl) rfl) rfl
  case replays => exact fun s sc h => replayScatter_keeps h rfl rfl rfl
  case unparks => exact fun _ _ h => unpark_keeps h rfl

theorem execStackLost_framed {st} : Framed (.stackLost st) (execStackLost st) :=
  fun h => .ite (.next h) (.next (report_keeps h rfl rfl rfl rfl rfl))

theorem execParkedRelease_framed {w} : Framed (.parkedRelease w) (execParkedRelease w) := by
  intro I o T s h
  unfold execParkedRelease
  split
  · exact .ite (.next (unpark_keeps h rfl)) (.next h)
  · exact .next h

theorem execReportResend_framed : Framed .reportResend execReportResend :=
  fun h => asked_keeps h (.next (modSk_keeps h (fun _ h => h) rfl))

/-! ### Observation -/

theorem execInventorySweep_framed : Framed .inventorySweep execInventorySweep := by
  intro I o T s h
  unfold execInventorySweep
  have latched {l} : (s.each l fun s n => s.latchAgent n true).Keeps _ I o T :=
    each_keeps h fun s n h => latchAgent_keeps h rfl rfl rfl
  refine .ite (.next h) (.ite (.next latched) (.next (each_keeps (modSnap_keeps latched rfl) fun s w h => ?_)))
  exact writeOut_keeps h rfl rfl rfl rfl rfl rfl rfl rfl rfl rfl rfl rfl rfl

theorem execInventoryDone_framed : Framed .inventoryDone execInventoryDone :=
  fun h => .ite (.next h) (.next (raise_keeps (modSnap_keeps h rfl) rfl))

theorem execTallyPacketForm_framed {unit} : Framed (.tallyPacketForm unit) (execTallyPacketForm unit) :=
  fun h => .ite (.next h) (.ite (.next (foundFull_keeps h rfl rfl)) (.next (setFifo_keeps h rfl)))

theorem execTallyPacketWritten_framed {unit} : Framed (.tallyPacketWritten unit) (execTallyPacketWritten unit) := by
  intro I o T s h
  unfold execTallyPacketWritten
  refine .ite (.next h) ?_
  refine .ite (.next (foundFull_keeps h rfl rfl)) ?_
  exact .next (raise_keeps (count_keeps (modObs_keeps (setFifo_keeps (store_keeps h rfl) rfl)
    (fun _ h₁ h₂ _ => ⟨h₁, h₂, Nat.mod_lt _ (by decide)⟩) rfl) rfl) rfl)

/-! ### Resets -/

theorem execAonResetRelease_framed {fwA fwB rec} : Framed (.aonResetRelease fwA fwB rec) (execAonResetRelease fwA
    fwB rec) := by
  intro I o T s h
  unfold execAonResetRelease
  refine .ite (.next h) ?_
  refine .ite ?_ ?_
  · exact .next (skStarted_keeps (modSk_keeps (with_pwr h rfl) (fun _ h => h) rfl) rfl rfl rfl rfl rfl rfl rfl rfl
      rfl rfl rfl rfl rfl rfl)
  · refine .ite ?_ (.next (modSk_keeps (with_pwr h rfl) (fun _ h => h) rfl))
    exact .next (skStarted_keeps (logFw_keeps (modSk_keeps (modSk_keeps (with_pwr h rfl) (fun _ h => h) rfl)
      (fun _ h => h) rfl) rfl rfl rfl rfl) rfl rfl rfl rfl rfl rfl rfl rfl rfl rfl rfl rfl rfl rfl)

theorem execCoreResetRelease_framed : Framed .coreResetRelease execCoreResetRelease :=
  fun h => .next (with_pwr h rfl)

theorem execEngineDomainResetExit_framedTiles {bad} : FramedTiles (.engineDomainResetExit bad)
    (execEngineDomainResetExit bad) := by
  rintro I o s ⟨T, hT, h⟩
  unfold execEngineDomainResetExit
  refine .ite (.next ⟨T, hT, h⟩) ?_
  obtain ⟨T', hT', tested⟩ := selfTest_kept (bad := bad.toNat) (setPwr_keeps
    (p := { s.engineReset.pwr with engineUp := true }) (engineReset_keeps h rfl rfl rfl rfl rfl rfl rfl rfl rfl rfl
    rfl rfl rfl rfl rfl rfl rfl) rfl) rfl rfl rfl rfl rfl rfl
  refine .ite (.next ⟨T', hT', modSlots_keeps tested (fun _ h => h) rfl⟩) (.next ⟨T', hT', ?_⟩)
  refine each_keeps (modSlots_keeps tested (fun _ h => h) rfl) fun s _ h => ?_
  exact .ite (endCmd_keeps h rfl rfl rfl rfl rfl) (beginStage_keeps h rfl rfl rfl rfl rfl)

theorem execCoreResetAssert_framedTiles : FramedTiles .coreResetAssert execCoreResetAssert :=
  fun h => .next (engineStops_kept (h.lift fun _ _ h => with_pwr h rfl) rfl rfl rfl rfl rfl rfl rfl rfl rfl rfl rfl
    rfl rfl rfl rfl rfl rfl rfl)

theorem execAgentResetRelease_framed {n} : Framed (.agentResetRelease n) (execAgentResetRelease n) :=
  fun h => .next (agentPower_keeps (modAgent_keeps h rfl) rfl)

theorem execTrainingAtResetEnd_framed {n} : Framed (.trainingAtResetEnd n) (execTrainingAtResetEnd n) :=
  fun h => .ite (.next h) (.next (noteReady_keeps (modLink_keeps h rfl) rfl))

/-! ### Management -/

theorem execReportAck_framed {seq} : Framed (.reportAck seq) (execReportAck seq) :=
  fun h => asked_keeps h (.ite (.next (respond_keeps (log_keeps (modSk_keeps h
    (fun _ h => h) rfl) rfl rfl rfl rfl) rfl rfl rfl)) (.next (respond_keeps (draw_keeps h rfl) rfl rfl rfl)))

theorem execSensors_framed : Framed .sensors execSensors :=
  fun h => asked_keeps h (.next (respond_keeps (sense_keeps h rfl rfl) rfl rfl rfl))

theorem execLogRead_framed {first count} : Framed (.logRead first count) (execLogRead first count) :=
  fun h => asked_keeps h (.ite (.next (failUpdate_keeps h rfl rfl rfl)) (.next (respond_keeps h rfl rfl rfl)))

theorem execCounters_framed {first count} : Framed (.counters first count) (execCounters first count) :=
  fun h => asked_keeps h (.ite (.next (failUpdate_keeps h rfl rfl rfl)) (.next (respond_keeps h rfl rfl rfl)))

theorem execConfig_framed {op digest} : Framed (.config op digest) (execConfig op digest) := by
  intro I o T s h
  unfold execConfig
  refine asked_keeps h (.ite (.next (failUpdate_keeps h rfl rfl rfl)) ?_)
  have ran {n} {f : State → State} (hf : ∀ s, State.Keeps s _ I o T → (f s).Keeps
      (Instr.config op digest).mayChange I o T) :=
    OutK.next (command_keeps (op := n) (mgmt := true) h hf rfl rfl rfl rfl rfl)
  split
  · exact .ite (.next (modSlots_keeps h (fun _ h => h) rfl)) (ran fun _ h => beginStage_keeps h rfl rfl rfl rfl rfl)
  · exact ran fun s h => beginActivate_keeps h rfl rfl rfl rfl rfl rfl rfl rfl rfl
  · exact ran fun s h => beginRollback_keeps h rfl rfl rfl rfl rfl rfl rfl rfl rfl
  · exact ran fun s h => beginDigest_keeps h rfl rfl rfl rfl rfl rfl rfl rfl rfl
  · exact ran fun s h => discardStaged_keeps h rfl rfl rfl rfl rfl
  · exact ran fun s h => beginTeardown_keeps h rfl rfl rfl rfl rfl rfl rfl rfl rfl
  · exact .next (failUpdate_keeps h rfl rfl rfl)

theorem execSnapshot_framed : Framed .snapshot execSnapshot :=
  fun h => asked_keeps h (.ite (.next (respond_keeps h rfl rfl rfl)) (.ite (.next (respond_keeps
    (trigger_keeps h rfl rfl rfl rfl rfl) rfl rfl rfl)) (.next (respond_keeps
    (trigger_keeps h rfl rfl rfl rfl rfl) rfl rfl rfl))))

theorem Keeper.setKey_log (k : Keeper) (kind slot : Nat) (body : Bytes) (pass : Nat) :
    (k.setKey kind slot body pass).log = k.log := by
  unfold Keeper.setKey
  split <;> rfl

theorem execKeySet_framed {body overI3c} : Framed (.keySet body overI3c) (execKeySet body overI3c) := by
  intro I o T s h
  unfold execKeySet
  refine asked_keeps h (.ite (.next (failUpdate_keeps h rfl rfl rfl)) (.next (respond_keeps (log_keeps (modSk_keeps
    (draw_keeps h rfl) (fun k hk => ?_) rfl) rfl rfl rfl rfl) rfl rfl rfl)))
  rwa [Keeper.setKey_log]

theorem execFwInfo_framed : Framed .fwInfo execFwInfo :=
  fun h => asked_keeps h (.next (respond_keeps h rfl rfl rfl))

theorem execRequestUpdate_framed : Framed .requestUpdate execRequestUpdate :=
  fun h => asked_keeps h (.ite (.next (pldmRefuse_keeps h rfl rfl)) (.next (pldm_keeps (modUpdate_keeps h rfl) rfl)))

theorem execPassComponentTable_framed {ids} : Framed (.passComponentTable ids) (execPassComponentTable ids) :=
  fun h => asked_keeps h (.ite (.next (pldm_keeps (modUpdate_keeps h rfl) rfl)) (.next (pldmRefuse_keeps h rfl rfl)))

theorem execUpdateComponent_framed {id size} : Framed (.updateComponent id size) (execUpdateComponent id size) :=
  fun h => asked_keeps h (.ite (.next (askData_keeps (pldm_keeps (.ite (modSlots_keeps (modUpdate_keeps h rfl)
    (fun _ h => h) rfl) (modUpdate_keeps h rfl)) rfl) rfl rfl)) (.next (pldmRefuse_keeps h rfl rfl)))

theorem execRequestFirmwareData_framed {offset data signer svn ok} : Framed
    (.requestFirmwareData offset data signer svn ok) (execRequestFirmwareData offset data signer svn ok) := by
  intro I o T s h
  unfold execRequestFirmwareData
  refine asked_keeps h ?_
  have got {f} := modUpdate_keeps (f := f) h rfl
  dsimp only
  split
  · exact .next h
  refine .ite (.next h) (.ite (.next (askData_keeps got rfl rfl)) (.ite ?_ ?_))
  · exact .next (firmwareWritten_keeps got rfl rfl rfl rfl)
  · exact .next (imageWritten_keeps got rfl rfl rfl rfl rfl rfl)

theorem execActivateFirmware_framed : Framed .activateFirmware execActivateFirmware :=
  fun h => asked_keeps h (.ite (.next (logFw_keeps (skStarts_keeps (modSk_keeps (modUpdate_keeps
    (pldm_keeps h rfl) rfl) (fun _ h => h) rfl) rfl rfl rfl rfl) rfl rfl rfl rfl)) (.next
    (pldmRefuse_keeps h rfl rfl)))

theorem execGetStatus_framed : Framed .getStatus execGetStatus :=
  fun h => asked_keeps h (.next (pldm_keeps h rfl))

theorem execCancelUpdate_framed : Framed .cancelUpdate execCancelUpdate :=
  fun h => asked_keeps h (.ite (.next (pldm_keeps (modUpdate_keeps (.ite (modSlots_keeps h
    (fun _ h => h) rfl) h) rfl) rfl)) (.next (pldmRefuse_keeps h rfl rfl)))

theorem execQueryDeviceIdentifiers_framed : Framed .queryDeviceIdentifiers execQueryDeviceIdentifiers :=
  fun h => asked_keeps h (.next (pldm_keeps (draw_keeps h rfl) rfl))

theorem execGetFirmwareParameters_framed : Framed .getFirmwareParameters execGetFirmwareParameters :=
  fun h => asked_keeps h (.next (pldm_keeps h rfl))

theorem execAgentResetAssert_framed {n} : Framed (.agentResetAssert n) (execAgentResetAssert n) := by
  intro I o T s h
  unfold execAgentResetAssert
  refine .ite (.next h) ?_
  exact .next (bankZero_keeps (agentPower_keeps (modAgent_keeps (agentStops_keeps h rfl rfl rfl rfl rfl rfl rfl rfl
    rfl rfl rfl rfl) rfl) rfl) rfl)

theorem execAonResetAssert_framedTiles : FramedTiles .aonResetAssert execAonResetAssert := by
  rintro I o s h
  unfold execAonResetAssert
  have stopped := (engineStops_kept h rfl rfl rfl rfl rfl rfl rfl rfl rfl rfl rfl rfl rfl rfl rfl rfl rfl rfl).lift
      fun _ _ h => each_keeps (l := List.range 16) h fun s n h => modAgent_keeps (n := n) (f :=
      fun a => { a with marker := none, cold := false }) h rfl
  exact .ite (.next h) (.next (stopped.lift fun _ _ h => aon_keeps h rfl rfl rfl rfl))

theorem execClockReturn_framed {clk} : Framed (.clockReturn clk) (execClockReturn clk) := by
  intro I o T s h
  unfold execClockReturn
  refine .ite (.next h) ?_
  have back {v} := with_pwr (v := v) h rfl
  dsimp only
  split
  · refine .ite (.next (skBack_keeps ?_ rfl rfl rfl rfl rfl rfl rfl rfl rfl rfl rfl rfl rfl rfl)) (.next ?_)
    all_goals exact modSk_keeps back (fun _ h => h) rfl
  · exact .next (agentPower_keeps back rfl)
  · exact .next back

theorem execPeerPacketStart_framed {p} : Framed (.peerPacketStart p) (execPeerPacketStart p) := by
  intro I o T s h
  unfold execPeerPacketStart
  dsimp only
  split
  · refine .ite (.next h) (.ite (.next (setPort_keeps h rfl)) ?_)
    split
    · exact .next (startPacket_keeps h rfl rfl)
    split
    · exact .next (startPacket_keeps (setConn_keeps h rfl) rfl rfl)
    · exact .next (setPort_keeps h rfl)
  · exact .next h

theorem execPeerPacketDrop_framed {p pkt} : Framed (.peerPacketDrop p pkt) (execPeerPacketDrop p pkt) := by
  intro I o T s h
  unfold execPeerPacketDrop
  refine .ite (.next h) ?_
  split
  · exact .next (dropPacket_keeps h rfl rfl rfl)
  · exact .next h

/-- Every command changes only what it touches. -/
theorem exec_framed (c : Instr) : FramedTiles c (exec c) := by
  cases c with
  | registerWrite _ _ _ => exact execRegisterWrite_framed.tiles
  | w1cClear _ _ _ _ => exact execW1cClear_framed.tiles
  | sqProd _ _ _ => exact execSqProd_framed.tiles
  | cqCons _ _ _ => exact execCqCons_framed.tiles
  | class0Pool _ _ _ => exact execClass0Pool_framed.tiles
  | class0Score _ _ _ => exact execClass0Score_framed.tiles
  | rgCtlEnSet _ => exact execRgCtlEnSet_framed.tiles
  | rgCtlEnClear _ => exact execRgCtlEnClear_framed.tiles
  | rgAbort _ _ _ => exact execRgAbort_framed.tiles
  | abortAll => exact execAbortAll_framed.tiles
  | mvChHead _ _ => exact execMvChHead_framed.tiles
  | mvChAbort _ => exact execMvChAbort_framed.tiles
  | channelStopped _ => exact execChannelStopped_framed.tiles
  | stage => exact execStage_framed.tiles
  | stageReadDone _ => exact execStageReadDone_framed.tiles
  | activate => exact execActivate_framed.tiles
  | rollback => exact execRollback_framed.tiles
  | activateDigest => exact execActivateDigest_framed.tiles
  | discard => exact execDiscard_framed.tiles
  | teardown => exact execTeardown_framed.tiles
  | activationDrainEnd => exact execActivationDrainEnd_framed.tiles
  | scrubDone => exact execScrubDone_framed.tiles
  | fire _ => exact execFire_framed.tiles
  | snapRelease => exact execSnapRelease_framed.tiles
  | obSinkPtr _ _ => exact execObSinkPtr_framed.tiles
  | skMbLogRead => exact execSkMbLogRead_framed.tiles
  | skMbSensors => exact execSkMbSensors_framed.tiles
  | skMbFwInfo => exact execSkMbFwInfo_framed.tiles
  | skMbReports => exact execSkMbReports_framed.tiles
  | pwCnValidSet _ _ => exact execPwCnValidSet_framed.tiles
  | descriptorFetch _ => exact execDescriptorFetch_framed.tiles
  | gather _ => exact execGather_framed.tiles
  | scatter _ => exact execScatter_framed.tiles
  | scoreCandidate _ => exact execScoreCandidate_framed.tiles
  | interact _ => exact execInteract_framed.tiles
  | project _ => exact execProject_framed.tiles
  | qload _ => exact execQload_framed.tiles
  | fence _ => exact execFence_framed.tiles
  | porter _ => exact execPorter_framed.tiles
  | mailboxPlace _ _ => exact execMailboxPlace_framed.tiles
  | porterProgramStart _ => exact execPorterProgramStart_framed.tiles
  | completionRecordWrite _ => exact execCompletionRecordWrite_framed.tiles
  | statisticsWrite _ => exact execStatisticsWrite_framed.tiles
  | class0TrailerWrite _ => exact execClass0TrailerWrite_framed.tiles
  | tokenRefill _ => exact execTokenRefill_framed.tiles
  | overflowRelease _ => exact execOverflowRelease_framed.tiles
  | endProg _ => exact execEndProg_framed.tiles
  | seta _ => exact execSeta_framed.tiles
  | adda _ => exact execAdda_framed.tiles
  | loop _ => exact execLoop_framed.tiles
  | next _ => exact execNext_framed.tiles
  | idx _ => exact execIdx_framed.tiles
  | wgt _ => exact execWgt_framed.tiles
  | len _ => exact execLen_framed.tiles
  | bag _ => exact execBag_framed.tiles
  | rowFetchIssue _ _ _ => exact execRowFetchIssue_framed.tiles
  | rowReturn _ => exact execRowReturn_framed.tiles
  | resultPacketCommit _ _ _ => exact execResultPacketCommit_framedTiles
  | engineEpochReport _ _ => exact execEngineEpochReport_framed.tiles
  | epochCut _ => exact execEpochCut_framed.tiles
  | arrayPass _ _ _ => exact execArrayPass_framed.tiles
  | multicastPacket _ _ => exact execMulticastPacket_framed.tiles
  | rotationStep _ => exact execRotationStep_framed.tiles
  | semaphoreStall _ => exact execSemaphoreStall_framed.tiles
  | add _ => exact execAdd_framed.tiles
  | sub _ => exact execSub_framed.tiles
  | and _ => exact execAnd_framed.tiles
  | or _ => exact execOr_framed.tiles
  | xor _ => exact execXor_framed.tiles
  | sll _ => exact execSll_framed.tiles
  | srl _ => exact execSrl_framed.tiles
  | sra _ => exact execSra_framed.tiles
  | mul _ => exact execMul_framed.tiles
  | mulhu _ => exact execMulhu_framed.tiles
  | divu _ => exact execDivu_framed.tiles
  | remu _ => exact execRemu_framed.tiles
  | slt _ => exact execSlt_framed.tiles
  | sltu _ => exact execSltu_framed.tiles
  | addi _ => exact execAddi_framed.tiles
  | andi _ => exact execAndi_framed.tiles
  | ori _ => exact execOri_framed.tiles
  | xori _ => exact execXori_framed.tiles
  | shi _ => exact execShi_framed.tiles
  | lui _ => exact execLui_framed.tiles
  | ldB _ => exact execLdB_framed.tiles
  | ldH _ => exact execLdH_framed.tiles
  | ldW _ => exact execLdW_framed.tiles
  | ldD _ => exact execLdD_framed.tiles
  | stB _ => exact execStB_framed.tiles
  | stH _ => exact execStH_framed.tiles
  | stW _ => exact execStW_framed.tiles
  | stD _ => exact execStD_framed.tiles
  | beq _ => exact execBeq_framed.tiles
  | bne _ => exact execBne_framed.tiles
  | blt _ => exact execBlt_framed.tiles
  | bge _ => exact execBge_framed.tiles
  | bltu _ => exact execBltu_framed.tiles
  | bgeu _ => exact execBgeu_framed.tiles
  | jal _ => exact execJal_framed.tiles
  | jalr _ => exact execJalr_framed.tiles
  | fadd _ => exact execFadd_framed.tiles
  | fsub _ => exact execFsub_framed.tiles
  | fmul _ => exact execFmul_framed.tiles
  | fdiv _ => exact execFdiv_framed.tiles
  | fsqrt _ => exact execFsqrt_framed.tiles
  | fmin _ => exact execFmin_framed.tiles
  | fmax _ => exact execFmax_framed.tiles
  | fle _ => exact execFle_framed.tiles
  | flt _ => exact execFlt_framed.tiles
  | feq _ => exact execFeq_framed.tiles
  | fcvtD _ => exact execFcvtD_framed.tiles
  | fcvtS _ => exact execFcvtS_framed.tiles
  | fcvtI _ => exact execFcvtI_framed.tiles
  | icvt _ => exact execIcvt_framed.tiles
  | fpk _ => exact execFpk_framed.tiles
  | csrr _ => exact execCsrr_framed.tiles
  | csrw _ => exact execCsrw_framed.tiles
  | cclean _ => exact execCclean_framed.tiles
  | cinv _ => exact execCinv_framed.tiles
  | cflush _ => exact execCflush_framed.tiles
  | cinvAll _ => exact execCinvAll_framed.tiles
  | cflushAll _ => exact execCflushAll_framed.tiles
  | sysFence _ => exact execSysFence_framed.tiles
  | waitt _ => exact execWaitt_framed.tiles
  | ticketComplete _ _ => exact execTicketComplete_framed.tiles
  | halt _ => exact execHalt_framed.tiles
  | dataCacheFill _ => exact execDataCacheFill_framed.tiles
  | engineRelease _ => exact execEngineRelease_framed.tiles
  | engineGather _ => exact execEngineGather_framed.tiles
  | arrayScore _ => exact execArrayScore_framed.tiles
  | moverList _ => exact execMoverList_framed.tiles
  | moverCopy _ => exact execMoverCopy_framed.tiles
  | moverAbort _ => exact execMoverAbort_framed.tiles
  | waitSpace _ => exact execWaitSpace_framed.tiles
  | postFill _ => exact execPostFill_framed.tiles
  | waitFill _ => exact execWaitFill_framed.tiles
  | postSpace _ => exact execPostSpace_framed.tiles
  | semWaitSatisfied _ => exact execSemWaitSatisfied_framed.tiles
  | moverDescriptorRead _ => exact execMoverDescriptorRead_framed.tiles
  | copy _ => exact execCopy_framed.tiles
  | fill _ => exact execFill_framed.tiles
  | nop _ => exact execNop_framed.tiles
  | moverBurstGrant => exact execMoverBurstGrant_framed.tiles
  | moverDescriptorComplete _ => exact execMoverDescriptorComplete_framed.tiles
  | firmwareChannelStart _ _ _ => exact execFirmwareChannelStart_framed.tiles
  | coldFetchReturn _ => exact execColdFetchReturn_framed.tiles
  | faultTake _ => exact execFaultTake_framed.tiles
  | walkDone _ _ => exact execWalkDone_framed.tiles
  | translationInvalidate _ => exact execTranslationInvalidate_framed.tiles
  | invalidationDone => exact execInvalidationDone_framed.tiles
  | initiatorIssue _ => exact execInitiatorIssue_framed.tiles
  | requestCredit _ => exact execRequestCredit_framed.tiles
  | writeBeatCredit _ => exact execWriteBeatCredit_framed.tiles
  | readData _ _ _ _ => exact execReadData_framed.tiles
  | writeResponse _ _ _ => exact execWriteResponse_framed.tiles
  | targetCreditStart => exact execTargetCreditStart_framed.tiles
  | hostEpochRise _ _ => exact execHostEpochRise_framed.tiles
  | hostPortResume => exact execHostPortResume_framed.tiles
  | write _ _ => exact execWrite_framed.tiles
  | readReq _ _ => exact execReadReq_framed.tiles
  | readResp _ _ => exact execReadResp_framed.tiles
  | ack _ _ => exact execAck_framed.tiles
  | nak _ _ => exact execNak_framed.tiles
  | mgmt _ _ => exact execMgmt_framed.tiles
  | peerAckTimer _ => exact execPeerAckTimer_framed.tiles
  | peerRtoExpire _ => exact execPeerRtoExpire_framed.tiles
  | linkTrainStart _ => exact execLinkTrainStart_framed.tiles
  | trainingStepTimeout _ => exact execTrainingStepTimeout_framed.tiles
  | exchange _ _ _ _ _ => exact execExchange_framed.tiles
  | trainingComplete _ _ _ => exact execTrainingComplete_framed.tiles
  | flitSlot _ _ => exact execFlitSlot_framed.tiles
  | idleFlit _ _ _ => exact execIdleFlit_framed.tiles
  | dataFlit _ _ _ => exact execDataFlit_framed.tiles
  | controlFlit _ _ _ => exact execControlFlit_framed.tiles
  | retryFlit _ _ _ => exact execRetryFlit_framed.tiles
  | retryTimeout _ _ => exact execRetryTimeout_framed.tiles
  | retrainOnReplays _ _ => exact execRetrainOnReplays_framed.tiles
  | eyeMarginLow _ _ _ => exact execEyeMarginLow_framed.tiles
  | noFlitTimeout _ _ => exact execNoFlitTimeout_framed.tiles
  | retrainComplete _ _ _ => exact execRetrainComplete_framed.tiles
  | linkMessageSend _ _ _ _ => exact execLinkMessageSend_framed.tiles
  | rd _ _ => exact execRd_framed.tiles
  | rdPack _ => exact execRdPack_framed.tiles
  | wr _ _ => exact execWr_framed.tiles
  | flush _ => exact execFlush_framed.tiles
  | grad _ => exact execGrad_framed.tiles
  | commit _ => exact execCommit_framed.tiles
  | abort _ => exact execAbort_framed.tiles
  | go _ => exact execGo_framed.tiles
  | evict _ => exact execEvict_framed.tiles
  | refreshAck _ => exact execRefreshAck_framed.tiles
  | crateCommitStart _ => exact execCrateCommitStart_framedTiles
  | crateApplyDone _ => exact execCrateApplyDone_framed.tiles
  | rdRsp _ _ => exact execRdRsp_framed.tiles
  | rdPackRsp _ => exact execRdPackRsp_framed.tiles
  | wrAck _ _ => exact execWrAck_framed.tiles
  | flushAck _ => exact execFlushAck_framed.tiles
  | hwm _ => exact execHwm_framed.tiles
  | full _ => exact execFull_framed.tiles
  | sealed _ => exact execSealed_framed.tiles
  | crateAck _ => exact execCrateAck_framed.tiles
  | refresh _ => exact execRefresh_framed.tiles
  | enable _ => exact execEnable_framed.tiles
  | linkMgmt _ _ => exact execLinkMgmt_framed.tiles
  | controllerBusy _ _ => exact execControllerBusy_framed.tiles
  | holdReissue _ _ => exact execHoldReissue_framed.tiles
  | holdTimeout _ _ => exact execHoldTimeout_framed.tiles
  | remapInstall _ _ => exact execRemapInstall_framed.tiles
  | rowRecovery _ _ => exact execRowRecovery_framed.tiles
  | stackRepair _ _ => exact execStackRepair_framed.tiles
  | touchPeriod _ => exact execTouchPeriod_framed.tiles
  | migrationStart _ _ _ _ _ => exact execMigrationStart_framed.tiles
  | migrationCopyAck _ _ => exact execMigrationCopyAck_framed.tiles
  | migrationRemove _ _ => exact execMigrationRemove_framed.tiles
  | promotionStart _ _ _ => exact execPromotionStart_framed.tiles
  | promotionCopyDone => exact execPromotionCopyDone_framed.tiles
  | demotion _ => exact execDemotion_framed.tiles
  | frameFree _ => exact execFrameFree_framed.tiles
  | thermalSample _ => exact execThermalSample_framed.tiles
  | rampStep _ => exact execRampStep_framed.tiles
  | supplyExcursion _ _ => exact execSupplyExcursion_framed.tiles
  | supplyRecovered _ => exact execSupplyRecovered_framed.tiles
  | clockLoss _ => exact execClockLoss_framed.tiles
  | lockstepMismatch _ => exact execLockstepMismatch_framed.tiles
  | fwStartTimeout => exact execFwStartTimeout_framed.tiles
  | knownAnswerCheck _ _ _ => exact execKnownAnswerCheck_framedTiles
  | porterKnownAnswer _ _ => exact execPorterKnownAnswer_framedTiles
  | watchdogFire _ => exact execWatchdogFire_framedTiles
  | scrubRead _ _ => exact execScrubRead_framedTiles
  | spareRelease _ => exact execSpareRelease_framed.tiles
  | agentFailover _ => exact execAgentFailover_framed.tiles
  | stackLost _ => exact execStackLost_framed.tiles
  | parkedRelease _ => exact execParkedRelease_framed.tiles
  | reportResend => exact execReportResend_framed.tiles
  | inventorySweep => exact execInventorySweep_framed.tiles
  | inventoryDone => exact execInventoryDone_framed.tiles
  | tallyPacketForm _ => exact execTallyPacketForm_framed.tiles
  | tallyPacketWritten _ => exact execTallyPacketWritten_framed.tiles
  | aonResetRelease _ _ _ => exact execAonResetRelease_framed.tiles
  | coreResetRelease => exact execCoreResetRelease_framed.tiles
  | engineDomainResetExit _ => exact execEngineDomainResetExit_framedTiles
  | coreResetAssert => exact execCoreResetAssert_framedTiles
  | agentResetRelease _ => exact execAgentResetRelease_framed.tiles
  | trainingAtResetEnd _ => exact execTrainingAtResetEnd_framed.tiles
  | reportAck _ => exact execReportAck_framed.tiles
  | sensors => exact execSensors_framed.tiles
  | logRead _ _ => exact execLogRead_framed.tiles
  | counters _ _ => exact execCounters_framed.tiles
  | config _ _ => exact execConfig_framed.tiles
  | snapshot => exact execSnapshot_framed.tiles
  | keySet _ _ => exact execKeySet_framed.tiles
  | fwInfo => exact execFwInfo_framed.tiles
  | requestUpdate => exact execRequestUpdate_framed.tiles
  | passComponentTable _ => exact execPassComponentTable_framed.tiles
  | updateComponent _ _ => exact execUpdateComponent_framed.tiles
  | requestFirmwareData _ _ _ _ _ => exact execRequestFirmwareData_framed.tiles
  | activateFirmware => exact execActivateFirmware_framed.tiles
  | getStatus => exact execGetStatus_framed.tiles
  | cancelUpdate => exact execCancelUpdate_framed.tiles
  | queryDeviceIdentifiers => exact execQueryDeviceIdentifiers_framed.tiles
  | getFirmwareParameters => exact execGetFirmwareParameters_framed.tiles
  | agentResetAssert _ => exact execAgentResetAssert_framed.tiles
  | aonResetAssert => exact execAonResetAssert_framedTiles
  | clockReturn _ => exact execClockReturn_framed.tiles
  | peerPacketStart _ => exact execPeerPacketStart_framed.tiles
  | peerPacketDrop _ _ => exact execPeerPacketDrop_framed.tiles

/-- Settles O5: what a command may change is what it touches. -/
theorem commandFrames : Obligations.CommandFrames := by
  unfold Obligations.CommandFrames
  intro c s t next
  have start : s.Kept c.mayChange False s := ⟨_, False.elim, .refl _ s⟩
  obtain ⟨T, -, kept⟩ := exec_framed c start t next
  exact kept.changes


end Sys2Proof.Machine

/-! # The loaded structures

Four commands touch them. Each meaning is a step that empties or loads them, with other steps around it that leave
them; the Keeps lemmas, with every other part allowed to change, say that a step leaves them. -/

namespace Sys2Proof.Machine

open Sys2Proof State

/-- Every part but the loaded structures. -/
def Part.notCfg (p : Part) : Bool := decide (p ≠ .cfg)

theorem State.Keeps.cfg {s t : State} {T : List TileSt} (h : t.Keeps Part.notCfg False s T) : t.cfg = s.cfg :=
  h.same .cfg rfl

theorem State.Kept.cfg {s t : State} (h : t.Kept Part.notCfg False s) : t.cfg = s.cfg :=
  let ⟨_, _, kept⟩ := h
  kept.cfg

theorem touches_cfg {c : Instr} (h : Part.cfg ∈ c.touches) :
    c = .activationDrainEnd ∨ c = .coreResetAssert ∨ c = .aonResetAssert ∨ ∃ b, c = .engineDomainResetExit b := by
  cases c <;> simp [Instr.touches] at h ⊢

/-! ### Resets -/

theorem State.engineReset_cfg (s : State) : s.engineReset.cfg = Cfg.empty := rfl

theorem State.engineStops_cfg (s : State) : s.engineStops.cfg = s.cfg ∨ s.engineStops.cfg = Cfg.empty := by
  unfold State.engineStops
  split
  · exact .inr (engineReset_cfg _)
  · exact .inl rfl

theorem execCoreResetAssert_cfg {s t : State} (h : execCoreResetAssert s = .next t) :
    t.cfg = s.cfg ∨ t.cfg = Cfg.empty := by
  cases h
  exact engineStops_cfg _

theorem execAonResetAssert_cfg {s t : State} (h : execAonResetAssert s = .next t) :
    t.cfg = s.cfg ∨ t.cfg = Cfg.empty := by
  unfold execAonResetAssert at h
  split at h
  · exact .inl (Host.Outcome.next.inj h ▸ rfl)
  · have stops := engineStops_cfg s
    generalize s.engineStops = u at stops h
    have unmarked : State.Keeps (u.each (List.range 16) fun s n =>
        s.modAgent n fun a => { a with marker := none, cold := false }) Part.notCfg False u _ :=
      each_keeps (.refl _ _) fun _ _ h => modAgent_keeps h rfl
    dsimp only at h
    generalize u.each _ _ = v at unmarked h
    cases h
    exact unmarked.cfg ▸ stops

theorem execEngineDomainResetExit_cfg {bad : BitVec 50} {s t : State} (h : execEngineDomainResetExit bad s = .next t) :
    t.cfg = s.cfg ∨ t.cfg = Cfg.empty := by
  unfold execEngineDomainResetExit at h
  split at h
  · cases h
    exact .inl rfl
  · right
    have emptied := engineReset_cfg s
    have tiles : s.engineReset.eng.tiles = tilesInit := rfl
    generalize s.engineReset = u at emptied tiles h
    have tested {v} := selfTest_kept (F := Part.notCfg) (I := False) (bad := bad.toNat)
      (tiles ▸ with_pwr (v := v) (.refl _ u) rfl) rfl rfl rfl rfl rfl rfl
    dsimp only at h
    refine Eq.trans (State.Kept.cfg ?_) emptied
    split at h
    all_goals
      cases h
    · exact tested.lift (f := fun s => s.modSlots _) fun _ _ h => modSlots_keeps h (fun _ h => h) rfl
    · refine tested.lift (f := fun s => (s.modSlots _).each _ _) fun _ _ h => ?_
      exact each_keeps (modSlots_keeps h (fun _ h => h) rfl) fun _ _ h =>
        .ite (endCmd_keeps h rfl rfl rfl rfl rfl) (beginStage_keeps h rfl rfl rfl rfl rfl)

/-! ### The end of an activation's drain (R391) -/

theorem State.tearDown_cfg (s : State) (c : CfgCmd) : (s.tearDown c).cfg = Cfg.empty := by
  unfold State.tearDown
  extract_lets old swapped emptied scrubbed
  have late : scrubbed.Keeps Part.notCfg False emptied _ :=
    modSlots_keeps (lateActions_keeps (.refl _ _) rfl rfl rfl rfl rfl rfl rfl rfl rfl rfl rfl rfl rfl rfl rfl rfl)
      (fun _ h => h) rfl
  have released := releasePeers_keeps (mgmt := false) late rfl rfl rfl rfl rfl rfl rfl rfl rfl rfl rfl rfl rfl rfl
  exact (noteReady_keeps (endCmd_keeps released rfl rfl rfl rfl rfl) rfl).cfg

theorem State.loadImage_cfg (s : State) (img : Bytes) : (s.loadImage img).cfg = Cfg.ofImage img := by
  unfold State.loadImage
  extract_lets c opened arr loaded filled pinned marked
  have pins : pinned.Keeps Part.notCfg False loaded _ :=
    each_keeps (modDisp_keeps (.refl _ _) rfl) fun _ _ h => loadPins_keeps h rfl rfl rfl
  have markers : marked.Keeps Part.notCfg False loaded _ := each_keeps pins fun _ _ h => writeMarker_keeps h rfl rfl rfl
  exact (modSlots_keeps markers (fun _ h => h) rfl).cfg

/-- The discard of parked requests and CLEAR leave the slots, so the swap is of the slots as they were. -/
theorem State.swapSlots_clear_current (s : State) (swap : Nat) :
    (s.dropParked.clear.swapSlots swap).slots.current = (s.swapSlots swap).slots.current := by
  have slots : s.dropParked.clear.slots = s.slots :=
    (clear_keeps (F := fun p => decide (p ≠ .slots)) (I := False) (dropParked_keeps (.refl _ s) rfl rfl rfl)
      rfl rfl rfl rfl rfl rfl rfl rfl).same .slots rfl
  simp only [State.swapSlots, State.modSlots, slots]

theorem execActivationDrainEnd_cfg {s t : State} (h : execActivationDrainEnd s = .next t) :
    t.cfg = s.cfg ∨ t.cfg = Cfg.empty ∨
      ∃ k img, s.slots.cmd = some k ∧ (s.swapSlots k.swap).slots.current = some img ∧ t.cfg = Cfg.ofImage img := by
  unfold execActivationDrainEnd at h
  split at h
  · exact .inl (Host.Outcome.next.inj h ▸ rfl)
  next k cmd =>
  split at h
  · exact .inl (Host.Outcome.next.inj h ▸ rfl)
  split at h
  case isTrue loaded =>
    have locked : s.startLocks.Keeps Part.notCfg False s _ := startLocks_keeps (.refl _ s) rfl rfl
    have resumed := resume_keeps (c := k) locked rfl rfl rfl rfl rfl rfl rfl rfl rfl
      rfl rfl rfl rfl rfl rfl rfl
    dsimp only at h
    split at h
    all_goals
      cases h
      left
    · exact resumed.cfg
    · exact locked.cfg
  extract_lets d status u at h
  have swapped : u = s.dropParked.clear.swapSlots k.swap := rfl
  have current : u.slots.current = (s.swapSlots k.swap).slots.current := by
    rw [swapped, swapSlots_clear_current]
  have dropped : d.Keeps Part.notCfg False s _ := dropParked_keeps (.refl _ s) rfl rfl rfl
  have cleared : u.Keeps Part.notCfg False s _ :=
    swapSlots_keeps (clear_keeps dropped rfl rfl rfl rfl rfl rfl rfl rfl) rfl
  clear_value u status d
  have failed := restartFails_keeps (status := status) dropped rfl rfl rfl rfl rfl rfl rfl rfl rfl
    rfl rfl rfl rfl rfl rfl rfl
  split at h
  · exact .inl (Host.Outcome.next.inj h ▸ dropped.cfg)
  split at h
  · exact .inr (.inl (Host.Outcome.next.inj h ▸ tearDown_cfg _ _))
  split at h
  · exact .inl (Host.Outcome.next.inj h ▸ dropped.cfg)
  split at h
  · exact .inl (Host.Outcome.next.inj h ▸ failed.cfg)
  split at h
  next img slot =>
    extract_lets v at h
    have locked : v.Keeps Part.notCfg False (u.loadImage img) _ := startLocks_keeps (.refl _ _) rfl rfl
    have loaded := locked.cfg.trans (loadImage_cfg u img)
    clear_value v
    have resumed := resume_keeps (c := k) (Keeps.refl Part.notCfg v) rfl rfl rfl rfl rfl rfl rfl rfl rfl
      rfl rfl rfl rfl rfl rfl rfl
    refine .inr (.inr ⟨k, img, cmd, current ▸ slot, ?_⟩)
    split at h
    · exact Host.Outcome.next.inj h ▸ resumed.cfg.trans loaded
    · exact Host.Outcome.next.inj h ▸ loaded
  · exact .inl (Host.Outcome.next.inj h ▸ cleared.cfg)

/-- Settles O6: a command that does not touch the loaded structures keeps them (O5); the four that do are a reset, or
the end of a drain. -/
theorem tablesOnlyFromImage : Obligations.TablesOnlyFromImage := by
  unfold Obligations.TablesOnlyFromImage
  intro c s t next
  by_cases touched : Part.cfg ∈ c.touches
  · obtain rfl | rfl | rfl | ⟨bad, rfl⟩ := touches_cfg touched
    · obtain same | empty | loads := execActivationDrainEnd_cfg next
      · exact .inl same
      · exact .inr (.inl ⟨empty, by simp⟩)
      · exact .inr (.inr ⟨rfl, loads⟩)
    · exact (execCoreResetAssert_cfg next).imp_right fun empty => .inl ⟨empty, by simp⟩
    · exact (execAonResetAssert_cfg next).imp_right fun empty => .inl ⟨empty, by simp⟩
    · exact (execEngineDomainResetExit_cfg next).imp_right fun empty => .inl ⟨empty, by simp⟩
  · exact .inl ((commandFrames c s t next).2 .cfg touched)

end Sys2Proof.Machine

/-! # An agent as memory -/

namespace Sys2Proof.Machine

open Sys2Proof State

/-! ### What memory reads as -/

/-- Every byte lies where it lay and reads as it read. -/
structure State.ReadsAs (t s : State) : Prop where
  mem : t.mem = s.mem
  wild : t.wild = s.wild
  fresh : t.fresh = s.fresh
  remap : ∀ n, (t.agent n).remap = (s.agent n).remap

namespace State.ReadsAs

variable {s t u : State}

theorem refl (s : State) : s.ReadsAs s := ⟨rfl, rfl, rfl, fun _ => rfl⟩

theorem trans (h : t.ReadsAs s) (k : u.ReadsAs t) : u.ReadsAs s :=
  ⟨k.mem.trans h.mem, k.wild.trans h.wild, k.fresh.trans h.fresh, fun n => (k.remap n).trans (h.remap n)⟩

theorem phys (h : t.ReadsAs s) (a : Nat) : t.phys a = s.phys a := by
  simp only [State.phys, State.remaps, h.remap]

theorem asRead (h : t.ReadsAs s) (a : Nat) (bs : Bytes) : t.asRead a bs = s.asRead a bs := by
  simp only [State.asRead, State.isWild, h.wild, h.fresh]
  rfl

theorem load (h : t.ReadsAs s) (a n : Nat) : t.load a n = s.load a n := by
  simp only [State.load, h.asRead, h.mem, h.phys]

/-- A byte stored in both. -/
theorem storeByte (h : t.ReadsAs s) (a : Nat) (b : Byte) : (t.storeByte a b).ReadsAs (s.storeByte a b) :=
  ⟨by simp only [State.storeByte, h.mem, h.phys], h.wild, h.fresh, h.remap⟩

theorem store (h : t.ReadsAs s) (a : Nat) (bs : Bytes) : (t.store a bs).ReadsAs (s.store a bs) := by
  induction bs generalizing a s t with
  | nil => exact h
  | cons b bs ih => exact ih (h.storeByte a b) (a + 1)

/-- An agent changes that keeps its remap entries. -/
theorem setAgent (h : t.ReadsAs s) {n : Nat} {v : Agent} (same : v.remap = (t.agent n).remap) :
    (t.setAgent n v).ReadsAs s :=
  ⟨h.mem, h.wild, h.fresh, fun x => by
    rw [State.setAgent_agent_get]
    split
    · next e => rw [same, ← e, h.remap]
    · exact h.remap x⟩

end State.ReadsAs

theorem State.length_load (s : State) (a n : Nat) : (s.load a n).length = n := by
  unfold State.load State.asRead
  split <;> simp

/-! ### A request taken and an answer sent -/

theorem peek_mtype {s : State} {n : Nat} {d : Dir} {vc ty : Nat} {m : Msg} (h : s.peek n d vc ty = some m) :
    m.mtype = ty := by
  unfold State.peek at h
  split at h
  · split at h
    · cases h
      assumption
    · cases h
  · cases h

theorem takeRequest_of_mayServe {s : State} {n vc ty : Nat} {m : Msg} (takes : s.agentTakes n vc ty m)
    (may : s.mayServe n m) : s.takeRequest n vc ty = .next ((s.pop n .out m).serve n m) := by
  obtain ⟨on, found⟩ := takes
  obtain ⟨room, behind, first⟩ := may
  have free : (m.vc != 0 && m.rows.any fun r => s.class0Waits n r.1 r.2) = false := by
    rw [Bool.and_eq_false_iff, List.any_eq_false]
    simpa using first
  simp [State.takeRequest, found, on, room, behind, free]

theorem State.pop_readsAs (s : State) (n : Nat) (d : Dir) (m : Msg) : (s.pop n d m).ReadsAs s :=
  ⟨rfl, rfl, rfl, fun _ => rfl⟩

/-- The agent has taken m and has sent nothing since. -/
theorem took_queueMsg {s u : State} {n : Nat} {m : Msg} (links : u.link n = (s.pop n .out m).link n) (r : Msg) :
    s.took (u.queueMsg n .inb r) n .out m := by
  simp [State.took, State.queueMsg, State.modDir, State.dir, links, State.pop, Msg.units]

theorem agentSent_queueMsg {s u : State} {n : Nat} {m : Msg} (links : u.link n = (s.pop n .out m).link n) (r : Msg) :
    s.agentSent (u.queueMsg n .inb r) n r := by
  simp [State.agentSent, State.queueMsg, State.modDir, State.dir, links, State.pop]

/-! ### One row read -/

/-- A read counted and sampled (R221). -/
def State.readCounted (s : State) (n addr tag : Nat) : State :=
  (s.count (agentCounter n 0)).sampleRead n addr (fld tag 14 9)

section Reads

variable (s : State) (n addr len tag : Nat)

theorem count_readsAs (i : Nat) : (s.count i).ReadsAs s := ⟨rfl, rfl, rfl, fun _ => rfl⟩

theorem readCounted_readsAs : (s.readCounted n addr tag).ReadsAs s := (count_readsAs s _).setAgent rfl

theorem readCounted_link (x : Nat) : (s.readCounted n addr tag).link x = s.link x := rfl

theorem readCounted_lostIn (a l : Nat) : ((s.readCounted n addr tag).agent n).lostIn a l = (s.agent n).lostIn a l := by
  simp [State.readCounted, State.sampleRead, Agent.lostIn]

theorem readCounted_dir : ((s.readCounted n addr tag).agent n).dir = (s.agent n).dir := by
  simp [State.readCounted, State.sampleRead]

variable {s n addr len tag}

theorem readRow_of_lost (lost : (s.agent n).lostIn addr len = true) (fill : Bool) :
    s.readRow n addr len tag fill = (none, 2, s.readCounted n addr tag) := by
  have lost := (readCounted_lostIn s n addr tag addr len).trans lost
  unfold State.readCounted at lost
  simp [State.readRow, State.readCounted, lost]

theorem readRow_of_held (held : (s.agent n).lostIn addr len = false) :
    s.readRow n addr len tag false = (some (s.load addr len), 0, s.readCounted n addr tag) := by
  have held := (readCounted_lostIn s n addr tag addr len).trans held
  have bytes := (readCounted_readsAs s n addr tag).load addr len
  unfold State.readCounted at held bytes
  simp [State.readRow, State.readCounted, held, bytes]

/-- The position is recorded, or the directory names it already (R204). -/
theorem recordCopy_of_room {a : Agent} {pos : Nat}
    (room : (a.dir.map (·.1)).eraseDups.length < dirSize ∨ ∃ d ∈ a.dir, d.1 = addr) :
    ∃ l, a.recordCopy addr pos = ({ a with dir := l }, true) ∧ (addr, pos) ∈ l ∧
      ∀ d, d ≠ (addr, pos) → (d ∈ l ↔ d ∈ a.dir) := by
  unfold Agent.recordCopy
  split
  · next known => exact ⟨a.dir, rfl, by simpa using known, fun _ _ => .rfl⟩
  · rw [if_pos (by simpa [or_comm] using room)]
    exact ⟨_, rfl, by simp, fun d other => by simp [other]⟩

theorem readRow_of_fill (held : (s.agent n).lostIn addr len = false)
    (room : ((s.agent n).dir.map (·.1)).eraseDups.length < dirSize ∨ ∃ d ∈ (s.agent n).dir, d.1 = addr) :
    ∃ t : State, s.readRow n addr len tag true = (some (s.load addr len), 0, t) ∧ t.ReadsAs s ∧
      (∀ x, t.link x = s.link x) ∧ (addr, fld tag 14 9) ∈ (t.agent n).dir ∧
      ∀ d, d ≠ (addr, fld tag 14 9) → (d ∈ (t.agent n).dir ↔ d ∈ (s.agent n).dir) := by
  have dir := readCounted_dir s n addr tag
  rw [← dir] at room ⊢
  obtain ⟨l, recorded, new, old⟩ := recordCopy_of_room (pos := fld tag 14 9) room
  have held := (readCounted_lostIn s n addr tag addr len).trans held
  have reads := (readCounted_readsAs s n addr tag).setAgent (n := n)
    (v := { (s.readCounted n addr tag).agent n with dir := l }) rfl
  have bytes := reads.load addr len
  refine ⟨_, ?_, reads, fun _ => rfl, by simpa using new, by simpa using old⟩
  unfold State.readCounted at held bytes recorded
  simp [State.readRow, State.readCounted, held, recorded, bytes, bitAt]

end Reads

/-! ### A pack of rows (R335) -/

/-- One entry of a pack read, after the bytes of those before it. -/
def State.packStep (n : Nat) (acc : Bytes × State) (e : Nat × Nat × Nat) : Bytes × State :=
  let r := acc.2.readRow n e.1 (e.2.1 % 2 ^ 15) e.2.2 (bitOf e.2.1 15)
  (acc.1 ++ packEntry e.2.2 r.2.1 (r.1.getD []), r.2.2.count (agentCounter n 1))

/-- One row of the answer: its tag, length and bytes. -/
def State.packRow (s : State) (e : Nat × Nat × Nat) : Bytes :=
  leBytes 4 e.2.2 ++ leBytes 2 (e.2.1 % 2 ^ 15) ++ zeros 10 ++ padTo 16 (s.load e.1 (e.2.1 % 2 ^ 15))

theorem servePack_eq (s : State) (n : Nat) (m : Msg) :
    s.servePack n m =
      let r := (packEntries m.body).foldl (State.packStep n) ([], s)
      r.2.queueMsg n .inb (mkMsg 0x12 1 m.cls 0 r.1.length m.tag 0 r.1) := rfl

theorem packEntry_noFlags (tag : Nat) (b : Bytes) :
    packEntry tag 0 b = leBytes 4 tag ++ leBytes 2 b.length ++ zeros 10 ++ padTo 16 b := by
  simp [packEntry, fit, leBytes, zeros, List.replicate]

/-- The row of an entry can be read and is not asked for a cache. -/
def State.packable (s : State) (n : Nat) (e : Nat × Nat × Nat) : Prop :=
  (s.agent n).lostIn e.1 (e.2.1 % 2 ^ 15) = false ∧ bitOf e.2.1 15 = false

theorem packStep_of_packable {s : State} {n : Nat} {e : Nat × Nat × Nat} (ok : s.packable n e) (b : Bytes) :
    State.packStep n (b, s) e = (b ++ s.packRow e, (s.readCounted n e.1 e.2.2).count (agentCounter n 1)) := by
  obtain ⟨held, plain⟩ := ok
  simp only [State.packStep, plain, readRow_of_held held, packEntry_noFlags, Option.getD_some, length_load,
    State.packRow]

theorem packRow_of_readsAs {s t : State} (h : t.ReadsAs s) : t.packRow = s.packRow := by
  funext e
  simp only [State.packRow, h.load]

theorem packable_step {s : State} {n a tag i : Nat} {e : Nat × Nat × Nat} (ok : s.packable n e) :
    ((s.readCounted n a tag).count i).packable n e :=
  ⟨(readCounted_lostIn s n a tag _ _).trans ok.1, ok.2⟩

theorem foldl_packStep (n : Nat) (es : List (Nat × Nat × Nat)) (b : Bytes) (s : State)
    (ok : ∀ e ∈ es, s.packable n e) :
    ∃ t : State, es.foldl (State.packStep n) (b, s) = (b ++ es.flatMap s.packRow, t) ∧ t.ReadsAs s ∧
      ∀ x, t.link x = s.link x := by
  induction es generalizing b s with
  | nil => exact ⟨s, by simp, .refl s, fun _ => rfl⟩
  | cons e es ih =>
    have next : ((s.readCounted n e.1 e.2.2).count (agentCounter n 1)).ReadsAs s :=
      (readCounted_readsAs s n e.1 e.2.2).trans (count_readsAs _ _)
    obtain ⟨t, folded, reads, links⟩ := ih (b ++ s.packRow e) ((s.readCounted n e.1 e.2.2).count (agentCounter n 1))
      fun e' mem => packable_step (ok e' (by simp [mem]))
    refine ⟨t, ?_, next.trans reads, links⟩
    rw [List.foldl_cons, packStep_of_packable (ok e (by simp)), folded, packRow_of_readsAs next]
    simp

/-! ### The four requests -/

theorem servePack_of_packable {s : State} {n : Nat} {m : Msg} (ok : ∀ e ∈ packEntries m.body, s.packable n e) :
    ∃ t : State, s.servePack n m = t.queueMsg n .inb
        (mkMsg 0x12 1 m.cls 0 ((packEntries m.body).flatMap s.packRow).length m.tag 0
          ((packEntries m.body).flatMap s.packRow)) ∧ t.ReadsAs s ∧ ∀ x, t.link x = s.link x := by
  obtain ⟨t, folded, reads, links⟩ := foldl_packStep n (packEntries m.body) [] s ok
  refine ⟨t, ?_, reads, links⟩
  simp only [servePack_eq, folded, List.nil_append]

theorem serve_write {s : State} {n : Nat} {m : Msg} (ty : m.mtype = 3) :
    s.serve n m = ((s.store m.addr m.body).count (agentCounter n 2)).queueMsg n .inb
      (mkMsg 0x13 m.vc m.cls 0 0 m.tag m.addr) := by
  simp [State.serve, ty]

theorem serve_pack {s : State} {n : Nat} {m : Msg} (ty : m.mtype = 2) : s.serve n m = s.servePack n m := by
  simp [State.serve, ty]

theorem serve_read {s u : State} {n flags : Nat} {b : Option Bytes} {m : Msg} (ty : m.mtype = 1)
    (read : s.readRow n m.addr m.len m.tag (bitOf m.flags 0) = (b, flags, u)) :
    s.serve n m = u.queueMsg n .inb (mkMsg 0x11 m.vc m.cls flags (b.getD []).length m.tag m.addr (b.getD [])) := by
  simp [State.serve, ty, read]

/-- A read is taken and answered with what readRow gives. -/
theorem rd_answered {s u : State} {n : AgentId} {vc : VcId} {m : Msg} {flags : Nat} {b : Option Bytes}
    (takes : s.agentTakes n vc.val 1 m) (may : s.mayServe n m)
    (read : (s.pop n .out m).readRow n m.addr m.len m.tag (bitOf m.flags 0) = (b, flags, u))
    (reads : u.ReadsAs (s.pop n .out m)) (links : ∀ x, u.link x = (s.pop n .out m).link x) :
    ∃ t, exec (.rd n vc) s = .next t ∧
      (s.took t n .out m ∧ t.mem = s.mem ∧ s.agentSent t n
        { mtype := 0x11, vc := m.vc, cls := m.cls, flags := flags, len := (b.getD []).length, tag := m.tag
          addr := m.addr, body := b.getD [] }) ∧
      t.agent n = u.agent n := by
  refine ⟨_, takeRequest_of_mayServe takes may, ?_⟩
  rw [serve_read (peek_mtype takes.2) read]
  exact ⟨⟨took_queueMsg (links n) _, reads.mem, agentSent_queueMsg (links n) _⟩, rfl⟩

theorem store_link (s : State) (a : Nat) (bs : Bytes) (n : Nat) : (s.store a bs).link n = s.link n := by
  induction bs generalizing s a with
  | nil => rfl
  | cons b bs ih => exact ih (s.storeByte a b) (a + 1)

theorem execFlush_of_none {s : State} {n : AgentId} {m : Msg} (takes : s.agentTakes n 1 4 m)
    (none : s.writesBefore n = false) :
    execFlush n s = .next ((s.pop n .out m).queueMsg n .inb (mkMsg 0x14 1 m.cls 0 0 m.tag 0)) := by
  obtain ⟨on, found⟩ := takes
  simp [execFlush, none, State.atAgent, on, found]

/-- Settles O49: each request is taken and answered; a lost row has no bytes, and what a read counts or records moves no
byte. -/
theorem agentReadsAndWrites : Obligations.AgentReadsAndWrites := by
  unfold Obligations.AgentReadsAndWrites
  refine ⟨fun n vc m s takes may => ?read, fun n m s takes may ok => ?pack, fun n vc m s takes may => ?write,
    fun n m s takes none => ?flush⟩
  all_goals have ty := peek_mtype takes.2
  case read =>
    have bytes := (s.pop_readsAs n .out m).load m.addr m.len
    refine ⟨fun lost => ?lost, fun held plain => ?plain, fun held fill room => ?fill⟩
    case lost =>
      obtain ⟨t, next, answered, -⟩ := rd_answered takes may (readRow_of_lost (s := s.pop n .out m) lost _)
        (readCounted_readsAs _ _ _ _) (readCounted_link _ _ _ _)
      exact ⟨t, next, answered⟩
    case plain =>
      obtain ⟨t, next, answered, dir⟩ := rd_answered takes may (plain ▸ readRow_of_held (s := s.pop n .out m) held)
        (readCounted_readsAs _ _ _ _) (readCounted_link _ _ _ _)
      exact ⟨t, next, bytes ▸ answered, (congrArg Agent.dir dir).trans (readCounted_dir _ _ _ _)⟩
    case fill =>
      obtain ⟨u, read, reads, links, new, old⟩ := readRow_of_fill (s := s.pop n .out m) (tag := m.tag) held room
      obtain ⟨t, next, answered, dir⟩ := rd_answered takes may (fill ▸ read) reads links
      exact ⟨t, next, bytes ▸ answered, dir ▸ new, dir ▸ old⟩
  case pack =>
    obtain ⟨t, packed, reads, links⟩ := servePack_of_packable (s := s.pop n .out m) ok
    have same := packRow_of_readsAs (s.pop_readsAs n .out m)
    refine ⟨_, takeRequest_of_mayServe takes may, ?_⟩
    rw [serve_pack ty, packed, same]
    exact ⟨took_queueMsg (links n) _, reads.mem, _, agentSent_queueMsg (links n) _, rfl, rfl, rfl, rfl⟩
  case write =>
    have links := store_link (s.pop n .out m) m.addr m.body n
    have stored := (s.pop_readsAs n .out m).store m.addr m.body
    refine ⟨_, takeRequest_of_mayServe takes may, ?_⟩
    rw [serve_write ty]
    refine ⟨took_queueMsg links _, stored.mem, agentSent_queueMsg links _, Keeps.changes (T := s.eng.tiles) ?_⟩
    exact queueMsg_keeps (count_keeps (store_keeps (pop_keeps (.refl _ s) rfl) rfl) rfl) rfl
  case flush =>
    refine ⟨_, execFlush_of_none takes none, took_queueMsg rfl _, agentSent_queueMsg rfl _,
      Keeps.changes (T := s.eng.tiles) ?_⟩
    exact queueMsg_keeps (pop_keeps (.refl _ s) rfl) rfl

end Sys2Proof.Machine

/-! # The next cold fetch

The statement asks of the page only that the copy table holds an entry for it. The space of an entry and of a fetch is
any number, and only spaces 0x2 and 0x3 are translated: a fetch of another space is denied although an entry for it is
there, and stands in flight as a bad one. -/

namespace Sys2Proof.Machine

open Sys2Proof

/-- A cold fetch of 64 bytes of space 0x5, which has no translation (R237). -/
def strayFetch : Cold := ⟨0, 1, 0x5000000000000, 64, 0⟩

/-- A readable page of space 0x5 in the translation copy table. -/
def strayPage : TcEnt := { (default : TcEnt) with space := 5, r := true }

/-- Every domain runs, and the fetch waits in the cold-fetch queue with nothing else to issue. -/
def strayState : State :=
  { State.reset with
    pwr := { State.reset.pwr with aonUp := true, engineUp := true, coreRstN := true, credits := true }
    sk := { Keeper.init with up := true }
    mov := { Mover.init with cold := [strayFetch], tc := [(3, some strayPage)] } }

/-- The grant leaves the fetch in flight with its denial. -/
theorem strayState_granted :
    (match exec .moverBurstGrant strayState with
      | .next t => t.mov.flight
      | _ => []) = [⟨strayFetch, 64, [], true⟩] := by decide +kernel

/-- Refutes O39: the copy table holds a page of space 0x5, so that a cold fetch there is one of a known readable page,
but its grant denies it and leaves it bad in flight. -/
theorem not_moverBursts : ¬ Obligations.MoverBursts := by
  unfold Obligations.MoverBursts
  rintro ⟨⟨-, fetches⟩, -⟩
  have settled : ∀ i < 32, strayState.settleChan i = strayState := by decide +kernel
  have cold : strayState.grantCold = some strayFetch := by decide +kernel
  have known : strayState.tcFind (strayState.cfg.domain 0).pasid (spaceOf 0x5000000000000) (0x5000000000000 % 2 ^ 48) =
      some (3, strayPage) := by decide +kernel
  obtain ⟨t, next, -, flight, -⟩ := fetches strayFetch 0x5000000000000 64 3 strayPage strayState (by decide +kernel)
    settled cold (.inr rfl) (by decide +kernel) (by decide +kernel) (by decide) known rfl (by decide)
  have granted := strayState_granted
  rw [next] at granted
  have good : t.mov.flight = [⟨strayFetch, 64, [], false⟩] := flight
  exact absurd (good.symm.trans granted) (by decide)

end Sys2Proof.Machine

/-! # A position of a bag taken and its row fetched -/

namespace Sys2Proof.Machine

open Sys2Proof State

theorem engine_of_eng {s t : State} (h : t.eng = s.eng) (p : Nat) : t.engine p = s.engine p := by
  unfold State.engine
  rw [h]

theorem link_of_net {s t : State} (h : t.net = s.net) (n : Nat) : t.link n = s.link n := by
  unfold State.link
  rw [h]

theorem ownerAgent_of_net {s t : State} (h : t.net = s.net) (a : Nat) : t.ownerAgent a = s.ownerAgent a := by
  unfold State.ownerAgent State.ownerOf State.agent
  rw [h]

theorem work_of_disp {s t : State} (h : t.disp = s.disp) (w : Nat) : t.work w = s.work w := by
  unfold State.work
  rw [h]

/-! ### An index taken -/

/-- The parts that the note of a taken index may change. -/
def notes (p : Part) : Bool := decide (p ∈ [Part.fresh, .disp, .obs])

/-- Every part but the dispatcher's. -/
def notDisp (p : Part) : Bool := decide (p ≠ .disp)

section Notes

variable (s : State) (w b : Nat) (g : BagRef) (steer : List (Nat × Nat)) (t : Taken)

theorem noteIndex_notes : (s.noteIndex w b g steer t).Keeps notes False s s.eng.tiles :=
  noteIndex_keeps (.refl _ s) rfl rfl rfl

@[simp] theorem noteIndex_engine (p : Nat) : (s.noteIndex w b g steer t).engine p = s.engine p :=
  engine_of_eng ((noteIndex_notes s w b g steer t).same .eng rfl) p

@[simp] theorem noteIndex_link (n : Nat) : (s.noteIndex w b g steer t).link n = s.link n :=
  link_of_net ((noteIndex_notes s w b g steer t).same .net rfl) n

@[simp] theorem noteIndex_mov : (s.noteIndex w b g steer t).mov = s.mov :=
  (noteIndex_notes s w b g steer t).same .mov rfl

theorem tally_work (u e a0 a1 : Nat) : (s.tally u e a0 a1).work w = s.work w :=
  work_of_disp ((tally_keeps (F := notDisp) (.refl _ s) rfl rfl).same .disp rfl) w

theorem tallyDrop_work (pos table : Nat) (res : Resolved) : (s.tallyDrop pos table res).work w = s.work w :=
  work_of_disp ((tallyDrop_keeps (F := notDisp) (.refl _ s) rfl rfl).same .disp rfl) w

theorem markIssued_work (p : Nat) : (s.markIssued w p).work b = s.work b := by
  unfold State.markIssued
  split
  · split <;> rfl
  · rfl

variable {s w b g steer t} {k : Work}

theorem modWork_work (f : Work → Work) (h : s.work w = some k) : (s.modWork w f).work w = some (f k) := by
  simp [State.modWork, h]

theorem modWork_work_other {v : Nat} (f : Work → Work) (h : w ≠ v) : (s.modWork v f).work w = s.work w := by
  unfold State.modWork
  split
  · simp [h]
  · rfl

/-- A unit that begins on a task, or on an operation of it, changes only the list of units of a piece of work. -/
theorem unitStarts_work (u : Nat) (h : s.work w = some k) :
    ∃ us, (s.unitStarts w u).work w = some { k with units := us } := by
  unfold State.unitStarts
  dsimp only
  split
  · split
    · exact ⟨k.units, h⟩
    · rw [tally_work]
      by_cases same : w = s.root w
      · rw [← same]
        exact ⟨_, modWork_work _ h⟩
      · exact ⟨k.units, (modWork_work_other _ same).trans h⟩
  · exact ⟨k.units, h⟩

theorem tileStarts_work (pos : Nat) (h : s.work w = some k) :
    ∃ us, (s.tileStarts w pos).work w = some { k with units := us } := by
  unfold State.tileStarts
  split
  · exact unitStarts_work _ h
  · exact ⟨k.units, h⟩

/-- The bag has the position as taken, and INDICES counts it unless an earlier attempt did (R102, R209). -/
theorem noteTaken_work (h : s.work w = some k) :
    ∃ k', (s.noteTaken w b t).work w = some k' ∧
      k'.bags.get default b = { k.bags.get default b with
        taken := (k.bags.get default b).taken ++ [t]
        peak := max ((k.bags.get default b).taken.length + 1) (k.bags.get default b).peak } ∧
      k'.tally.indices = if (k.bags.get default b).taken.length + 1 ≤ (k.bags.get default b).peak then k.tally.indices
        else satAdd 0xFFFFFFFF k.tally.indices 1 := by
  refine ⟨_, modWork_work _ h, ?_, ?_⟩
  · simp
  · dsimp only
    split <;> rfl

theorem noteIndex_work (h : s.work w = some k) :
    ∃ k', (s.noteIndex w b g steer t).work w = some k' ∧
      k'.bags.get default b = { k.bags.get default b with
        steer := steer
        taken := (k.bags.get default b).taken ++ [t]
        peak := max ((k.bags.get default b).taken.length + 1) (k.bags.get default b).peak } ∧
      k'.tally.indices = if (k.bags.get default b).taken.length + 1 ≤ (k.bags.get default b).peak then k.tally.indices
        else satAdd 0xFFFFFFFF k.tally.indices 1 := by
  obtain ⟨us, started⟩ := tileStarts_work (s := s) t.engine h
  have steered : ((s.tileStarts w t.engine).modBag w b fun v => { v with steer := steer }).work w = _ :=
    modWork_work _ started
  obtain ⟨k', noted, bag, indices⟩ := noteTaken_work (b := b) (t := t) steered
  refine ⟨k', ?_, ?_, ?_⟩
  · unfold State.noteIndex
    rw [tallyDrop_work]
    split
    · rw [markIssued_work, noted]
    · exact noted
  · simpa using bag
  · simpa using indices

theorem noteIndex_bagOf (h : s.work w = some k) :
    ((s.noteIndex w b g steer t).bagOf w b).taken = (k.bags.get default b).taken ++ [t] ∧
      ((s.noteIndex w b g steer t).bagOf w b).steer = steer := by
  obtain ⟨k', noted, bag, -⟩ := noteIndex_work (b := b) (g := g) (steer := steer) (t := t) h
  simp [State.bagOf, noted, bag]

end Notes

/-! ### Up to the index of the position -/

section Index

variable {s : State} {w bag i x : Nat} {g : BagRef} {wt : Option Weight}

theorem takeSpace_of_canTake (can : s.canTake w bag i g) : s.takeSpace w bag = (s, true) := by
  obtain ⟨-, work, -, -, -, -, -, -, space⟩ := can
  unfold State.takeSpace
  simp only [work, Option.bind_some]
  split
  · next p link => rw [if_pos (space (by simp [link]))]
  · rfl

/-- A position that can be taken passes every test of its turn. -/
theorem canTake_turn (can : s.canTake w bag i g) :
    (g.r.len ≤ i || (g.k.bags.get default bag).committed || !g.sh.hasPos (g.r.start + i) ||
      ((g.k.bags.get default bag).taken.any fun t => t.pos == posId g.i (g.r.start + i)) ||
      (g.k.desc.inOrder && (g.k.bags.get default bag).taken.length != i) ||
      (g.k.desc.kind == some .scatter &&
        !(s.mayIssue w (posId g.i (g.r.start + i)) && s.earlierTaken w bag))) = false := by
  obtain ⟨-, -, inside, uncommitted, has, untaken, order, turn, -⟩ := can
  have unheld : ((g.k.bags.get default bag).taken.any fun t => t.pos == posId g.i (g.r.start + i)) = false := by
    simpa [List.any_eq_false] using untaken
  have ordered : (g.k.desc.inOrder && (g.k.bags.get default bag).taken.length != i) = false := by
    cases h : g.k.desc.inOrder
    · rfl
    · simp [order h]
  have turned : (g.k.desc.kind == some .scatter &&
      !(s.mayIssue w (posId g.i (g.r.start + i)) && s.earlierTaken w bag)) = false := by
    by_cases h : g.k.desc.kind = some .scatter
    · simp [turn h]
    · simp [h]
  rw [turned, ordered, unheld, uncommitted, has, decide_eq_false (Nat.not_le.2 inside)]
  rfl

theorem execRowFetchIssue_of_canTake (can : s.canTake w bag i g) (read : s.indexRead w (g.r.start + i) g x wt) :
    execRowFetchIssue w bag i s = s.issueIndex w bag g (g.r.start + i) x wt := by
  have space := takeSpace_of_canTake can
  have turn := canTake_turn can
  have found : s.bagRef w bag = some (some g, s) := can.1
  obtain ⟨⟨ib, index, rfl⟩, weight, unweighted⟩ := read
  unfold execRowFetchIssue
  simp only [found, turn, space, index, Bool.false_eq_true, ↓reduceIte]
  split
  · next reads =>
    obtain ⟨wb, weightRead, value⟩ := weight (by simpa using reads)
    simp only [weightRead]
    split
    · next weighted => rw [value (by simpa using weighted)]
    · next plain => rw [unweighted (by simpa using plain)]
  · next unread =>
    rw [unweighted fun weighted => unread (by simp [weighted])]

end Index

/-! ### A fetch slot taken -/

/-- The issue ramps changed. -/
def State.withRamps (s : State) (l : Tab Ramp) : State := s.modEng fun e => { e with ramps := l }

/-- A position that wakes ramps up, and is otherwise as it was (R29). -/
theorem wakeEngine_ramps (s : State) (pos cls : Nat) : ∃ l, s.wakeEngine pos cls = s.withRamps l := by
  unfold State.wakeEngine
  dsimp only
  split
  · exact ⟨s.eng.ramps, rfl⟩
  · refine foldl_keeps (fun t => ∃ l, t = s.withRamps l) _ _ s ⟨s.eng.ramps, rfl⟩ ?_
    rintro _ k ⟨l, rfl⟩
    exact ⟨_, rfl⟩

/-- Where a row is served does not depend on the ramps. -/
theorem placeOf_withRamps (s : State) (l : Tab Ramp) (w dom pos : Nat) (td : TableDesc) (a : Nat) :
    (s.withRamps l).placeOf w dom pos td a = s.placeOf w dom pos td a := by
  have reads : (s.withRamps l).ReadsAs s := ⟨rfl, rfl, rfl, fun _ => rfl⟩
  have engine : (s.withRamps l).engine pos = s.engine pos := rfl
  have key : (s.withRamps l).cacheKey dom a = s.cacheKey dom a := rfl
  have right : (s.withRamps l).readsHere dom a = s.readsHere dom a := rfl
  have promoted (x : Nat) : (s.withRamps l).promoted x a td.rowBytes = s.promoted x a td.rowBytes := rfl
  have cfg : (s.withRamps l).cfg = s.cfg := rfl
  unfold State.placeOf State.placedBytes
  simp only [engine, key, right, promoted, cfg, reads.asRead, reads.load]

theorem fetchTag_fields {n pos epoch : Nat} (slot : n < 512) (position : pos < 48) (placement : epoch < 256) :
    fld (fetchTag n pos epoch) 8 0 = n ∧ fld (fetchTag n pos epoch) 14 9 = pos ∧
      fld (fetchTag n pos epoch) 22 15 = epoch := by
  simp only [fetchTag, put, fld, Nat.shiftLeft_eq, Nat.shiftRight_eq_div_pow]
  omega

theorem freeSlot_spec {e : Engine} {cls res n : Nat} (h : e.freeSlot cls res = some n) :
    n < 512 ∧ e.slots.get none n = none := by
  unfold Engine.freeSlot at h
  split at h
  · cases h
  · exact ⟨List.mem_range.1 (List.mem_of_find?_eq_some h), by simpa using List.find?_some h⟩

theorem Tab.get_map {α : Type} (f : Nat → α → α) (t : Tab (Option α)) (n : Nat) :
    Tab.get none (t.map fun x => (x.1, x.2.map (f x.1))) n = (t.get none n).map (f n) := by
  induction t with
  | nil => rfl
  | cons x t ih =>
    simp only [List.map_cons, Tab.get]
    split
    · next same => rw [same]
    · exact ih

/-- A slot of a position filled. -/
def State.fillSlot (s : State) (pos n : Nat) (f : FSlot) : State :=
  s.setEngine pos { s.engine pos with slots := (s.engine pos).slots.set none n (some f) }

/-- A slot of a position holds a fetch. -/
def State.holdsFetch (s : State) (pos n : Nat) (f : FSlot) : Prop := (s.engine pos).slots.get none n = some f

theorem fillSlot_holdsFetch (s : State) (pos n : Nat) (f : FSlot) : (s.fillSlot pos n f).holdsFetch pos n f := by
  simp [State.holdsFetch, State.fillSlot]

/-- Slot i after the row of the lead fetch, in slot n, has returned: the lead and what joined it have its bytes. -/
def FSlot.returned (lead : FSlot) (b : Bytes) (n i : Nat) (f : FSlot) : FSlot :=
  if i = n ∨ f.servedBy lead then { f with data := some b, err := false, joined := false } else f

/-- A row that returns at once fills the slot that its tag names (R410). -/
theorem deliver_holdsFetch {s : State} {pos n : Nat} {f : FSlot} (h : s.holdsFetch pos n f) (slot : n < 512)
    (position : pos < 48) (placement : f.epoch < 256) (waits : f.joined = false) (empty : f.data = none) (b : Bytes) :
    (s.deliver (fetchTag n pos f.epoch) (some b) false).holdsFetch pos n
      { f with data := some b, err := false, joined := false } := by
  obtain ⟨tagSlot, tagPos, tagEpoch⟩ := fetchTag_fields slot position placement
  unfold State.holdsFetch at h
  have current : ¬ (f.epoch ≠ f.epoch ∨ f.joined = true ∨ f.data.isSome = true) := by simp [waits, empty]
  have filled (r : List ReuseEnt) : (s.setEngine pos { s.engine pos with
      slots := (s.engine pos).slots.map fun x => (x.1, x.2.map (f.returned b n x.1)), reuse := r }).holdsFetch pos n
        { f with data := some b, err := false, joined := false } := by
    unfold State.holdsFetch
    rw [State.setEngine_engine_get, if_pos rfl]
    exact (Tab.get_map (f.returned b n) _ n).trans (by simp [h, FSlot.returned])
  simp only [State.deliver, tagSlot, tagPos, tagEpoch, h, if_neg current, Bool.false_and]
  split <;> exact filled _

section Counted

variable (s : State)

@[simp] theorem countTile_mov (p j n : Nat) : (s.countTile p j n).mov = s.mov :=
  (countTile_keeps (F := notes) (.refl _ s) rfl).same .mov rfl

@[simp] theorem countTile_link (p j n m : Nat) : (s.countTile p j n).link m = s.link m :=
  link_of_net ((countTile_keeps (F := notes) (.refl _ s) rfl).same .net rfl) m

@[simp] theorem countTile_ownerAgent (p j n a : Nat) : (s.countTile p j n).ownerAgent a = s.ownerAgent a :=
  ownerAgent_of_net ((countTile_keeps (F := notes) (.refl _ s) rfl).same .net rfl) a

@[simp] theorem tally_mov (u e a0 a1 : Nat) : (s.tally u e a0 a1).mov = s.mov :=
  (tally_keeps (F := notes) (.refl _ s) rfl rfl).same .mov rfl

theorem tally_engine (u e a0 a1 p : Nat) : (s.tally u e a0 a1).engine p = s.engine p :=
  engine_of_eng ((tally_keeps (F := notes) (.refl _ s) rfl rfl).same .eng rfl) p

theorem deliver_mov (tag : Nat) (data : Option Bytes) (cacheable : Bool) :
    (s.deliver tag data cacheable).mov = s.mov :=
  (deliver_keeps (F := fun p => decide (p ≠ .mov)) (.refl _ s) rfl rfl rfl).same .mov rfl

theorem wakeEngine_work (pos cls w : Nat) : (s.wakeEngine pos cls).work w = s.work w :=
  work_of_disp ((wakeEngine_keeps (F := notDisp) (.refl _ s) rfl).same .disp rfl) w

theorem takeSlot_work (w : Nat) (k : Work) (bag idx pos : Nat) (wt : Option Weight) (r : RowReq) (place : Place) :
    (s.takeSlot w k bag idx pos wt r place).work w = s.work w :=
  work_of_disp ((takeSlot_keeps (F := notDisp) (.refl _ s) rfl rfl rfl rfl rfl).same .disp rfl) w

end Counted

/-- A read sent to the agent of an address, whatever has changed but agents and links. -/
theorem sentRead_queue {s u : State} {c : Nat} (owner : u.ownerAgent c = s.ownerAgent c)
    (link : ∀ m, u.link m = s.link m) (m : Msg) :
    ((u.queueMsg (u.ownerAgent c) .out m).link (s.ownerAgent c)).out.queue =
      (s.link (s.ownerAgent c)).out.queue ++ [⟨m, .none⟩] := by
  rw [owner]
  simp [State.queueMsg, State.modDir, link]

section Slots

variable {s : State} {pos n : Nat} {k : Work} (w bag idx : Nat) (wt : Option Weight) (r : RowReq)

/-- The fetch that a slot of a position takes for a row, before anything has come for it. -/
def State.fetchOf (s : State) (w : Nat) (k : Work) (bag idx pos : Nat) (wt : Option Weight) (r : RowReq)
    (joined : Bool) (frame : Option Nat) : FSlot :=
  { work := w, bag := bag, pos := idx, which := r.1, weight := wt, table := r.2.1, row := r.2.2.1, addr := r.2.2.2
    cls := k.cls, epoch := (s.engine pos).epoch, joined := joined, frame := frame
    data := none, err := false, dead := false, old := false }

variable (free : (s.engine pos).freeSlot k.cls s.cfg.reserve.fetch = some n)
include free

theorem takeSlot_reuse (b : Bytes) :
    (s.takeSlot w k bag idx pos wt r (.reuse b)).holdsFetch pos n
      { s.fetchOf w k bag idx pos wt r false none with data := some b } ∧
      (s.takeSlot w k bag idx pos wt r (.reuse b)).mov = s.mov := by
  simp only [State.takeSlot, free]
  exact ⟨fillSlot_holdsFetch _ pos n _, countTile_mov _ pos 2 1⟩

theorem takeSlot_joined :
    (s.takeSlot w k bag idx pos wt r .joined).holdsFetch pos n (s.fetchOf w k bag idx pos wt r true none) ∧
      (s.takeSlot w k bag idx pos wt r .joined).mov = s.mov := by
  simp only [State.takeSlot, free]
  exact ⟨fillSlot_holdsFetch _ pos n _, countTile_mov _ pos 2 1⟩

theorem takeSlot_cold :
    (s.takeSlot w k bag idx pos wt r .cold).holdsFetch pos n (s.fetchOf w k bag idx pos wt r false none) ∧
      (s.takeSlot w k bag idx pos wt r .cold).mov.cold = s.mov.cold ++
        [⟨fetchTag n pos (s.engine pos).epoch, k.cls, r.2.2.2, ((s.cfg.table r.2.1).getD default).rowBytes,
          k.domain⟩] := by
  have filled := fillSlot_holdsFetch (s.countTile pos 4 1) pos n (s.fetchOf w k bag idx pos wt r false none)
  simp only [State.takeSlot, free]
  split
  · exact ⟨(congrArg (fun e : Engine => e.slots.get none n) (tally_engine _ _ _ _ _ pos)).trans filled,
      by simp⟩
  · exact ⟨filled, by simp⟩

/-- The read goes to the agent of the row's address; it asks for a copy when the work caches the row. -/
theorem takeSlot_agent (c : Nat) :
    let t := s.takeSlot w k bag idx pos wt r (.agent c)
    let td := (s.cfg.table r.2.1).getD default
    t.holdsFetch pos n (s.fetchOf w k bag idx pos wt r false none) ∧ t.mov = s.mov ∧
      (t.link (s.ownerAgent c)).out.queue = (s.link (s.ownerAgent c)).out.queue ++ [⟨mkMsg 0x01 (vcOf k.cls) k.cls
        (bitAt (k.caches td) 0) td.rowBytes (fetchTag n pos (s.engine pos).epoch) c, .none⟩] := by
  have filled := fillSlot_holdsFetch (s.countTile pos 3 1) pos n (s.fetchOf w k bag idx pos wt r false none)
  simp only [State.takeSlot, free]
  exact ⟨filled, countTile_mov s pos 3 1,
    sentRead_queue (u := State.fillSlot _ pos n _) (countTile_ownerAgent s pos 3 1 c) (countTile_link s pos 3 1) _⟩

/-- A Cellar row of a promoted page is read in its frame. -/
theorem takeSlot_frame (m c : Nat) :
    let t := s.takeSlot w k bag idx pos wt r (.frame m c)
    let td := (s.cfg.table r.2.1).getD default
    t.holdsFetch pos n (s.fetchOf w k bag idx pos wt r false (some m)) ∧ t.mov.cold = s.mov.cold ∧
      (t.link (s.ownerAgent c)).out.queue = (s.link (s.ownerAgent c)).out.queue ++ [⟨mkMsg 0x01 (vcOf k.cls) k.cls
        0 td.rowBytes (fetchTag n pos (s.engine pos).epoch) c, .none⟩] := by
  have filled (u : State) := fillSlot_holdsFetch (u.countTile pos 3 1) pos n
    (s.fetchOf w k bag idx pos wt r false (some m))
  simp only [State.takeSlot, free]
  exact ⟨filled _, by simp [State.queueMsg, State.modDir, State.modMov],
    sentRead_queue (u := State.fillSlot _ pos n _) (countTile_ownerAgent _ pos 3 1 c) (countTile_link _ pos 3 1) _⟩

variable (slot : n < 512) (position : pos < 48) (placement : (s.engine pos).epoch < 256)
include slot position placement

theorem takeSlot_placed (b : Bytes) :
    (s.takeSlot w k bag idx pos wt r (.placed b)).holdsFetch pos n
      { s.fetchOf w k bag idx pos wt r false none with data := some b } ∧
      (s.takeSlot w k bag idx pos wt r (.placed b)).mov = s.mov := by
  have filled := fillSlot_holdsFetch (s.countTile pos 0 1) pos n (s.fetchOf w k bag idx pos wt r false none)
  simp only [State.takeSlot, free]
  exact ⟨deliver_holdsFetch filled slot position placement rfl rfl b,
    (deliver_mov _ _ _ _).trans (countTile_mov s pos 0 1)⟩

/-- The copy becomes the most recently used of the row cache, unless it may be discarded first (R217). -/
theorem takeSlot_cached (b : Bytes) :
    (s.takeSlot w k bag idx pos wt r (.cached b)).holdsFetch pos n
      { s.fetchOf w k bag idx pos wt r false none with data := some b } ∧
      (s.takeSlot w k bag idx pos wt r (.cached b)).mov = s.mov := by
  have filled (u : State) := fillSlot_holdsFetch (u.countTile pos 1 1) pos n (s.fetchOf w k bag idx pos wt r false none)
  simp only [State.takeSlot, free]
  split
  all_goals
    exact ⟨deliver_holdsFetch (filled _) slot position placement rfl rfl b,
      (deliver_mov _ _ _ _).trans (countTile_mov _ pos 1 1)⟩

end Slots

/-! ### The row of an index issued -/

/-- What a place needs to serve a row: a link that carries traffic and a stack with its contents, or room in the
cold-fetch queue (R230, R421). -/
def State.placeOpen (s : State) (cls : Nat) : Place → Prop
  | .agent c | .frame _ c =>
    (s.link (s.ownerAgent c)).st ≠ .down ∧ (s.agent (s.ownerAgent c)).noContents = false
  | .cold => s.coldRoom cls 1 = true
  | _ => True

theorem issueRows_one {s : State} {w bag idx pos : Nat} {k : Work} {wt : Option Weight} {r : RowReq} {place : Place}
    (at_ : s.placeOf w k.domain pos ((s.cfg.table r.2.1).getD default) r.2.2.2 = place)
    (opened : s.placeOpen k.cls place)
    (room : s.freeSlots pos k.cls ≠ 0) :
    s.issueRows w k bag idx pos wt [r] = (s.takeSlot w k bag idx pos wt r place, true) := by
  unfold State.issueRows
  simp only [List.map_cons, List.map_nil, at_]
  cases place with
  | agent c =>
    obtain ⟨up, kept⟩ := opened
    simp [up, kept, room, State.each]
  | frame m c =>
    obtain ⟨up, kept⟩ := opened
    simp [up, kept, room, State.each]
  | cold =>
    have space : s.coldRoom k.cls 1 = true := opened
    simp [space, room, State.each]
  | reuse b => simp [room, State.each]
  | joined => simp [room, State.each]
  | placed b => simp [room, State.each]
  | cached b => simp [room, State.each]

section Route

variable {s : State} {w bag p x pos : Nat} {g : BagRef} {wt : Option Weight}
  (route : s.routeIndex g (s.steering g (g.k.bags.get default bag)) x = some pos)
  (present : (s.engine pos).lost = false)
  (still : (s.engine pos).moving = false) (first : g.k.cls ≠ 0 → s.class0At pos = false)
include route present still first

/-- An index with no row is only noted. -/
theorem issueIndex_of_dropped (res : s.cfg.resolve g.td x = .invalid ∨ s.cfg.resolve g.td x = .missing) :
    s.issueIndex w bag g p x wt = .next (s.noteIndex w bag g (s.steering g (g.k.bags.get default bag))
      ⟨posId g.i p, x, pos, s.cfg.resolve g.td x, none⟩) := by
  have turn : ((s.engine pos).moving || (g.k.cls != 0 && s.class0At pos)) = false := by simpa [still] using first
  obtain res | res := res
  all_goals simp [State.issueIndex, route, present, turn, res]

variable {tb row a : Nat} {gr : Option (List Nat)} (res : s.cfg.resolve g.td x = .rows [(tb, row, a)])
  (fits : g.k.desc.kind = some .gather ∧ g.k.desc.pool = .concat →
    ((g.k.bags.get default bag).taken.countP fun t => t.res.survives) < g.sh.desc.concatN)
  (grad : if g.k.desc.kind = some .scatter then g.td.readsRows = true ∧
      ∃ bs, s.gradientOf w g.sh g.td g.lb g.r (p - g.r.start) wt = (.bytes bs, gr, s)
    else gr = none)
  (here : spaceOf a = 0 → s.allows g.k.domain a ((s.cfg.table tb).getD default).rowBytes 1 = true ∧
    (g.k.desc.kind = some .scatter → (s.agent (s.ownerAgent a)).noContents = false))
include res fits grad here

/-- An index of one row goes to the issue of its row. -/
theorem issueIndex_of_row {place : Place}
    (issued : (s.wakeEngine pos g.k.cls).issueRows w g.k bag (posId g.i p) pos wt [(0, tb, row, a)] =
      ((s.wakeEngine pos g.k.cls).takeSlot w g.k bag (posId g.i p) pos wt (0, tb, row, a) place, true)) :
    s.issueIndex w bag g p x wt =
      .next (((s.wakeEngine pos g.k.cls).takeSlot w g.k bag (posId g.i p) pos wt (0, tb, row, a) place).noteIndex w
        bag g (s.steering g (g.k.bags.get default bag)) ⟨posId g.i p, x, pos, s.cfg.resolve g.td x, gr⟩) := by
  have turn : ((s.engine pos).moving || (g.k.cls != 0 && s.class0At pos)) = false := by simpa [still] using first
  have rights : (spaceOf a == 0 && !s.allows g.k.domain a ((s.cfg.table tb).getD default).rowBytes 1) = false := by
    by_cases store : spaceOf a = 0
    · simp [here store]
    · simp [store]
  have full : (g.k.desc.kind == some .gather && g.k.desc.pool == .concat && decide (g.sh.desc.concatN ≤
      (g.k.bags.get default bag).taken.countP fun t => t.res.survives)) = false := by
    by_cases concat : g.k.desc.kind = some .gather ∧ g.k.desc.pool = .concat
    · simp [Nat.not_le.2 (fits concat)]
    · simpa using fun h1 h2 => absurd ⟨h1, h2⟩ concat
  unfold State.issueIndex
  simp only [route, present, turn, res, full, Bool.false_eq_true, ↓reduceIte, List.any_cons, List.any_nil,
    Bool.or_false, rowReqs, rights]
  by_cases scatter : g.k.desc.kind = some .scatter
  · rw [if_pos scatter] at grad
    obtain ⟨reads, bs, gradient⟩ := grad
    have kept : (spaceOf a == 0 && (s.agent (s.ownerAgent a)).noContents) = false := by
      by_cases store : spaceOf a = 0
      · simp [(here store).2 scatter]
      · simp [store]
    simp [scatter, kept, reads, gradient, issued]
  · rw [if_neg scatter] at grad
    simp [scatter, issued, grad]

end Route

/-! ### Both outcomes of a position that can be taken -/

/-- The row of a position and its fetch, as the statement of O26 gives them. -/
def State.RowServed (s t : State) (k : Work) (td : TableDesc) (a tag : Nat) (f : FSlot) : Place → Prop
  | .reuse d | .placed d | .cached d => f.data = some d ∧ t.mov.cold = s.mov.cold
  | .joined => f.data = none ∧ f.joined = true ∧ t.mov.cold = s.mov.cold
  | .agent c => f.data = none ∧ f.frame = none ∧ t.mov.cold = s.mov.cold ∧
      (t.link (s.ownerAgent c)).out.queue = (s.link (s.ownerAgent c)).out.queue ++
        [⟨mkMsg 0x01 (vcOf k.cls) k.cls (bitAt (k.caches td) 0) td.rowBytes tag c, .none⟩]
  | .frame m c => f.data = none ∧ f.frame = some m ∧ t.mov.cold = s.mov.cold ∧
      (t.link (s.ownerAgent c)).out.queue = (s.link (s.ownerAgent c)).out.queue ++
        [⟨mkMsg 0x01 (vcOf k.cls) k.cls 0 td.rowBytes tag c, .none⟩]
  | .cold => f.data = none ∧ t.mov.cold = s.mov.cold ++ [⟨tag, k.cls, a, td.rowBytes, k.domain⟩]

/-- The slot taken for a row names the row, the bag and the placement epoch, and is served where the row is. -/
theorem takeSlot_serves {s : State} {pos n : Nat} {k : Work} (w bag idx : Nat) (wt : Option Weight) (r : RowReq)
    (free : (s.engine pos).freeSlot k.cls s.cfg.reserve.fetch = some n) (position : pos < 48)
    (placement : (s.engine pos).epoch < 256) (place : Place) :
    ∃ d j m, (s.takeSlot w k bag idx pos wt r place).holdsFetch pos n
        { s.fetchOf w k bag idx pos wt r j m with data := d } ∧
      s.RowServed (s.takeSlot w k bag idx pos wt r place) k ((s.cfg.table r.2.1).getD default) r.2.2.2
        (fetchTag n pos (s.engine pos).epoch) { s.fetchOf w k bag idx pos wt r j m with data := d } place := by
  obtain ⟨slot, -⟩ := freeSlot_spec free
  cases place with
  | reuse b =>
    obtain ⟨held, mov⟩ := takeSlot_reuse w bag idx wt r free b
    exact ⟨_, _, _, held, rfl, congrArg Mover.cold mov⟩
  | joined =>
    obtain ⟨held, mov⟩ := takeSlot_joined w bag idx wt r free
    exact ⟨_, _, _, held, rfl, rfl, congrArg Mover.cold mov⟩
  | placed b =>
    obtain ⟨held, mov⟩ := takeSlot_placed w bag idx wt r free slot position placement b
    exact ⟨_, _, _, held, rfl, congrArg Mover.cold mov⟩
  | cached b =>
    obtain ⟨held, mov⟩ := takeSlot_cached w bag idx wt r free slot position placement b
    exact ⟨_, _, _, held, rfl, congrArg Mover.cold mov⟩
  | agent c =>
    obtain ⟨held, mov, sent⟩ := takeSlot_agent w bag idx wt r free c
    exact ⟨_, _, _, held, rfl, rfl, congrArg Mover.cold mov, sent⟩
  | frame m c =>
    obtain ⟨held, cold, sent⟩ := takeSlot_frame w bag idx wt r free m c
    exact ⟨_, _, _, held, rfl, rfl, cold, sent⟩
  | cold =>
    obtain ⟨held, cold⟩ := takeSlot_cold w bag idx wt r free
    exact ⟨_, _, _, held, rfl, cold⟩

/-- A ramp is no part of what a row's fetch reads. -/
theorem takeSlot_serves_awake {s u : State} {pos n : Nat} {k : Work} (w bag idx : Nat) (wt : Option Weight) (r : RowReq)
    (awake : ∃ l, u = s.withRamps l)
    (free : (s.engine pos).freeSlot k.cls s.cfg.reserve.fetch = some n) (position : pos < 48)
    (placement : (s.engine pos).epoch < 256) (place : Place) :
    ∃ d j m, (u.takeSlot w k bag idx pos wt r place).holdsFetch pos n
        { s.fetchOf w k bag idx pos wt r j m with data := d } ∧
      s.RowServed (u.takeSlot w k bag idx pos wt r place) k ((s.cfg.table r.2.1).getD default) r.2.2.2
        (fetchTag n pos (s.engine pos).epoch) { s.fetchOf w k bag idx pos wt r j m with data := d } place := by
  obtain ⟨l, rfl⟩ := awake
  exact takeSlot_serves (s := s.withRamps l) w bag idx wt r free position placement place

theorem issueRows_awake {s u : State} {pos : Nat} {k : Work} {place : Place} (w bag idx : Nat) (wt : Option Weight)
    (r : RowReq)
    (awake : ∃ l, u = s.withRamps l)
    (at_ : s.placeOf w k.domain pos ((s.cfg.table r.2.1).getD default) r.2.2.2 = place)
    (opened : s.placeOpen k.cls place)
    (room : s.freeSlots pos k.cls ≠ 0) :
    u.issueRows w k bag idx pos wt [r] = (u.takeSlot w k bag idx pos wt r place, true) := by
  obtain ⟨l, rfl⟩ := awake
  exact issueRows_one (s := s.withRamps l) ((placeOf_withRamps s l _ _ _ _ _).trans at_) opened room

/-- Settles O26: an index with no row is only noted as taken; one of one row takes a slot where its place serves it, and
is then noted. -/
theorem rowFetchIssue : Obligations.RowFetchIssue := by
  unfold Obligations.RowFetchIssue
  intro w bag i pos x g wt s p b res steer can read route present still first
  have work : s.work w = some g.k := can.2.1
  have next : exec (.rowFetchIssue w bag i) s = s.issueIndex w bag g p x wt := execRowFetchIssue_of_canTake can read
  refine ⟨fun dropped => ?dropped, ?row⟩
  case dropped =>
    obtain ⟨taken, steered⟩ :=
      noteIndex_bagOf (b := bag) (g := g) (steer := steer) (t := ⟨posId g.i p, x, pos, res, none⟩) work
    exact ⟨_, next.trans (issueIndex_of_dropped route present still first dropped), taken, steered,
      noteIndex_engine _ _ _ _ _ _ pos⟩
  case row =>
    intro tb row a n gr rows fits grad td ag here free room position placement place opened
    have grad' : if g.k.desc.kind = some .scatter then g.td.readsRows = true ∧
        ∃ bs, s.gradientOf w g.sh g.td g.lb g.r (p - g.r.start) wt = (.bytes bs, gr, s) else gr = none := by
      rwa [show p - g.r.start = i from Nat.add_sub_cancel_left _ _]
    have awake := wakeEngine_ramps s pos g.k.cls
    have opened' : s.placeOpen g.k.cls place := by
      revert opened
      cases place <;> exact id
    have issued := issueRows_awake w bag (posId g.i p) wt (0, tb, row, a) awake rfl opened' room
    obtain ⟨d, j, m, held, served⟩ := takeSlot_serves_awake w bag (posId g.i p) wt (0, tb, row, a) awake free position
      placement place
    have kept : ((s.wakeEngine pos g.k.cls).takeSlot w g.k bag (posId g.i p) pos wt (0, tb, row, a) place).work w =
        some g.k := by
      rw [takeSlot_work, wakeEngine_work, work]
    generalize taking : (s.wakeEngine pos g.k.cls).takeSlot w g.k bag (posId g.i p) pos wt (0, tb, row, a) place = u
      at held served kept
    have done := issueIndex_of_row route present still first rows fits grad' here issued
    rw [taking] at done
    obtain ⟨taken, -⟩ := noteIndex_bagOf (b := bag) (g := g) (steer := steer) (t := ⟨posId g.i p, x, pos, res, gr⟩) kept
    obtain ⟨k', noted, -, indices⟩ :=
      noteIndex_work (b := bag) (g := g) (steer := steer) (t := ⟨posId g.i p, x, pos, res, gr⟩) kept
    refine ⟨_, next.trans done, taken, ⟨k', noted, indices⟩, _, (freeSlot_spec free).2,
      (congrArg (fun e : Engine => e.slots.get none n) (noteIndex_engine ..)).trans held,
      rfl, rfl, rfl, rfl, rfl, rfl, rfl, rfl, ?_⟩
    simp only [noteIndex_mov, noteIndex_link]
    revert served
    cases place <;> exact id

end Sys2Proof.Machine

/-! # Floating point of a Porter

The last clause has FPK with a reserved format end the work whose program runs. The host error ends a task: openWork takes
the parent of an operation for it, and endWork takes the parent of that work once more. The statement asks nothing of the
parents. With an operation of an operation, which no launch makes (R363), the operations of the grandparent end, and the
work itself goes on. -/

namespace Sys2Proof.Machine

open Sys2Proof State

/-! ### A fetched instruction -/

section Fetched

variable {s : State} {m x : Nat} {p : Porter} {e : Mail} {k : Work}

theorem insn_of_fetches (h : s.fetches m p e k x) {is : Nat → Bool} (kind : is x = true) (f : Running → Out) :
    s.insn m is f = f ⟨p, e, k, x⟩ := by
  obtain ⟨runs, word, ok, ready⟩ := h
  simp [State.insn, runs, word, ok, kind, ready]

/-- FPK with a reserved format is a host error of the work (R8). -/
theorem execFpk_of_reserved {m : PorterId} (h : s.fetches m p e k x) (major : insMajor x = 0x18)
    (op : insFunc x % 1024 = 14) (reserved : Fmt.ofCode (p.reg (insB x) % 16) = none) :
    execFpk m s = .next (s.openWork e.work) := by
  unfold execFpk
  rw [insn_of_fetches h (by simp [major, op])]
  simp only [reserved]
  rfl

end Fetched

/-! ### The operation of an operation -/

/-- An operation that Porter 0 launched for a piece of work. -/
def launchedFor (parent : Nat) : Work := .start (.porter parent 0 0 none) 1 0 default 0

/-- The mailbox entry of work 0. -/
def nestedMail : Mail := ⟨0, none, 0, 0⟩

/-- Porter 0 runs work 0, an operation of work 1, which is an operation of work 2: word x stands next, and b in register
2. -/
def nestedState (x b : Nat) : State :=
  { State.reset with
    pwr := { State.reset.pwr with aonUp := true, engineUp := true, coreRstN := true }
    cfg := { State.reset.cfg with porterImage := leBytes 4 x }
    disp := { State.reset.disp with works := [(0, some (launchedFor 1)), (1, some (launchedFor 2))] }
    porters := [(0, { Porter.init with st := .running, cur := some nestedMail, g := Porter.init.g.set 1 b })] }

/-- FPK with its format in register 2 (R357). -/
def fpkWord : Nat := 0x18 * 2 ^ 26 + 2 * 2 ^ 11 + 14

/-- The format is 15, a reserved code (R34). -/
def reservedFpk : State := nestedState fpkWord 15

theorem reservedFpk_fetches :
    reservedFpk.fetches 0 (reservedFpk.porter 0) nestedMail (launchedFor 1) fpkWord := by
  refine ⟨?runs, ?word, ?ok, ?ready⟩
  all_goals decide +kernel

theorem reservedFpk_format : Fmt.ofCode ((reservedFpk.porter 0).reg (insB fpkWord) % 16) = none := by decide +kernel

/-- To end the parent ends works 2 and 1, with any status that a host error draws. -/
theorem reservedFpk_endWork (status : Nat) (drawn : status < 5) :
    (((reservedFpk.each [1, 0] openDests).drawN 8).2.endWork 1 status).work 0 = some (launchedFor 1) := by
  revert status
  decide +kernel

/-- The host error of work 0 leaves it as it was. -/
theorem reservedFpk_openWork : (reservedFpk.openWork 0).work 0 = some (launchedFor 1) := by
  have parent : reservedFpk.root 0 = 1 := by decide +kernel
  have operations : reservedFpk.kids 1 = [0] := by decide +kernel
  unfold openWork
  simp only [parent, operations]
  rw [modWork_work_other _ (by decide)]
  exact reservedFpk_endWork _ (Nat.mod_lt _ (by decide))

/-- Refutes O32: FPK with format code 15, in an operation of an operation, leaves the work running, while the statement
has it ended. -/
theorem not_porterFloatingPoint : ¬ Obligations.PorterFloatingPoint := by
  unfold Obligations.PorterFloatingPoint
  rintro ⟨-, rows⟩
  obtain ⟨-, -, -, -, -, -, fpk⟩ := rows 0 (reservedFpk.porter 0) nestedMail (launchedFor 1) fpkWord reservedFpk
    reservedFpk_fetches (by decide)
  obtain ⟨-, -, spoils⟩ := fpk (by decide)
  obtain ⟨t, next, ⟨k, work, ended⟩, -⟩ := spoils reservedFpk_format
  have opened : execFpk 0 reservedFpk = .next (reservedFpk.openWork 0) :=
    execFpk_of_reserved (e := nestedMail) reservedFpk_fetches (by decide) (by decide) reservedFpk_format
  obtain rfl : reservedFpk.openWork 0 = t := by
    injection opened.symm.trans next
  obtain rfl : launchedFor 1 = k := by
    injection reservedFpk_openWork.symm.trans work
  exact absurd ended (by decide)

end Sys2Proof.Machine
